-- ==== Sys2Proof/Word.lean ====
section
/-! DEFINITION. The word types of the CZ9-2048X (00_scope R5; 01 R12): 8-bit bytes, 32-bit lane words and instruction words, 64-bit pairs and uniform registers, 48-bit virtual addresses. -/

namespace Sys2Proof

/-- One byte of memory, scratchpad or a record. -/
abbrev Byte := BitVec 8

/-- A lane register, and an instruction word (R12, R36). -/
abbrev Word := BitVec 32

/-- A lane pair or a group-uniform register (R12, R14). -/
abbrev DWord := BitVec 64

/-- A virtual address (R9, R149). -/
abbrev VA := BitVec 48

/-- A version identifier: 64 × domain + slot (R376). -/
abbrev VID := BitVec 10

end Sys2Proof
end

