-- ==== Sys2Proof/Syntax.lean ====
section
/-! DEFINITION. The whole operation table of the CZ9-2048X as one inductive: the fibre words (02 R39 to R45), the words of a queue program (21 R492, R493) and the events, which have no word. What an event is about (which pending thing, or what comes from outside the part) stands in the state's field `arg`, as the turn that brings the event on supplies it. -/

namespace Sys2Proof

/-- The operations and events of the part, one constructor for each row of the operation table. A word's arguments are its fields, in the table's order; an immediate that stands in two parts of the word is one argument. -/
inductive Instr where
  /-- `ADD` (R95). Adds two 32-bit registers, wrapping, or saturating signed under .S. -/
  | add (h : Bool) (g : Bool) (m : Bool) (d : BitVec 7) (a : BitVec 7) (b : BitVec 7)
  /-- `SUB` (R95). Subtracts two 32-bit registers, wrapping, or saturating signed under .S. -/
  | sub (h : Bool) (g : Bool) (m : Bool) (d : BitVec 7) (a : BitVec 7) (b : BitVec 7)
  /-- `MUL` (R95). Writes the low 32 bits of the product. -/
  | mul (h : Bool) (g : Bool) (d : BitVec 7) (a : BitVec 7) (b : BitVec 7)
  /-- `MULH` (R95). Writes the high 32 bits of the unsigned or signed 64-bit product. -/
  | mulh (h : Bool) (g : Bool) (m : Bool) (d : BitVec 7) (a : BitVec 7) (b : BitVec 7)
  /-- `IMAD` (R95). Adds or subtracts a × b into d, wrapping. -/
  | imad (h : Bool) (g : Bool) (m : Bool) (d : BitVec 7) (a : BitVec 7) (b : BitVec 7)
  /-- `DIV` (R95). Writes the quotient of a ÷ b under the edge cases of R31. -/
  | div (h : Bool) (g : Bool) (m : Bool) (d : BitVec 7) (a : BitVec 7) (b : BitVec 7)
  /-- `REM` (R95). Writes the remainder of a ÷ b under R31. -/
  | rem (h : Bool) (g : Bool) (m : Bool) (d : BitVec 7) (a : BitVec 7) (b : BitVec 7)
  /-- `AND` (R95). Bitwise AND, or AND NOT under .N. -/
  | and (h : Bool) (g : Bool) (m : Bool) (d : BitVec 7) (a : BitVec 7) (b : BitVec 7)
  /-- `OR` (R95). Bitwise OR, or OR NOT under .N. -/
  | or (h : Bool) (g : Bool) (m : Bool) (d : BitVec 7) (a : BitVec 7) (b : BitVec 7)
  /-- `XOR` (R95). Bitwise XOR, or XOR NOT under .N. -/
  | xor (h : Bool) (g : Bool) (m : Bool) (d : BitVec 7) (a : BitVec 7) (b : BitVec 7)
  /-- `SHL` (R95). Shifts a left by b, giving 0 for shifts of 32 or more. -/
  | shl (h : Bool) (g : Bool) (d : BitVec 7) (a : BitVec 7) (b : BitVec 7)
  /-- `SHR` (R95). Shifts a right, logically or arithmetically under .A. -/
  | shr (h : Bool) (g : Bool) (m : Bool) (d : BitVec 7) (a : BitVec 7) (b : BitVec 7)
  /-- `MIN` (R95). Writes the lesser of a and b, unsigned or signed. -/
  | min (h : Bool) (g : Bool) (m : Bool) (d : BitVec 7) (a : BitVec 7) (b : BitVec 7)
  /-- `MAX` (R95). Writes the greater of a and b, unsigned or signed. -/
  | max (h : Bool) (g : Bool) (m : Bool) (d : BitVec 7) (a : BitVec 7) (b : BitVec 7)
  /-- `IUN_MOV` (R97). Copies a register or pair. -/
  | iunMov (h : Bool) (m : Bool) (d : BitVec 7) (a : BitVec 7)
  /-- `IUN_NOT` (R97). Bitwise complement of a register or pair. -/
  | iunNot (h : Bool) (m : Bool) (d : BitVec 7) (a : BitVec 7)
  /-- `IUN_NEG` (R97). Two's-complement negation, wrapping. -/
  | iunNeg (h : Bool) (m : Bool) (d : BitVec 7) (a : BitVec 7)
  /-- `IUN_ABS` (R97). Signed absolute value, wrapping. -/
  | iunAbs (h : Bool) (m : Bool) (d : BitVec 7) (a : BitVec 7)
  /-- `IUN_CLZ` (R97). Counts leading zero bits. -/
  | iunClz (h : Bool) (m : Bool) (d : BitVec 7) (a : BitVec 7)
  /-- `IUN_CTZ` (R97). Counts trailing zero bits. -/
  | iunCtz (h : Bool) (m : Bool) (d : BitVec 7) (a : BitVec 7)
  /-- `IUN_POPC` (R97). Counts one bits. -/
  | iunPopc (h : Bool) (m : Bool) (d : BitVec 7) (a : BitVec 7)
  /-- `IUN_BREV` (R97). Reverses the bit order. -/
  | iunBrev (h : Bool) (m : Bool) (d : BitVec 7) (a : BitVec 7)
  /-- `IUN_BSWAP` (R97). Reverses the byte order. -/
  | iunBswap (h : Bool) (m : Bool) (d : BitVec 7) (a : BitVec 7)
  /-- `IUN_SEXTB` (R97). Sign-extends the low byte. -/
  | iunSextb (h : Bool) (d : BitVec 7) (a : BitVec 7)
  /-- `IUN_SEXTH` (R97). Sign-extends the low half-word. -/
  | iunSexth (h : Bool) (d : BitVec 7) (a : BitVec 7)
  /-- `IUN_ZEXTB` (R97). Zero-extends the low byte. -/
  | iunZextb (h : Bool) (d : BitVec 7) (a : BitVec 7)
  /-- `IUN_ZEXTH` (R97). Zero-extends the low half-word. -/
  | iunZexth (h : Bool) (d : BitVec 7) (a : BitVec 7)
  /-- `ROT` (R95). Rotates a left, or right under .R, by b mod 32. -/
  | rot (h : Bool) (g : Bool) (m : Bool) (d : BitVec 7) (a : BitVec 7) (b : BitVec 7)
  /-- `BFX` (R96). Extracts a bit field, zero- or sign-extended. -/
  | bfx (h : Bool) (g : Bool) (m : Bool) (d : BitVec 7) (a : BitVec 7) (b : BitVec 7)
  /-- `BFI` (R96). Inserts a bit field of a into d. -/
  | bfi (h : Bool) (g : Bool) (d : BitVec 7) (a : BitVec 7) (b : BitVec 7)
  /-- `LEA` (R95). Adds a sign- or zero-extended 32-bit offset to a 64-bit pair. -/
  | lea (h : Bool) (g : Bool) (m : Bool) (d : BitVec 7) (a : BitVec 7) (b : BitVec 7)
  /-- `LEAW` (R95). Adds four times an extended 32-bit offset to a 64-bit pair. -/
  | leaw (h : Bool) (g : Bool) (m : Bool) (d : BitVec 7) (a : BitVec 7) (b : BitVec 7)
  /-- `ADDW` (R95). Adds or subtracts 64-bit pairs. -/
  | addw (h : Bool) (g : Bool) (m : Bool) (d : BitVec 7) (a : BitVec 7) (b : BitVec 7)
  /-- `MULW` (R95). Multiplies 64-bit pairs, keeping the low 64 bits. -/
  | mulw (h : Bool) (g : Bool) (d : BitVec 7) (a : BitVec 7) (b : BitVec 7)
  /-- `SHLW` (R95). Shifts a 64-bit pair left. -/
  | shlw (h : Bool) (g : Bool) (d : BitVec 7) (a : BitVec 7) (b : BitVec 7)
  /-- `SHRW` (R95). Shifts a 64-bit pair right, logically or arithmetically. -/
  | shrw (h : Bool) (g : Bool) (m : Bool) (d : BitVec 7) (a : BitVec 7) (b : BitVec 7)
  /-- `SEL` (R106). Selects a or b by a predicate p0 to p7. -/
  | sel (p : BitVec 3) (d : BitVec 7) (a : BitVec 7) (b : BitVec 7)
  /-- `ADDI` (R98). Adds a signed 10-bit immediate. -/
  | addi (i : BitVec 10) (d : BitVec 7) (a : BitVec 7)
  /-- `ANDI` (R98). ANDs with a sign-extended 10-bit immediate. -/
  | andi (i : BitVec 10) (d : BitVec 7) (a : BitVec 7)
  /-- `ORI` (R98). ORs with a sign-extended 10-bit immediate. -/
  | ori (i : BitVec 10) (d : BitVec 7) (a : BitVec 7)
  /-- `XORI` (R98). XORs with a sign-extended 10-bit immediate. -/
  | xori (i : BitVec 10) (d : BitVec 7) (a : BitVec 7)
  /-- `SHI` (R99). Shifts or rotates by an immediate amount of a kind chosen in the immediate. -/
  | shi (k : BitVec 2) (d : BitVec 7) (a : BitVec 7) (n : BitVec 5)
  /-- `MULI` (R98). Multiplies by a signed 10-bit immediate. -/
  | muli (i : BitVec 10) (d : BitVec 7) (a : BitVec 7)
  /-- `LI` (R100). Loads a sign-extended 17-bit immediate. -/
  | li (i : BitVec 17) (d : BitVec 7)
  /-- `LIH` (R100). Writes bits [31:15] of d from a 17-bit immediate. -/
  | lih (i : BitVec 17) (d : BitVec 7)
  /-- `ADDIW` (R98). Adds a sign-extended 10-bit immediate to a pair. -/
  | addiw (i : BitVec 10) (d : BitVec 7) (a : BitVec 7)
  /-- `ICMP` (R102). Compares 32-bit registers and combines the result into a predicate. -/
  | icmp (c : BitVec 4) (p : BitVec 4) (e : BitVec 2) (a : BitVec 7) (b : BitVec 7)
  /-- `ICMPI` (R102). Compares a register with a 7-bit immediate into a predicate. -/
  | icmpi (c : BitVec 4) (p : BitVec 4) (e : BitVec 2) (a : BitVec 7) (i : BitVec 7)
  /-- `ICMPW` (R102). Compares 64-bit pairs into a predicate. -/
  | icmpw (c : BitVec 4) (p : BitVec 4) (e : BitVec 2) (a : BitVec 7) (b : BitVec 7)
  /-- `FCMP` (R103). Compares FP32 registers into a predicate, raising NV as tabulated. -/
  | fcmp (c : BitVec 4) (p : BitVec 4) (e : BitVec 2) (a : BitVec 7) (b : BitVec 7)
  /-- `DCMP` (R103). Compares FP64 pairs into a predicate. -/
  | dcmp (c : BitVec 4) (p : BitVec 4) (e : BitVec 2) (a : BitVec 7) (b : BitVec 7)
  /-- `PLOG` (R104). Sets a predicate from a truth table of two predicates. -/
  | plog (t : BitVec 4) (p : BitVec 4) (x : BitVec 4) (y : BitVec 4)
  /-- `PMOV_TO_LANE` (R105). Writes 1 or 0 into a lane register from a predicate. -/
  | pmovToLane (h : Bool) (g : Bool) (d : BitVec 7) (p : BitVec 4)
  /-- `PMOV_TO_PRED` (R105). Sets a predicate from whether a lane register is nonzero. -/
  | pmovToPred (h : Bool) (g : Bool) (p : BitVec 4) (a : BitVec 7)
  /-- `KALU` (R108). Performs a 64-bit operation on group-uniform registers. -/
  | kalu (o : BitVec 3) (d : BitVec 7) (a : BitVec 7) (b : BitVec 7)
  /-- `KADDI` (R109). Adds a signed 10-bit immediate to a k register. -/
  | kaddi (i : BitVec 10) (d : BitVec 5) (a : BitVec 5)
  /-- `KMOV_TO_K` (R110). Copies a lane pair of the lowest active lane into a k register. -/
  | kmovToK (h : Bool) (d : BitVec 5) (a : BitVec 7)
  /-- `KMOV_TO_LANE` (R110). Copies a k register into a lane pair of every fibre of the batch. -/
  | kmovToLane (h : Bool) (d : BitVec 7) (a : BitVec 5)
  /-- `KLD` (R111). Loads 8 bytes into a k register, once per issue. -/
  | kld (h : BitVec 2) (d : BitVec 7) (a : BitVec 7) (o : BitVec 7)
  /-- `KST` (R111). Stores a k register to memory, once per issue. -/
  | kst (h : BitVec 2) (d : BitVec 7) (a : BitVec 7) (o : BitVec 7)
  /-- `FADD` (R126). FP32 add or subtract, rounded once RNE. -/
  | fadd (h : Bool) (g : Bool) (m : Bool) (d : BitVec 7) (a : BitVec 7) (b : BitVec 7)
  /-- `FMUL` (R126). FP32 multiply, optionally negated. -/
  | fmul (h : Bool) (g : Bool) (m : Bool) (d : BitVec 7) (a : BitVec 7) (b : BitVec 7)
  /-- `FFMA` (R127). FP32 fused multiply-add with one rounding. -/
  | ffma (h : Bool) (g : Bool) (m : Bool) (d : BitVec 7) (a : BitVec 7) (b : BitVec 7)
  /-- `FMIN` (R128). FP32 minimumNumber, or maximumNumber under .X. -/
  | fmin (h : Bool) (g : Bool) (m : Bool) (d : BitVec 7) (a : BitVec 7) (b : BitVec 7)
  /-- `FUN_SQRT` (R131). Correctly rounded FP32 square root. -/
  | funSqrt (h : Bool) (d : BitVec 7) (a : BitVec 7)
  /-- `FUN_RSQRT` (R131). Correctly rounded FP32 reciprocal square root. -/
  | funRsqrt (h : Bool) (d : BitVec 7) (a : BitVec 7)
  /-- `FUN_RCP` (R131). Correctly rounded FP32 reciprocal. -/
  | funRcp (h : Bool) (d : BitVec 7) (a : BitVec 7)
  /-- `FUN_EXP2` (R131). Correctly rounded FP32 2^a. -/
  | funExp2 (h : Bool) (d : BitVec 7) (a : BitVec 7)
  /-- `FUN_LOG2` (R131). Correctly rounded FP32 log2 a. -/
  | funLog2 (h : Bool) (d : BitVec 7) (a : BitVec 7)
  /-- `FUN_SIN` (R131). Correctly rounded FP32 sine. -/
  | funSin (h : Bool) (d : BitVec 7) (a : BitVec 7)
  /-- `FUN_COS` (R131). Correctly rounded FP32 cosine. -/
  | funCos (h : Bool) (d : BitVec 7) (a : BitVec 7)
  /-- `FUN_TANH` (R131). Correctly rounded FP32 hyperbolic tangent. -/
  | funTanh (h : Bool) (d : BitVec 7) (a : BitVec 7)
  /-- `FUN_ABS` (R131). FP32 absolute value. -/
  | funAbs (h : Bool) (d : BitVec 7) (a : BitVec 7)
  /-- `FUN_NEG` (R131). FP32 negation. -/
  | funNeg (h : Bool) (d : BitVec 7) (a : BitVec 7)
  /-- `FUN_FLOOR` (R131). FP32 floor. -/
  | funFloor (h : Bool) (d : BitVec 7) (a : BitVec 7)
  /-- `FUN_CEIL` (R131). FP32 ceiling. -/
  | funCeil (h : Bool) (d : BitVec 7) (a : BitVec 7)
  /-- `FUN_TRUNC` (R131). FP32 truncation toward zero. -/
  | funTrunc (h : Bool) (d : BitVec 7) (a : BitVec 7)
  /-- `FUN_RINT` (R131). FP32 round to integral, ties to even. -/
  | funRint (h : Bool) (d : BitVec 7) (a : BitVec 7)
  /-- `FUN_CLASS` (R133). Writes the one-hot class mask of an FP32 value. -/
  | funClass (h : Bool) (d : BitVec 7) (a : BitVec 7)
  /-- `FDIV` (R126). FP32 division rounded once RNE. -/
  | fdiv (h : Bool) (g : Bool) (d : BitVec 7) (a : BitVec 7) (b : BitVec 7)
  /-- `HADD2` (R130). Packed FP16 or BF16 addition of two elements. -/
  | hadd2 (h : Bool) (g : Bool) (m : Bool) (d : BitVec 7) (a : BitVec 7) (b : BitVec 7)
  /-- `HMUL2` (R130). Packed FP16 or BF16 multiplication. -/
  | hmul2 (h : Bool) (g : Bool) (m : Bool) (d : BitVec 7) (a : BitVec 7) (b : BitVec 7)
  /-- `HFMA2` (R130). Packed FP16 fused multiply-add, optionally negated. -/
  | hfma2 (h : Bool) (g : Bool) (m : Bool) (d : BitVec 7) (a : BitVec 7) (b : BitVec 7)
  /-- `DADD` (R126). FP64 add or subtract. -/
  | dadd (h : Bool) (g : Bool) (m : Bool) (d : BitVec 7) (a : BitVec 7) (b : BitVec 7)
  /-- `DMUL` (R126). FP64 multiply. -/
  | dmul (h : Bool) (g : Bool) (m : Bool) (d : BitVec 7) (a : BitVec 7) (b : BitVec 7)
  /-- `DFMA` (R127). FP64 fused multiply-add. -/
  | dfma (h : Bool) (g : Bool) (m : Bool) (d : BitVec 7) (a : BitVec 7) (b : BitVec 7)
  /-- `DUN_SQRT` (R131). Correctly rounded FP64 square root. -/
  | dunSqrt (h : Bool) (d : BitVec 7) (a : BitVec 7)
  /-- `DUN_RSQRT` (R131). Correctly rounded FP64 reciprocal square root. -/
  | dunRsqrt (h : Bool) (d : BitVec 7) (a : BitVec 7)
  /-- `DUN_RCP` (R131). Correctly rounded FP64 reciprocal. -/
  | dunRcp (h : Bool) (d : BitVec 7) (a : BitVec 7)
  /-- `DUN_ABS` (R131). FP64 absolute value. -/
  | dunAbs (h : Bool) (d : BitVec 7) (a : BitVec 7)
  /-- `DUN_NEG` (R131). FP64 negation. -/
  | dunNeg (h : Bool) (d : BitVec 7) (a : BitVec 7)
  /-- `DUN_FLOOR` (R131). FP64 floor. -/
  | dunFloor (h : Bool) (d : BitVec 7) (a : BitVec 7)
  /-- `DUN_CEIL` (R131). FP64 ceiling. -/
  | dunCeil (h : Bool) (d : BitVec 7) (a : BitVec 7)
  /-- `DUN_TRUNC` (R131). FP64 truncation. -/
  | dunTrunc (h : Bool) (d : BitVec 7) (a : BitVec 7)
  /-- `DUN_RINT` (R131). FP64 round to integral, ties to even. -/
  | dunRint (h : Bool) (d : BitVec 7) (a : BitVec 7)
  /-- `DUN_CLASS` (R133). Writes the class mask of an FP64 value into one register. -/
  | dunClass (h : Bool) (d : BitVec 7) (a : BitVec 7)
  /-- `DDIV` (R126). FP64 division. -/
  | ddiv (h : Bool) (g : Bool) (d : BitVec 7) (a : BitVec 7) (b : BitVec 7)
  /-- `DMIN` (R128). FP64 minimumNumber or maximumNumber. -/
  | dmin (h : Bool) (g : Bool) (m : Bool) (d : BitVec 7) (a : BitVec 7) (b : BitVec 7)
  /-- `CVT_F32_F64` (R137). Converts FP64 to FP32 in the chosen rounding. -/
  | cvtF32F64 (h : Bool) (d : BitVec 7) (a : BitVec 7) (r : BitVec 2)
  /-- `CVT_F64_F32` (R137). Converts FP32 to FP64 exactly. -/
  | cvtF64F32 (h : Bool) (d : BitVec 7) (a : BitVec 7)
  /-- `CVT_F16_F32` (R137). Converts FP32 to FP16 into a selected half. -/
  | cvtF16F32 (h : Bool) (x : Bool) (d : BitVec 7) (a : BitVec 7) (r : BitVec 2)
  /-- `CVT_F32_F16` (R137). Converts a selected FP16 half to FP32 exactly. -/
  | cvtF32F16 (h : Bool) (x : Bool) (d : BitVec 7) (a : BitVec 7)
  /-- `CVT_BF16_F32` (R137). Converts FP32 to BF16 into a selected half. -/
  | cvtBf16F32 (h : Bool) (x : Bool) (d : BitVec 7) (a : BitVec 7) (r : BitVec 2)
  /-- `CVT_F32_BF16` (R137). Converts a selected BF16 half to FP32 exactly. -/
  | cvtF32Bf16 (h : Bool) (x : Bool) (d : BitVec 7) (a : BitVec 7)
  /-- `CVT_S32_F32` (R137). Converts FP32 to a clamped signed 32-bit integer. -/
  | cvtS32F32 (h : Bool) (d : BitVec 7) (a : BitVec 7) (r : BitVec 2)
  /-- `CVT_U32_F32` (R137). Converts FP32 to a clamped unsigned 32-bit integer. -/
  | cvtU32F32 (h : Bool) (d : BitVec 7) (a : BitVec 7) (r : BitVec 2)
  /-- `CVT_F32_S32` (R137). Converts a signed 32-bit integer to FP32. -/
  | cvtF32S32 (h : Bool) (d : BitVec 7) (a : BitVec 7) (r : BitVec 2)
  /-- `CVT_F32_U32` (R137). Converts an unsigned 32-bit integer to FP32. -/
  | cvtF32U32 (h : Bool) (d : BitVec 7) (a : BitVec 7) (r : BitVec 2)
  /-- `CVT_S32_F64` (R137). Converts FP64 to a signed 32-bit integer. -/
  | cvtS32F64 (h : Bool) (d : BitVec 7) (a : BitVec 7) (r : BitVec 2)
  /-- `CVT_U32_F64` (R137). Converts FP64 to an unsigned 32-bit integer. -/
  | cvtU32F64 (h : Bool) (d : BitVec 7) (a : BitVec 7) (r : BitVec 2)
  /-- `CVT_F64_S32` (R137). Converts a signed 32-bit integer to FP64 exactly. -/
  | cvtF64S32 (h : Bool) (d : BitVec 7) (a : BitVec 7)
  /-- `CVT_F64_U32` (R137). Converts an unsigned 32-bit integer to FP64 exactly. -/
  | cvtF64U32 (h : Bool) (d : BitVec 7) (a : BitVec 7)
  /-- `CVT_S64_F64` (R137). Converts FP64 to a signed 64-bit integer. -/
  | cvtS64F64 (h : Bool) (d : BitVec 7) (a : BitVec 7) (r : BitVec 2)
  /-- `CVT_F64_S64` (R137). Converts a signed 64-bit integer to FP64. -/
  | cvtF64S64 (h : Bool) (d : BitVec 7) (a : BitVec 7) (r : BitVec 2)
  /-- `CVTN` (R139). Scales n FP32 registers and packs them into the slot's narrow format. -/
  | cvtn (s : BitVec 3) (d : BitVec 7) (a : BitVec 7) (b : BitVec 7)
  /-- `CVTW` (R140). Unpacks narrow elements into n FP32 registers with a scale. -/
  | cvtw (s : BitVec 3) (d : BitVec 7) (a : BitVec 7) (b : BitVec 7)
  /-- `RAND` (R145). Draws two generator words into an integer or a float in [0, 1). -/
  | rand (m : Bool) (d : BitVec 7)
  /-- `RSEED` (R144). Sets the generator key and stream and clears its draw index. -/
  | rseed (a : BitVec 7) (b : BitVec 7)
  /-- `BRA` (R112). Branches on a predicate sense to a word offset. -/
  | bra (s : Bool) (p : BitVec 4) (o : BitVec 19)
  /-- `BRX` (R113). Jumps to the address in a pair. -/
  | brx (h : Bool) (g : Bool) (a : BitVec 7)
  /-- `CALL` (R114). Slides the window, spills as needed and calls a relative target. -/
  | call (s : BitVec 4) (o : BitVec 20)
  /-- `CALLI` (R114). Slides the window and calls the address in a pair. -/
  | calli (s : BitVec 4) (a : BitVec 7)
  /-- `RET` (R115). Returns through the link words, moving the window back and filling. -/
  | ret
  /-- `WBASE` (R116). Sets the window base directly or relatively. -/
  | wbase (h : Bool) (m : Bool) (a : BitVec 7)
  /-- `REP` (R56). Re-issues the following full word count times with stepped fields. -/
  | rep (c : BitVec 6) (x : BitVec 3) (y : BitVec 3) (z : BitVec 3)
  /-- `TRAP` (R121). Raises TRAP with a code for the handler. -/
  | trap (c : BitVec 8)
  /-- `RETT_RESUME` (R439). Publishes, restores saved registers and re-executes the faulting instruction. -/
  | rettResume
  /-- `RETT_SKIP` (R439). Publishes, restores and continues past the faulting instruction or iteration. -/
  | rettSkip
  /-- `RETT_KILLFIBRE` (R439). Publishes and ends the fibre as FEND does. -/
  | rettKillfibre
  /-- `RETT_TASKRETRY` (R440). Returns the group's task to TILES and suppresses the group until TEND. -/
  | rettTaskretry
  /-- `RETT_TASKSKIP` (R440). Frees the group's task after its successor decrement, or sends it to VERIFY. -/
  | rettTaskskip
  /-- `RETT_TASKKILL` (R440). Frees the group's task with no successor decrement. -/
  | rettTaskkill
  /-- `FEND` (R118). Ends the fibre, making it a helper or ending its quad's helpers. -/
  | fend
  /-- `SRD` (R122). Reads a special register into a lane register. -/
  | srd (g : Bool) (d : BitVec 7) (n : BitVec 7)
  /-- `SWR` (R122). Writes a special register from a lane register. -/
  | swr (h : Bool) (g : Bool) (a : BitVec 7) (n : BitVec 7)
  /-- `LDB` (R153). Loads and zero-extends a byte. -/
  | ldb (h : BitVec 2) (m : Bool) (d : BitVec 7) (a : BitVec 7) (o : BitVec 7)
  /-- `LDH` (R153). Loads and zero-extends a half-word. -/
  | ldh (h : BitVec 2) (m : Bool) (d : BitVec 7) (a : BitVec 7) (o : BitVec 7)
  /-- `LDW` (R153). Loads a word, optionally waiting for a FULL granule. -/
  | ldw (h : BitVec 2) (m : Bool) (d : BitVec 7) (a : BitVec 7) (o : BitVec 7)
  /-- `LDD` (R153). Loads 8 bytes into a pair. -/
  | ldd (h : BitVec 2) (m : Bool) (d : BitVec 7) (a : BitVec 7) (o : BitVec 7)
  /-- `LDQ` (R153). Loads 16 bytes into four registers. -/
  | ldq (h : BitVec 2) (m : Bool) (d : BitVec 7) (a : BitVec 7) (o : BitVec 7)
  /-- `STB` (R153). Stores a byte, optionally waiting for EMPTY or setting FULL. -/
  | stb (h : BitVec 2) (m : Bool) (d : BitVec 7) (a : BitVec 7) (o : BitVec 7)
  /-- `STH` (R153). Stores a half-word. -/
  | sth (h : BitVec 2) (m : Bool) (d : BitVec 7) (a : BitVec 7) (o : BitVec 7)
  /-- `STW` (R153). Stores a word. -/
  | stw (h : BitVec 2) (m : Bool) (d : BitVec 7) (a : BitVec 7) (o : BitVec 7)
  /-- `STD` (R153). Stores a pair. -/
  | std (h : BitVec 2) (m : Bool) (d : BitVec 7) (a : BitVec 7) (o : BitVec 7)
  /-- `STQ` (R153). Stores four registers. -/
  | stq (h : BitVec 2) (m : Bool) (d : BitVec 7) (a : BitVec 7) (o : BitVec 7)
  /-- `PFETCH` (R159). Requests a 1 KiB line toward the core, never faulting. -/
  | pfetch (h : BitVec 2) (a : BitVec 7) (o : BitVec 7)
  /-- `CLINE` (R160). Writes back, and optionally invalidates, the core's copy of a line. -/
  | cline (m : Bool) (a : BitVec 7) (o : BitVec 7)
  /-- `YIELD` (R119). Demotes the issuing batch entry. -/
  | yield
  /-- `SLEEP` (R120). Delays the fibre's next issue by at least n clocks. -/
  | sleep (i : BitVec 17)
  /-- `BRK` (R121). Raises BREAKPOINT with a code. -/
  | brk (c : BitVec 8)
  /-- `NOP` (R119). Does nothing for one clock. -/
  | nop
  /-- `AADD` (R161). Atomic add returning the old value. -/
  | aadd (s : BitVec 3) (d : BitVec 7) (a : BitVec 6) (w : Bool) (b : BitVec 7)
  /-- `AAND` (R161). Atomic AND. -/
  | aand (s : BitVec 3) (d : BitVec 7) (a : BitVec 6) (w : Bool) (b : BitVec 7)
  /-- `AOR` (R161). Atomic OR. -/
  | aor (s : BitVec 3) (d : BitVec 7) (a : BitVec 6) (w : Bool) (b : BitVec 7)
  /-- `AXOR` (R161). Atomic XOR. -/
  | axor (s : BitVec 3) (d : BitVec 7) (a : BitVec 6) (w : Bool) (b : BitVec 7)
  /-- `AMIN` (R161). Atomic signed minimum. -/
  | amin (s : BitVec 3) (d : BitVec 7) (a : BitVec 6) (w : Bool) (b : BitVec 7)
  /-- `AMAX` (R161). Atomic signed maximum. -/
  | amax (s : BitVec 3) (d : BitVec 7) (a : BitVec 6) (w : Bool) (b : BitVec 7)
  /-- `AXCH` (R161). Atomic exchange. -/
  | axch (s : BitVec 3) (d : BitVec 7) (a : BitVec 6) (w : Bool) (b : BitVec 7)
  /-- `ACAS` (R162). Atomic compare-and-swap, demoting the entry when it fails. -/
  | acas (s : BitVec 3) (d : BitVec 7) (a : BitVec 6) (w : Bool) (b : BitVec 7)
  /-- `AFADD` (R163). Atomic floating-point add. -/
  | afadd (s : BitVec 3) (d : BitVec 7) (a : BitVec 6) (w : Bool) (b : BitVec 7)
  /-- `ALD` (R164). Atomic load, always an acquire. -/
  | ald (s : BitVec 3) (d : BitVec 7) (a : BitVec 6) (w : Bool)
  /-- `AST` (R164). Atomic store, always a release. -/
  | ast (s : BitVec 3) (a : BitVec 6) (w : Bool) (b : BitVec 7)
  /-- `PHASE` (R295). Acts as FENCE LMXC, LMXC: publishes, waits for engines and takes a snapshot. -/
  | phase
  /-- `FENCE` (R294). Orders the named paths before against those after. -/
  | fence (b : BitVec 4) (a : BitVec 4)
  /-- `WAIT` (R299). Waits until outstanding loads, stores, tile operations and tokens fall to limits. -/
  | wait (l : BitVec 4) (s : BitVec 4) (t : BitVec 4) (m : BitVec 8)
  /-- `TAG_SETF` (R302). Sets n granules FULL. -/
  | tagSetf (a : BitVec 7) (n : BitVec 7)
  /-- `TAG_SETE` (R302). Sets n granules EMPTY. -/
  | tagSete (a : BitVec 7) (n : BitVec 7)
  /-- `TAG_CONS` (R302). Waits for n granules FULL and empties them together. -/
  | tagCons (a : BitVec 7) (n : BitVec 7)
  /-- `TAG_GET` (R302). Reads a granule's tag code. -/
  | tagGet (d : BitVec 7) (a : BitVec 7)
  /-- `TAG_POISON` (R302). Sets n granules POISONED. -/
  | tagPoison (a : BitVec 7) (n : BitVec 7)
  /-- `GBAR` (R304). Arrives at a memory barrier word and waits for its generation to change. -/
  | gbar (s : BitVec 3) (d : BitVec 7) (a : BitVec 6) (b : BitVec 7)
  /-- `FSPAWN` (R227). Starts new fibres in vacant lanes of the requesters' groups. -/
  | fspawn (h : Bool) (g : Bool) (d : BitVec 7) (a : BitVec 7) (b : BitVec 7)
  /-- `VOTE_ALL` (R228). Sets a predicate when the source is 1 in every participant. -/
  | voteAll (s : BitVec 4) (p : BitVec 4)
  /-- `VOTE_ANY` (R228). Sets a predicate when the source is 1 in some participant. -/
  | voteAny (s : BitVec 4) (p : BitVec 4)
  /-- `VOTE_BALLOT` (R228). Writes the lane mask of participants whose source is 1. -/
  | voteBallot (d : BitVec 7) (s : BitVec 4)
  /-- `VOTE_EQ` (R228). Sets a predicate when all participants agree. -/
  | voteEq (s : BitVec 4) (p : BitVec 4)
  /-- `SHFL` (R229). Reads a register of another lane of the group, indexed or by XOR. -/
  | shfl (g : Bool) (m : Bool) (d : BitVec 7) (a : BitVec 7) (b : BitVec 7)
  /-- `QSWAP` (R230). Exchanges or broadcasts values within a quad. -/
  | qswap (e : BitVec 2) (w : Bool) (d : BitVec 7) (a : BitVec 7) (s : BitVec 2)
  /-- `GRED` (R232). Reduces or scans participants' values in a fixed tree. -/
  | gred (s : Bool) (d : BitVec 7) (a : BitVec 7) (o : BitVec 4)
  /-- `CLASP_DECL` (R234). Declares a clasp live or counted, once per group. -/
  | claspDecl (n : BitVec 14) (c : BitVec 4)
  /-- `CLASP_SIGN` (R212). Signs a clasp for each live fibre and checks for release. -/
  | claspSign (c : BitVec 4)
  /-- `CLASP_WAIT` (R212). Waits while the fibre's sign on the clasp is pending. -/
  | claspWait (c : BitVec 4)
  /-- `CLASP_ARRIVE` (R212). Signs a clasp and then waits on it. -/
  | claspArrive (c : BitVec 4)
  /-- `CLASP_READ` (R234). Reads a clasp's state and the fibre's sign bit. -/
  | claspRead (d : BitVec 7) (c : BitVec 4)
  /-- `WDQ` (R236). Sends one work-distributor request per group for an answer in scratchpad. -/
  | wdq (k : BitVec 5) (o : BitVec 11)
  /-- `MMA` (R320). Checks the word and signs a clasp whose release issues a matrix command. -/
  | mma (m : BitVec 2) (n : BitVec 6) (s : BitVec 3) (c : BitVec 4) (e : BitVec 2) (k : BitVec 5)
  /-- `MMC` (R328). Signs a clasp whose release issues a shaped, possibly cluster-split, matrix command. -/
  | mmc (s : BitVec 3) (c : BitVec 4) (e : BitVec 2) (k : BitVec 5)
  /-- `MACC_ZERO` (R345). Zeroes a range of accumulator tiles in command order. -/
  | maccZero (k : BitVec 5)
  /-- `MACC_LD` (R346). Reads raw accumulator words into lane registers. -/
  | maccLd (d : BitVec 7) (a : BitVec 7) (n : BitVec 7)
  /-- `MACC_ST` (R348). Converts accumulator elements out to scratchpad and sets FULL. -/
  | maccSt (s : BitVec 3) (k : BitVec 5)
  /-- `TASK_TQ` (R372). Enqueues a task record into the core's dependency table. -/
  | taskTq (d : BitVec 7) (a : BitVec 7)
  /-- `TASK_TRUN` (R373). Selects an eligible task for the group and loads its record into k0 to k7. -/
  | taskTrun (p : BitVec 4)
  /-- `TASK_TEND` (R374). Publishes, decrements the successor and frees the group's task. -/
  | taskTend
  /-- `VERS_RESOLVE` (R393). Commits the path to a version, squashes the rest and updates ACCEPT. -/
  | versResolve (d : BitVec 7) (a : BitVec 7) (b : BitVec 7)
  /-- `VERS_PTILE` (R401). Declares or removes a predictable granule range. -/
  | versPtile (a : BitVec 7)
  /-- `VERS_STATE` (R412). Reads a version's status word. -/
  | versState (d : BitVec 7) (a : BitVec 7)
  /-- `TOPK` (R238). Starts selecting the k largest of n scratchpad keys. -/
  | topk (t : BitVec 2) (s : Bool) (k : BitVec 5)
  /-- `LAUNCH` (R240). Reads a launch record and appends it to a hardware queue. -/
  | launch (q : BitVec 8) (k : BitVec 5)
  /-- `LAUNCH_SPEC` (R380). Appends a launch record rewritten as a speculative version. -/
  | launchSpec (q : BitVec 8) (k : BitVec 5)
  /-- `TLBI` (R451). Publishes and removes every cached translation of a page. -/
  | tlbi (a : BitVec 7)
  /-- `TLBI_ALL` (R451). Publishes and removes every cached translation. -/
  | tlbiAll
  /-- `DICTIONARY_WORD` (R50). Executes the high and low parcels through the kernel's dictionary table. -/
  | dictionaryWord (h : BitVec 10) (d : BitVec 5) (v : Bool) (l : BitVec 10) (s : BitVec 5)
  /-- `QLI` (R493). Loads a sign-extended immediate. -/
  | qli (d : BitVec 4) (i : BitVec 16)
  /-- `QLSH` (R493). Shifts d left 16 and inserts an immediate. -/
  | qlsh (d : BitVec 4) (i : BitVec 16)
  /-- `QADDI` (R493). Adds a sign-extended immediate. -/
  | qaddi (d : BitVec 4) (a : BitVec 4) (i : BitVec 16)
  /-- `QADD` (R493). Adds two queue registers. -/
  | qadd (d : BitVec 4) (a : BitVec 4) (b : BitVec 4)
  /-- `QSUB` (R493). Subtracts two queue registers. -/
  | qsub (d : BitVec 4) (a : BitVec 4) (b : BitVec 4)
  /-- `QAND` (R493). Bitwise AND. -/
  | qand (d : BitVec 4) (a : BitVec 4) (b : BitVec 4)
  /-- `QOR` (R493). Bitwise OR. -/
  | qor (d : BitVec 4) (a : BitVec 4) (b : BitVec 4)
  /-- `QXOR` (R493). Bitwise XOR. -/
  | qxor (d : BitVec 4) (a : BitVec 4) (b : BitVec 4)
  /-- `QSHL` (R493). Shifts left by b mod 64. -/
  | qshl (d : BitVec 4) (a : BitVec 4) (b : BitVec 4)
  /-- `QSHR` (R493). Shifts right logically by b mod 64. -/
  | qshr (d : BitVec 4) (a : BitVec 4) (b : BitVec 4)
  /-- `QMUL` (R493). Multiplies, wrapping. -/
  | qmul (d : BitVec 4) (a : BitVec 4) (b : BitVec 4)
  /-- `QDIVU` (R493). Unsigned quotient, all ones for a zero divisor. -/
  | qdivu (d : BitVec 4) (a : BitVec 4) (b : BitVec 4)
  /-- `QMINU` (R493). Unsigned lesser. -/
  | qminu (d : BitVec 4) (a : BitVec 4) (b : BitVec 4)
  /-- `QLDP` (R493). Loads 8 staging bytes. -/
  | qldp (d : BitVec 4) (o : BitVec 16)
  /-- `QSTP` (R493). Stores 8 staging bytes. -/
  | qstp (d : BitVec 4) (o : BitVec 16)
  /-- `QLDM` (R493). Reads 8 bytes of a memory window at the newest committed data. -/
  | qldm (d : BitVec 4) (a : BitVec 4) (w : BitVec 2) (o : BitVec 14)
  /-- `QSTM` (R493). Writes 8 bytes of a writable memory window. -/
  | qstm (d : BitVec 4) (a : BitVec 4) (w : BitVec 2) (o : BitVec 14)
  /-- `QBR` (R493). Branches forward unconditionally. -/
  | qbr (o : BitVec 16)
  /-- `QBZ` (R493). Branches forward if a is zero. -/
  | qbz (a : BitVec 4) (o : BitVec 16)
  /-- `QBNZ` (R493). Branches forward if a is nonzero. -/
  | qbnz (a : BitVec 4) (o : BitVec 16)
  /-- `QBLTU` (R493). Branches forward if a < b unsigned. -/
  | qbltu (a : BitVec 4) (b : BitVec 4) (o : BitVec 12)
  /-- `QLOOP` (R493). Runs the next len words n times. -/
  | qloop (n : BitVec 8) (l : BitVec 8)
  /-- `QWAIT` (R493). Waits until another queue's timeline satisfies a. -/
  | qwait (a : BitVec 4) (q : BitVec 8)
  /-- `QSIG` (R493). Raises the queue's own timeline to a. -/
  | qsig (a : BitVec 4)
  /-- `QTLR` (R493). Reads a queue's timeline. -/
  | qtlr (d : BitVec 4) (q : BitVec 8)
  /-- `QLAYER` (R493). Sets the current layer, triggering weight prefetch. -/
  | qlayer (a : BitVec 4)
  /-- `QGO` (R496). Dispatches the staging record and ends the program. -/
  | qgo
  /-- `QREPEAT` (R496). Dispatches the staging record and runs the program again. -/
  | qrepeat
  /-- `QCANCEL` (R493). Ends the packet as CANCELLED with a code. -/
  | qcancel (c : BitVec 8)
  /-- `ENTRY_MERGE` (R202). At the end of a clock merges entries with equal PC, PL and REPSTATE and absorbs pooled fibres. -/
  | entryMerge
  /-- `POOL_STARVATION_TIMEOUT` (R203). After 4,096 clocks moves the newest entry's fibres to the pool and gives the entry to the oldest pooled PC. -/
  | poolStarvationTimeout
  /-- `MATRIX_QUEUE_PLACE_WAIT` (R331). A release held by a full command queue takes place when a place frees. -/
  | matrixQueuePlaceWait
  /-- `MATRIX_STEP_START` (R336). An idle engine takes the best ready command and reserves its consumed granules. -/
  | matrixStepStart
  /-- `MATRIX_FETCH_DONE` (R335). At the end of a step's fetch, consumed granules become EMPTY. -/
  | matrixFetchDone
  /-- `MATRIX_KSTEP_END` (R337). At a k-step boundary the command continues, yields or stops. -/
  | matrixKstepEnd
  /-- `MATRIX_COMMAND_COMPLETE` (R342). A command's last results land and its tile operations complete. -/
  | matrixCommandComplete
  /-- `MACC_LD_DELIVER` (R346). Writes the accumulator words once the range is clear. -/
  | maccLdDeliver
  /-- `MACC_ZERO_COMPLETE` (R349). Zeroes the tiles once the range is clear and completes. -/
  | maccZeroComplete
  /-- `MACC_ST_COMPLETE` (R348). Writes the converted rows, sets FULL and ORs flags into FPSTAT. -/
  | maccStComplete
  /-- `WORK_DISTRIBUTOR_REQUEST` (R221). The distributor forms an answer from its sequence count for an arriving request. -/
  | workDistributorRequest
  /-- `WDQ_ANSWER` (R222). Writes an answer word once its granule is EMPTY and sets it FULL. -/
  | wdqAnswer
  /-- `TOPK_COMPLETE` (R239). Writes TOPK's output records and, under .SF, sets FULL. -/
  | topkComplete
  /-- `DEVICE_FIFO_APPEND` (R241). A launch image enters a queue's device FIFO, possibly after waiting for room. -/
  | deviceFifoAppend
  /-- `DISPATCH_HEAD` (R216). The dispatcher chooses a ready queue by priority and deficit and places its head. -/
  | dispatchHead
  /-- `WORKGROUP_RETIRE` (R219). Retires a workgroup whose fibres ended and work completed, freeing resources. -/
  | workgroupRetire
  /-- `GRID_RETIRE` (R285). After all writes are published and acknowledged increments DONE as a release. -/
  | gridRetire
  /-- `LOAD_DATA_RETURN` (R166). A load's data returns and writes its destination. -/
  | loadDataReturn
  /-- `STORE_LANDS` (R168). A posted store lands in its level and stops being outstanding. -/
  | storeLands
  /-- `ATOMIC_AT_HOME` (R287). An atomic is performed on the newest committed value at its home. -/
  | atomicAtHome
  /-- `WAITED_ACCESS_PROCEEDS` (R250). A waiting .W access proceeds once its granule reaches the awaited tag. -/
  | waitedAccessProceeds
  /-- `PUBLICATION_COMPLETE` (R277). A publication's data is held in the home L2s and stamp() advances. -/
  | publicationComplete
  /-- `DRAM_ANSWER` (R268). A base die answers a READ, WRITE or ATOMIC packet and the L2 fills or releases. -/
  | dramAnswer
  /-- `NOTIFY_POST` (R352). A qualifying write to the notify word lands and exposes copy commands. -/
  | notifyPost
  /-- `COPY_COMMAND_READ` (R353). The engine reads an exposed command and updates the read count. -/
  | copyCommandRead
  /-- `COPY_COMMAND_START` (R358). A channel starts a command when free and its stream allows. -/
  | copyCommandStart
  /-- `COPY_TAG_WAIT_SATISFIED` (R363). A WE or WF wait finds all granules in the awaited state and proceeds. -/
  | copyTagWaitSatisfied
  /-- `COPY_COMMAND_COMPLETE` (R361). A command completes, sets its tags and lowers its token. -/
  | copyCommandComplete
  /-- `COPY_COMMAND_STOP` (R364). A fault or poison stops a command and records it for the group. -/
  | copyCommandStop
  /-- `MULTICAST_SLOT_ACQUIRE` (R362). A multicast command takes a free holding slot and fetches its rows. -/
  | multicastSlotAcquire
  /-- `MULTICAST_DRAIN` (R362). A rank drains the slot into its scratchpad and applies SF. -/
  | multicastDrain
  /-- `TRUN_RETRY` (R373). A waiting TRUN evaluates again in the next clock. -/
  | trunRetry
  /-- `VERSION_PAGE_COPY` (R388). Pops a frame, copies the page for the version and replays the write. -/
  | versionPageCopy
  /-- `FRAME_RETAG` (R395). Lazily retags a committed version's frame as committed. -/
  | frameRetag
  /-- `VERSION_SLOT_FREE` (R399). Frees a squashed or committed slot once its frames and grids are gone. -/
  | versionSlotFree
  /-- `STALLED_ACCESS_RESUME` (R387). A version access stalled for victims or buffer room resumes. -/
  | stalledAccessResume
  /-- `RANGE_ARRIVAL` (R402). A predictable range's arrival shifts its history. -/
  | rangeArrival
  /-- `LOUPE_COMPARE` (R406). Compares arrived data with the prediction. -/
  | loupeCompare
  /-- `DOMAIN_ENABLE` (R378). Writing EN = 1 frees the domain's slots and resets ACCEPT and floor. -/
  | domainEnable
  /-- `DOMAIN_DISABLE` (R378). Writing EN = 0 squashes the domain's live versions. -/
  | domainDisable
  /-- `DOMAIN_POOL_GROW` (R378). Writing a larger POOLN adds frames to an enabled domain. -/
  | domainPoolGrow
  /-- `TRAP_ENTRY` (R434). Saves v0 to v15 and PWORD to TSAVE and enters the handler at H. -/
  | trapEntry
  /-- `FAULT_REPLAY` (R437). Replays an instruction after a hardware-resolved fault. -/
  | faultReplay
  /-- `WATCHDOG` (R444). Raises WATCHDOG after a wait of 2^WDSHIFT clocks. -/
  | watchdog
  /-- `TABLE_WALK` (R448). Walks the page tables, setting A and D, and refills the caches or faults. -/
  | tableWalk
  /-- `TLBI_SWEEP_DONE` (R451). Completes a TLBI once accesses using removed translations are performed. -/
  | tlbiSweepDone
  /-- `PREEMPT_WAIT_TIMEOUT` (R503). After 2^PWAIT clocks without fit, chooses lower-priority units to pre-empt. -/
  | preemptWaitTimeout
  /-- `PREEMPT` (R452). Stops, drains, publishes and saves a unit and frees its resources. -/
  | preempt
  /-- `RESTORE_UNIT` (R455). Places a saved unit again and restores its state. -/
  | restoreUnit
  /-- `SWEEP_ENTRY` (R462). The sweeper examines one frame-table entry and ages or marks it cold. -/
  | sweepEntry
  /-- `COMPRESS_START` (R463). Opens a write-protect window on the oldest cold frame. -/
  | compressStart
  /-- `COMPRESS_FINISH` (R464). Compresses, demotes or keeps the page and frees the frame. -/
  | compressFinish
  /-- `PAGE_EXPANSION` (R465). Expands a compressed page into a popped frame. -/
  | pageExpansion
  /-- `MIGRATE` (R466). Writing GO starts a migration of a page to a destination frame. -/
  | migrate
  /-- `MIGRATION_DONE` (R466). Writes the new frame, tier and granule, or reports failure. -/
  | migrationDone
  /-- `KV_RING_COUNT` (R469). Counts the key-value frame ring and chooses victims below KVLOW. -/
  | kvRingCount
  /-- `KV_VICTIM_RECLAIM` (R469). When INFL reaches 0 pushes the victim's frames and queues its prompt. -/
  | kvVictimReclaim
  /-- `FRPOP` (R459). Pops a frame index from the free-frame ring. -/
  | frpop
  /-- `FRPUSH` (R459). Pushes a frame index onto the free-frame ring. -/
  | frpush
  /-- `CXLPOP` (R459). Pops a free CXL frame address. -/
  | cxlpop
  /-- `CXLPUSH` (R459). Pushes a CXL frame address. -/
  | cxlpush
  /-- `CHANNEL_RETIRE_GO` (R471). Starts or refuses a channel retirement. -/
  | channelRetireGo
  /-- `STRIPE_REBUILD` (R472). Rebuilds one stripe into the 31-channel layout. -/
  | stripeRebuild
  /-- `UNCORRECTABLE_ERROR` (R473). Poisons the line and starts a host refetch or quarantine. -/
  | uncorrectableError
  /-- `HOST_REFETCH_DONE` (R473). The host copy of a poisoned line arrives and clears the poison. -/
  | hostRefetchDone
  /-- `DOORBELL_TAIL` (R490). A host TAIL write exposes host ring packets to the queue. -/
  | doorbellTail
  /-- `DOORBELL_DRIDX` (R502). The host advances the delivery read index, unstalling the queue. -/
  | doorbellDridx
  /-- `DOORBELL_ARM` (R486). Arms the queue's MSI-X vector at a timeline threshold. -/
  | doorbellArm
  /-- `HOST_BAR2_WRITE` (R486). A host write through BAR2 commits at its own stamp. -/
  | hostBar2Write
  /-- `HOST_BAR2_READ` (R485). A host read of device memory through BAR2. -/
  | hostBar2Read
  /-- `QUEUE_ENABLE` (R488). Checks the descriptor, loads the program and enables the queue. -/
  | queueEnable
  /-- `QUEUE_DISABLE` (R488). Writing EN = 0 stops the queue taking packets. -/
  | queueDisable
  /-- `PACKET_TAKE` (R491). Copies the next packet into staging and starts its handling. -/
  | packetTake
  /-- `TIMELINE_WAIT_RELEASE` (R498). Releases an entry wait or QWAIT whose threshold a raise satisfied. -/
  | timelineWaitRelease
  /-- `PACKET_COMPLETE` (R500). In packet order writes status, delivery entry and raises the timeline. -/
  | packetComplete
  /-- `PEER_REQUEST` (R511). A peer access arrives at its station and is performed there. -/
  | peerRequest
  /-- `PEER_REPLY` (R511). A peer reply or acknowledgement returns to the issuing fibre. -/
  | peerReply
  /-- `D2D_LANE_FAILURE` (R506). Takes a failed die-to-die lane out of service. -/
  | d2dLaneFailure
  /-- `D2D_LINK_FAILURE` (R506). An unrecoverable link failure stops the device and sets LINK. -/
  | d2dLinkFailure
  /-- `COLLECTIVE_TABLE_LOAD` (R514). Writing CLSLOT loads and checks a topology table. -/
  | collectiveTableLoad
  /-- `COLLECTIVE_RING_CONFIG` (R516). Changing CRLOG2 from 0 resets the collective counts or sets CRBAD. -/
  | collectiveRingConfig
  /-- `COLLECTIVE_POST` (R516). A qualifying P-release write exposes collective commands. -/
  | collectivePost
  /-- `COLLECTIVE_COMMAND_READ` (R516). The collective engine reads an exposed command and matches it. -/
  | collectiveCommandRead
  /-- `COLLECTIVE_PARTIAL_ARRIVE` (R517). A child's partial result or broadcast data arrives and is combined. -/
  | collectivePartialArrive
  /-- `COLLECTIVE_COMPLETE` (R518). Publishes DST, writes status and increments DONEW. -/
  | collectiveComplete
  /-- `DEVICE_RESET` (R523). Resets the part and runs the boot sequence. -/
  | deviceReset
  /-- `CHANNEL_FAILURE_REPORT` (R521). A base die reports a failing channel, setting CHFAIL and raising vector 256. -/
  | channelFailureReport
  /-- `STATUS_W1C` (R521). Writing 1 clears LINK, CHFAIL, CROVF or CRBAD. -/
  | statusW1c
  /-- `CONTROL_REGISTER_WRITE` (R521). Writes a control register with no behaviour of its own, keeping out-of-range fields. -/
  | controlRegisterWrite
  /-- `ATTESTATION_QUOTE` (R526). Answers a nonce with the signed measurement registers. -/
  | attestationQuote
  /-- `POWER_TICK` (R528). Each millisecond steps the clock by temperature and power. -/
  | powerTick
  /-- `ENTER_LOW` (R529). Enters LOW when no queue is enabled and no workgroup resident. -/
  | enterLow
  /-- `ILLEGAL_INSTRUCTION` (R43). A fetched word whose major is 0x00, 0x2F or 0x7F, or whose function code, ACT or SCOPE is unassigned, takes ILLEGAL_INSTRUCTION at its PC and has no effect. -/
  | illegalInstruction
  /-- `HOST_WRITE_THROUGH` (R291). The write-through of a core's published host-page bytes reaches host memory over the Sermus Link, letting a waiting H-observer release, or a grid retirement, proceed. -/
  | hostWriteThrough
deriving DecidableEq, Repr

end Sys2Proof
end

