-- ==== Sys2Proof/WellFormed.lean ====
section
/-! DEFINITION. The values of fields that an instruction's entry marks as reserved, so that the word is ILLEGAL_INSTRUCTION (02 R40). Every other fibre word admits all values of its fields; the words of queue programs are checked when a program is loaded (21 R494), and events have no word. -/

namespace Sys2Proof

/-- No field of the instruction holds a reserved value. -/
def Instr.wellFormed (i : Instr) : Bool :=
  match i with
  | .icmp c _ _ _ _ => decide (c.toNat ≤ 11)      -- R101
  | .icmpi c _ _ _ _ => decide (c.toNat ≤ 11)
  | .icmpw c _ _ _ _ => decide (c.toNat ≤ 11)
  | .fcmp c _ _ _ _ => decide (c.toNat ≤ 7)       -- R103
  | .dcmp c _ _ _ _ => decide (c.toNat ≤ 7)
  | .call s _ => decide (s.toNat ≠ 0)             -- R114
  | .calli s _ => decide (s.toNat ≠ 0)
  | .kld h _ _ _ => decide (h.toNat ≠ 3)          -- R111
  | .kst h _ _ _ => decide (h.toNat ≠ 3)
  | .ldb h m _ _ _ => !(m && decide (h.toNat = 3)) -- R155
  | .ldh h m _ _ _ => !(m && decide (h.toNat = 3))
  | .ldw h m _ _ _ => !(m && decide (h.toNat = 3))
  | .ldd h m _ _ _ => !(m && decide (h.toNat = 3))
  | .ldq h m _ _ _ => !(m && decide (h.toNat = 3))
  | .pfetch h _ _ => decide (h.toNat ≤ 1)         -- R159
  | .fence b a => decide (b.toNat ≠ 0) && decide (a.toNat ≠ 0) -- R293
  | .qswap e _ _ _ s => decide (e.toNat = 3) || decide (s.toNat = 0) -- R230
  | .gred _ _ _ o => decide (o.toNat ≤ 11)        -- R231
  | .claspDecl n _ => decide (n.toNat ≤ 1024)     -- R234
  | .topk t _ k => decide (t.toNat ≠ 3) && decide (k.toNat ≤ 29) -- R237
  | .launchSpec _ k => decide (k.toNat ≠ 31)      -- R240
  | .mma m n _ _ e k =>                           -- R320
      decide (m.toNat ≠ 3) && decide (e.toNat ≠ 3) && decide (k.toNat ≤ 28) &&
        decide ((m.toNat = 1 → n.toNat ≤ 31) ∧ (m.toNat = 2 → n.toNat ≤ 15))
  | .mmc _ _ e k => decide (e.toNat ≠ 3) && decide (k.toNat ≤ 28) -- R328
  | .maccLd _ _ n => decide (n.toNat = 0) || decide (n.toNat = 1) || decide (n.toNat = 3) -- R344
  | .maccSt _ k => decide (k.toNat ≤ 29)          -- R344
  | .dictionaryWord _ _ v l s => v || (decide (l.toNat = 0) && decide (s.toNat = 0)) -- R48
  | _ => true

end Sys2Proof
end

