-- ==== Sys2Proof/Decode.lean ====
section
/-! DEFINITION. Decoding of words (02 R36 to R46; 21 R492, R493), the reverse encoders, and the order in which one word becomes one instruction. `decode` reads a fibre's word, `decodeQ` a word of a queue program; both refuse with `none`, which for a fibre is ILLEGAL_INSTRUCTION. The encodings are those of the operation table. -/

namespace Sys2Proof

/-- Bits `[lo + n - 1 : lo]` of a word. -/
def fld (w : Word) (lo n : Nat) : BitVec n := w.extractLsb' lo n

/-- Bit `i` of a word. -/
def bit (w : Word) (i : Nat) : Bool := w.getLsbD i

/-- A word from its fields' sum. -/
def word (n : Nat) : Word := BitVec.ofNat 32 n

/-- A full word, by its major opcode in bits [30:24] (R39, R42 to R45). Zero fields and function codes are checked here (R40, R44). -/
def decodeMajor (major : Nat) (w : Word) : Option Instr :=
  match major with
  | 0x01 => some (.add (bit w 23) (bit w 22) (bit w 21) (fld w 14 7) (fld w 7 7) (fld w 0 7))
  | 0x02 => some (.sub (bit w 23) (bit w 22) (bit w 21) (fld w 14 7) (fld w 7 7) (fld w 0 7))
  | 0x03 => if fld w 21 1 = 0#1 then some (.mul (bit w 23) (bit w 22) (fld w 14 7) (fld w 7 7) (fld w 0 7)) else none
  | 0x04 => some (.mulh (bit w 23) (bit w 22) (bit w 21) (fld w 14 7) (fld w 7 7) (fld w 0 7))
  | 0x05 => some (.imad (bit w 23) (bit w 22) (bit w 21) (fld w 14 7) (fld w 7 7) (fld w 0 7))
  | 0x06 => some (.div (bit w 23) (bit w 22) (bit w 21) (fld w 14 7) (fld w 7 7) (fld w 0 7))
  | 0x07 => some (.rem (bit w 23) (bit w 22) (bit w 21) (fld w 14 7) (fld w 7 7) (fld w 0 7))
  | 0x08 => some (.and (bit w 23) (bit w 22) (bit w 21) (fld w 14 7) (fld w 7 7) (fld w 0 7))
  | 0x09 => some (.or (bit w 23) (bit w 22) (bit w 21) (fld w 14 7) (fld w 7 7) (fld w 0 7))
  | 0x0A => some (.xor (bit w 23) (bit w 22) (bit w 21) (fld w 14 7) (fld w 7 7) (fld w 0 7))
  | 0x0B => if fld w 21 1 = 0#1 then some (.shl (bit w 23) (bit w 22) (fld w 14 7) (fld w 7 7) (fld w 0 7)) else none
  | 0x0C => some (.shr (bit w 23) (bit w 22) (bit w 21) (fld w 14 7) (fld w 7 7) (fld w 0 7))
  | 0x0D => some (.min (bit w 23) (bit w 22) (bit w 21) (fld w 14 7) (fld w 7 7) (fld w 0 7))
  | 0x0E => some (.max (bit w 23) (bit w 22) (bit w 21) (fld w 14 7) (fld w 7 7) (fld w 0 7))
  | 0x0F =>
    if fld w 0 7 = 0#7 ∧ fld w 22 1 = 0#1 then some (.iunMov (bit w 23) (bit w 21) (fld w 14 7) (fld w 7 7))
    else if fld w 0 7 = 1#7 ∧ fld w 22 1 = 0#1 then some (.iunNot (bit w 23) (bit w 21) (fld w 14 7) (fld w 7 7))
    else if fld w 0 7 = 2#7 ∧ fld w 22 1 = 0#1 then some (.iunNeg (bit w 23) (bit w 21) (fld w 14 7) (fld w 7 7))
    else if fld w 0 7 = 3#7 ∧ fld w 22 1 = 0#1 then some (.iunAbs (bit w 23) (bit w 21) (fld w 14 7) (fld w 7 7))
    else if fld w 0 7 = 4#7 ∧ fld w 22 1 = 0#1 then some (.iunClz (bit w 23) (bit w 21) (fld w 14 7) (fld w 7 7))
    else if fld w 0 7 = 5#7 ∧ fld w 22 1 = 0#1 then some (.iunCtz (bit w 23) (bit w 21) (fld w 14 7) (fld w 7 7))
    else if fld w 0 7 = 6#7 ∧ fld w 22 1 = 0#1 then some (.iunPopc (bit w 23) (bit w 21) (fld w 14 7) (fld w 7 7))
    else if fld w 0 7 = 7#7 ∧ fld w 22 1 = 0#1 then some (.iunBrev (bit w 23) (bit w 21) (fld w 14 7) (fld w 7 7))
    else if fld w 0 7 = 8#7 ∧ fld w 22 1 = 0#1 then some (.iunBswap (bit w 23) (bit w 21) (fld w 14 7) (fld w 7 7))
    else if fld w 0 7 = 9#7 ∧ fld w 21 2 = 0#2 then some (.iunSextb (bit w 23) (fld w 14 7) (fld w 7 7))
    else if fld w 0 7 = 10#7 ∧ fld w 21 2 = 0#2 then some (.iunSexth (bit w 23) (fld w 14 7) (fld w 7 7))
    else if fld w 0 7 = 11#7 ∧ fld w 21 2 = 0#2 then some (.iunZextb (bit w 23) (fld w 14 7) (fld w 7 7))
    else if fld w 0 7 = 12#7 ∧ fld w 21 2 = 0#2 then some (.iunZexth (bit w 23) (fld w 14 7) (fld w 7 7))
    else none
  | 0x10 => some (.rot (bit w 23) (bit w 22) (bit w 21) (fld w 14 7) (fld w 7 7) (fld w 0 7))
  | 0x11 => some (.bfx (bit w 23) (bit w 22) (bit w 21) (fld w 14 7) (fld w 7 7) (fld w 0 7))
  | 0x12 => if fld w 21 1 = 0#1 then some (.bfi (bit w 23) (bit w 22) (fld w 14 7) (fld w 7 7) (fld w 0 7)) else none
  | 0x13 => some (.lea (bit w 23) (bit w 22) (bit w 21) (fld w 14 7) (fld w 7 7) (fld w 0 7))
  | 0x14 => some (.leaw (bit w 23) (bit w 22) (bit w 21) (fld w 14 7) (fld w 7 7) (fld w 0 7))
  | 0x15 => some (.addw (bit w 23) (bit w 22) (bit w 21) (fld w 14 7) (fld w 7 7) (fld w 0 7))
  | 0x16 => if fld w 21 1 = 0#1 then some (.mulw (bit w 23) (bit w 22) (fld w 14 7) (fld w 7 7) (fld w 0 7)) else none
  | 0x17 => if fld w 21 1 = 0#1 then some (.shlw (bit w 23) (bit w 22) (fld w 14 7) (fld w 7 7) (fld w 0 7)) else none
  | 0x18 => some (.shrw (bit w 23) (bit w 22) (bit w 21) (fld w 14 7) (fld w 7 7) (fld w 0 7))
  | 0x19 => some (.sel (fld w 21 3) (fld w 14 7) (fld w 7 7) (fld w 0 7))
  | 0x1A => some (.addi (fld w 21 3 ++ fld w 0 7) (fld w 14 7) (fld w 7 7))
  | 0x1B => some (.andi (fld w 21 3 ++ fld w 0 7) (fld w 14 7) (fld w 7 7))
  | 0x1C => some (.ori (fld w 21 3 ++ fld w 0 7) (fld w 14 7) (fld w 7 7))
  | 0x1D => some (.xori (fld w 21 3 ++ fld w 0 7) (fld w 14 7) (fld w 7 7))
  | 0x1E => if fld w 5 2 = 0#2 ∧ fld w 21 1 = 0#1 then some (.shi (fld w 22 2) (fld w 14 7) (fld w 7 7) (fld w 0 5)) else none
  | 0x1F => some (.muli (fld w 21 3 ++ fld w 0 7) (fld w 14 7) (fld w 7 7))
  | 0x20 => some (.li (fld w 21 3 ++ fld w 0 14) (fld w 14 7))
  | 0x21 => some (.lih (fld w 21 3 ++ fld w 0 14) (fld w 14 7))
  | 0x22 => some (.addiw (fld w 21 3 ++ fld w 0 7) (fld w 14 7) (fld w 7 7))
  | 0x23 => some (.icmp (fld w 20 4) (fld w 16 4) (fld w 14 2) (fld w 7 7) (fld w 0 7))
  | 0x24 => some (.icmpi (fld w 20 4) (fld w 16 4) (fld w 14 2) (fld w 7 7) (fld w 0 7))
  | 0x25 => some (.icmpw (fld w 20 4) (fld w 16 4) (fld w 14 2) (fld w 7 7) (fld w 0 7))
  | 0x26 => some (.fcmp (fld w 20 4) (fld w 16 4) (fld w 14 2) (fld w 7 7) (fld w 0 7))
  | 0x27 => some (.dcmp (fld w 20 4) (fld w 16 4) (fld w 14 2) (fld w 7 7) (fld w 0 7))
  | 0x28 => if fld w 0 6 = 0#6 ∧ fld w 14 2 = 0#2 then some (.plog (fld w 20 4) (fld w 16 4) (fld w 10 4) (fld w 6 4)) else none
  | 0x29 =>
    if fld w 0 7 = 0#7 ∧ fld w 11 3 = 0#3 ∧ fld w 21 1 = 0#1 then some (.pmovToLane (bit w 23) (bit w 22) (fld w 14 7) (fld w 7 4))
    else if fld w 0 7 = 0#7 ∧ fld w 18 4 = 8#4 then some (.pmovToPred (bit w 23) (bit w 22) (fld w 14 4) (fld w 7 7))
    else none
  | 0x2A => some (.kalu (fld w 21 3) (fld w 14 7) (fld w 7 7) (fld w 0 7))
  | 0x2B => if fld w 12 2 = 0#2 ∧ fld w 19 2 = 0#2 then some (.kaddi (fld w 21 3 ++ fld w 0 7) (fld w 14 5) (fld w 7 5)) else none
  | 0x2C =>
    if fld w 0 7 = 0#7 ∧ fld w 19 4 = 0#4 then some (.kmovToK (bit w 23) (fld w 14 5) (fld w 7 7))
    else if fld w 0 7 = 0#7 ∧ fld w 12 2 = 0#2 ∧ fld w 21 2 = 1#2 then some (.kmovToLane (bit w 23) (fld w 14 7) (fld w 7 5))
    else none
  | 0x2D => if fld w 21 1 = 0#1 then some (.kld (fld w 22 2) (fld w 14 7) (fld w 7 7) (fld w 0 7)) else none
  | 0x2E => if fld w 21 1 = 0#1 then some (.kst (fld w 22 2) (fld w 14 7) (fld w 7 7) (fld w 0 7)) else none
  | 0x30 => some (.fadd (bit w 23) (bit w 22) (bit w 21) (fld w 14 7) (fld w 7 7) (fld w 0 7))
  | 0x31 => some (.fmul (bit w 23) (bit w 22) (bit w 21) (fld w 14 7) (fld w 7 7) (fld w 0 7))
  | 0x32 => some (.ffma (bit w 23) (bit w 22) (bit w 21) (fld w 14 7) (fld w 7 7) (fld w 0 7))
  | 0x33 => some (.fmin (bit w 23) (bit w 22) (bit w 21) (fld w 14 7) (fld w 7 7) (fld w 0 7))
  | 0x34 =>
    if fld w 0 7 = 0#7 ∧ fld w 21 2 = 0#2 then some (.funSqrt (bit w 23) (fld w 14 7) (fld w 7 7))
    else if fld w 0 7 = 1#7 ∧ fld w 21 2 = 0#2 then some (.funRsqrt (bit w 23) (fld w 14 7) (fld w 7 7))
    else if fld w 0 7 = 2#7 ∧ fld w 21 2 = 0#2 then some (.funRcp (bit w 23) (fld w 14 7) (fld w 7 7))
    else if fld w 0 7 = 3#7 ∧ fld w 21 2 = 0#2 then some (.funExp2 (bit w 23) (fld w 14 7) (fld w 7 7))
    else if fld w 0 7 = 4#7 ∧ fld w 21 2 = 0#2 then some (.funLog2 (bit w 23) (fld w 14 7) (fld w 7 7))
    else if fld w 0 7 = 5#7 ∧ fld w 21 2 = 0#2 then some (.funSin (bit w 23) (fld w 14 7) (fld w 7 7))
    else if fld w 0 7 = 6#7 ∧ fld w 21 2 = 0#2 then some (.funCos (bit w 23) (fld w 14 7) (fld w 7 7))
    else if fld w 0 7 = 7#7 ∧ fld w 21 2 = 0#2 then some (.funTanh (bit w 23) (fld w 14 7) (fld w 7 7))
    else if fld w 0 7 = 8#7 ∧ fld w 21 2 = 0#2 then some (.funAbs (bit w 23) (fld w 14 7) (fld w 7 7))
    else if fld w 0 7 = 9#7 ∧ fld w 21 2 = 0#2 then some (.funNeg (bit w 23) (fld w 14 7) (fld w 7 7))
    else if fld w 0 7 = 10#7 ∧ fld w 21 2 = 0#2 then some (.funFloor (bit w 23) (fld w 14 7) (fld w 7 7))
    else if fld w 0 7 = 11#7 ∧ fld w 21 2 = 0#2 then some (.funCeil (bit w 23) (fld w 14 7) (fld w 7 7))
    else if fld w 0 7 = 12#7 ∧ fld w 21 2 = 0#2 then some (.funTrunc (bit w 23) (fld w 14 7) (fld w 7 7))
    else if fld w 0 7 = 13#7 ∧ fld w 21 2 = 0#2 then some (.funRint (bit w 23) (fld w 14 7) (fld w 7 7))
    else if fld w 0 7 = 14#7 ∧ fld w 21 2 = 0#2 then some (.funClass (bit w 23) (fld w 14 7) (fld w 7 7))
    else none
  | 0x35 => if fld w 21 1 = 0#1 then some (.fdiv (bit w 23) (bit w 22) (fld w 14 7) (fld w 7 7) (fld w 0 7)) else none
  | 0x36 => some (.hadd2 (bit w 23) (bit w 22) (bit w 21) (fld w 14 7) (fld w 7 7) (fld w 0 7))
  | 0x37 => some (.hmul2 (bit w 23) (bit w 22) (bit w 21) (fld w 14 7) (fld w 7 7) (fld w 0 7))
  | 0x38 => some (.hfma2 (bit w 23) (bit w 22) (bit w 21) (fld w 14 7) (fld w 7 7) (fld w 0 7))
  | 0x39 => some (.dadd (bit w 23) (bit w 22) (bit w 21) (fld w 14 7) (fld w 7 7) (fld w 0 7))
  | 0x3A => some (.dmul (bit w 23) (bit w 22) (bit w 21) (fld w 14 7) (fld w 7 7) (fld w 0 7))
  | 0x3B => some (.dfma (bit w 23) (bit w 22) (bit w 21) (fld w 14 7) (fld w 7 7) (fld w 0 7))
  | 0x3C =>
    if fld w 0 7 = 0#7 ∧ fld w 21 2 = 0#2 then some (.dunSqrt (bit w 23) (fld w 14 7) (fld w 7 7))
    else if fld w 0 7 = 1#7 ∧ fld w 21 2 = 0#2 then some (.dunRsqrt (bit w 23) (fld w 14 7) (fld w 7 7))
    else if fld w 0 7 = 2#7 ∧ fld w 21 2 = 0#2 then some (.dunRcp (bit w 23) (fld w 14 7) (fld w 7 7))
    else if fld w 0 7 = 8#7 ∧ fld w 21 2 = 0#2 then some (.dunAbs (bit w 23) (fld w 14 7) (fld w 7 7))
    else if fld w 0 7 = 9#7 ∧ fld w 21 2 = 0#2 then some (.dunNeg (bit w 23) (fld w 14 7) (fld w 7 7))
    else if fld w 0 7 = 10#7 ∧ fld w 21 2 = 0#2 then some (.dunFloor (bit w 23) (fld w 14 7) (fld w 7 7))
    else if fld w 0 7 = 11#7 ∧ fld w 21 2 = 0#2 then some (.dunCeil (bit w 23) (fld w 14 7) (fld w 7 7))
    else if fld w 0 7 = 12#7 ∧ fld w 21 2 = 0#2 then some (.dunTrunc (bit w 23) (fld w 14 7) (fld w 7 7))
    else if fld w 0 7 = 13#7 ∧ fld w 21 2 = 0#2 then some (.dunRint (bit w 23) (fld w 14 7) (fld w 7 7))
    else if fld w 0 7 = 14#7 ∧ fld w 21 2 = 0#2 then some (.dunClass (bit w 23) (fld w 14 7) (fld w 7 7))
    else none
  | 0x3D => if fld w 21 1 = 0#1 then some (.ddiv (bit w 23) (bit w 22) (fld w 14 7) (fld w 7 7) (fld w 0 7)) else none
  | 0x3E => some (.dmin (bit w 23) (bit w 22) (bit w 21) (fld w 14 7) (fld w 7 7) (fld w 0 7))
  | 0x3F =>
    if fld w 2 5 = 0#5 ∧ fld w 21 2 = 0#2 then some (.cvtF32F64 (bit w 23) (fld w 14 7) (fld w 7 7) (fld w 0 2))
    else if fld w 0 7 = 4#7 ∧ fld w 21 2 = 0#2 then some (.cvtF64F32 (bit w 23) (fld w 14 7) (fld w 7 7))
    else if fld w 2 5 = 2#5 ∧ fld w 22 1 = 0#1 then some (.cvtF16F32 (bit w 23) (bit w 21) (fld w 14 7) (fld w 7 7) (fld w 0 2))
    else if fld w 0 7 = 12#7 ∧ fld w 22 1 = 0#1 then some (.cvtF32F16 (bit w 23) (bit w 21) (fld w 14 7) (fld w 7 7))
    else if fld w 2 5 = 4#5 ∧ fld w 22 1 = 0#1 then some (.cvtBf16F32 (bit w 23) (bit w 21) (fld w 14 7) (fld w 7 7) (fld w 0 2))
    else if fld w 0 7 = 20#7 ∧ fld w 22 1 = 0#1 then some (.cvtF32Bf16 (bit w 23) (bit w 21) (fld w 14 7) (fld w 7 7))
    else if fld w 2 5 = 6#5 ∧ fld w 21 2 = 0#2 then some (.cvtS32F32 (bit w 23) (fld w 14 7) (fld w 7 7) (fld w 0 2))
    else if fld w 2 5 = 7#5 ∧ fld w 21 2 = 0#2 then some (.cvtU32F32 (bit w 23) (fld w 14 7) (fld w 7 7) (fld w 0 2))
    else if fld w 2 5 = 8#5 ∧ fld w 21 2 = 0#2 then some (.cvtF32S32 (bit w 23) (fld w 14 7) (fld w 7 7) (fld w 0 2))
    else if fld w 2 5 = 9#5 ∧ fld w 21 2 = 0#2 then some (.cvtF32U32 (bit w 23) (fld w 14 7) (fld w 7 7) (fld w 0 2))
    else if fld w 2 5 = 10#5 ∧ fld w 21 2 = 0#2 then some (.cvtS32F64 (bit w 23) (fld w 14 7) (fld w 7 7) (fld w 0 2))
    else if fld w 2 5 = 11#5 ∧ fld w 21 2 = 0#2 then some (.cvtU32F64 (bit w 23) (fld w 14 7) (fld w 7 7) (fld w 0 2))
    else if fld w 0 7 = 48#7 ∧ fld w 21 2 = 0#2 then some (.cvtF64S32 (bit w 23) (fld w 14 7) (fld w 7 7))
    else if fld w 0 7 = 52#7 ∧ fld w 21 2 = 0#2 then some (.cvtF64U32 (bit w 23) (fld w 14 7) (fld w 7 7))
    else if fld w 2 5 = 14#5 ∧ fld w 21 2 = 0#2 then some (.cvtS64F64 (bit w 23) (fld w 14 7) (fld w 7 7) (fld w 0 2))
    else if fld w 2 5 = 15#5 ∧ fld w 21 2 = 0#2 then some (.cvtF64S64 (bit w 23) (fld w 14 7) (fld w 7 7) (fld w 0 2))
    else none
  | 0x40 => some (.cvtn (fld w 21 3) (fld w 14 7) (fld w 7 7) (fld w 0 7))
  | 0x41 => some (.cvtw (fld w 21 3) (fld w 14 7) (fld w 7 7) (fld w 0 7))
  | 0x42 => if fld w 0 14 = 0#14 ∧ fld w 22 2 = 0#2 then some (.rand (bit w 21) (fld w 14 7)) else none
  | 0x43 => if fld w 14 10 = 0#10 then some (.rseed (fld w 7 7) (fld w 0 7)) else none
  | 0x44 => some (.bra (bit w 23) (fld w 19 4) (fld w 0 19))
  | 0x45 => if fld w 0 7 = 0#7 ∧ fld w 14 8 = 0#8 then some (.brx (bit w 23) (bit w 22) (fld w 7 7)) else none
  | 0x46 => some (.call (fld w 20 4) (fld w 0 20))
  | 0x47 => if fld w 0 7 = 0#7 ∧ fld w 14 6 = 0#6 then some (.calli (fld w 20 4) (fld w 7 7)) else none
  | 0x48 => if fld w 0 24 = 0#24 then some .ret else none
  | 0x49 => if fld w 0 7 = 0#7 ∧ fld w 14 7 = 0#7 ∧ fld w 22 1 = 0#1 then some (.wbase (bit w 23) (bit w 21) (fld w 7 7)) else none
  | 0x4A => if fld w 0 9 = 0#9 then some (.rep (fld w 18 6) (fld w 15 3) (fld w 12 3) (fld w 9 3)) else none
  | 0x4B => if fld w 8 16 = 0#16 then some (.trap (fld w 0 8)) else none
  | 0x4C =>
    if fld w 0 24 = 0#24 then some .rettResume
    else if fld w 0 24 = 2097152#24 then some .rettSkip
    else if fld w 0 24 = 4194304#24 then some .rettKillfibre
    else if fld w 0 24 = 6291456#24 then some .rettTaskretry
    else if fld w 0 24 = 8388608#24 then some .rettTaskskip
    else if fld w 0 24 = 10485760#24 then some .rettTaskkill
    else none
  | 0x4D => if fld w 0 24 = 0#24 then some .fend else none
  | 0x4E => if fld w 7 7 = 0#7 ∧ fld w 21 1 = 0#1 ∧ fld w 23 1 = 0#1 then some (.srd (bit w 22) (fld w 14 7) (fld w 0 7)) else none
  | 0x4F => if fld w 14 8 = 0#8 then some (.swr (bit w 23) (bit w 22) (fld w 7 7) (fld w 0 7)) else none
  | 0x50 => some (.ldb (fld w 22 2) (bit w 21) (fld w 14 7) (fld w 7 7) (fld w 0 7))
  | 0x51 => some (.ldh (fld w 22 2) (bit w 21) (fld w 14 7) (fld w 7 7) (fld w 0 7))
  | 0x52 => some (.ldw (fld w 22 2) (bit w 21) (fld w 14 7) (fld w 7 7) (fld w 0 7))
  | 0x53 => some (.ldd (fld w 22 2) (bit w 21) (fld w 14 7) (fld w 7 7) (fld w 0 7))
  | 0x54 => some (.ldq (fld w 22 2) (bit w 21) (fld w 14 7) (fld w 7 7) (fld w 0 7))
  | 0x55 => some (.stb (fld w 22 2) (bit w 21) (fld w 14 7) (fld w 7 7) (fld w 0 7))
  | 0x56 => some (.sth (fld w 22 2) (bit w 21) (fld w 14 7) (fld w 7 7) (fld w 0 7))
  | 0x57 => some (.stw (fld w 22 2) (bit w 21) (fld w 14 7) (fld w 7 7) (fld w 0 7))
  | 0x58 => some (.std (fld w 22 2) (bit w 21) (fld w 14 7) (fld w 7 7) (fld w 0 7))
  | 0x59 => some (.stq (fld w 22 2) (bit w 21) (fld w 14 7) (fld w 7 7) (fld w 0 7))
  | 0x5A => if fld w 14 8 = 0#8 then some (.pfetch (fld w 22 2) (fld w 7 7) (fld w 0 7)) else none
  | 0x5B => if fld w 14 7 = 0#7 ∧ fld w 22 2 = 0#2 then some (.cline (bit w 21) (fld w 7 7) (fld w 0 7)) else none
  | 0x5C => if fld w 0 24 = 0#24 then some .yield else none
  | 0x5D => if fld w 14 7 = 0#7 then some (.sleep (fld w 21 3 ++ fld w 0 14)) else none
  | 0x5E => if fld w 8 16 = 0#16 then some (.brk (fld w 0 8)) else none
  | 0x5F => if fld w 0 24 = 0#24 then some .nop else none
  | 0x60 => some (.aadd (fld w 21 3) (fld w 14 7) (fld w 8 6) (bit w 7) (fld w 0 7))
  | 0x61 => some (.aand (fld w 21 3) (fld w 14 7) (fld w 8 6) (bit w 7) (fld w 0 7))
  | 0x62 => some (.aor (fld w 21 3) (fld w 14 7) (fld w 8 6) (bit w 7) (fld w 0 7))
  | 0x63 => some (.axor (fld w 21 3) (fld w 14 7) (fld w 8 6) (bit w 7) (fld w 0 7))
  | 0x64 => some (.amin (fld w 21 3) (fld w 14 7) (fld w 8 6) (bit w 7) (fld w 0 7))
  | 0x65 => some (.amax (fld w 21 3) (fld w 14 7) (fld w 8 6) (bit w 7) (fld w 0 7))
  | 0x66 => some (.axch (fld w 21 3) (fld w 14 7) (fld w 8 6) (bit w 7) (fld w 0 7))
  | 0x67 => some (.acas (fld w 21 3) (fld w 14 7) (fld w 8 6) (bit w 7) (fld w 0 7))
  | 0x68 => some (.afadd (fld w 21 3) (fld w 14 7) (fld w 8 6) (bit w 7) (fld w 0 7))
  | 0x69 => if fld w 0 7 = 0#7 then some (.ald (fld w 21 3) (fld w 14 7) (fld w 8 6) (bit w 7)) else none
  | 0x6A => if fld w 14 7 = 0#7 then some (.ast (fld w 21 3) (fld w 8 6) (bit w 7) (fld w 0 7)) else none
  | 0x6B => if fld w 0 24 = 0#24 then some .phase else none
  | 0x6C => if fld w 0 16 = 0#16 then some (.fence (fld w 20 4) (fld w 16 4)) else none
  | 0x6D => if fld w 0 4 = 0#4 then some (.wait (fld w 20 4) (fld w 16 4) (fld w 12 4) (fld w 4 8)) else none
  | 0x6E =>
    if fld w 14 10 = 0#10 then some (.tagSetf (fld w 7 7) (fld w 0 7))
    else if fld w 14 10 = 128#10 then some (.tagSete (fld w 7 7) (fld w 0 7))
    else if fld w 14 10 = 256#10 then some (.tagCons (fld w 7 7) (fld w 0 7))
    else if fld w 0 7 = 0#7 ∧ fld w 21 3 = 3#3 then some (.tagGet (fld w 14 7) (fld w 7 7))
    else if fld w 14 10 = 512#10 then some (.tagPoison (fld w 7 7) (fld w 0 7))
    else none
  | 0x6F => if fld w 7 1 = 0#1 then some (.gbar (fld w 21 3) (fld w 14 7) (fld w 8 6) (fld w 0 7)) else none
  | 0x70 => if fld w 21 1 = 0#1 then some (.fspawn (bit w 23) (bit w 22) (fld w 14 7) (fld w 7 7) (fld w 0 7)) else none
  | 0x71 =>
    if fld w 0 6 = 0#6 ∧ fld w 14 10 = 0#10 then some (.voteAll (fld w 10 4) (fld w 6 4))
    else if fld w 0 6 = 0#6 ∧ fld w 14 10 = 256#10 then some (.voteAny (fld w 10 4) (fld w 6 4))
    else if fld w 0 10 = 0#10 ∧ fld w 21 3 = 4#3 then some (.voteBallot (fld w 14 7) (fld w 10 4))
    else if fld w 0 6 = 0#6 ∧ fld w 14 10 = 768#10 then some (.voteEq (fld w 10 4) (fld w 6 4))
    else none
  | 0x72 => if fld w 23 1 = 0#1 then some (.shfl (bit w 22) (bit w 21) (fld w 14 7) (fld w 7 7) (fld w 0 7)) else none
  | 0x73 => if fld w 2 5 = 0#5 then some (.qswap (fld w 22 2) (bit w 21) (fld w 14 7) (fld w 7 7) (fld w 0 2)) else none
  | 0x74 => if fld w 0 3 = 0#3 ∧ fld w 21 2 = 0#2 then some (.gred (bit w 23) (fld w 14 7) (fld w 7 7) (fld w 3 4)) else none
  | 0x75 =>
    if fld w 11 3 = 0#3 ∧ fld w 21 3 = 0#3 then some (.claspDecl (fld w 14 7 ++ fld w 0 7) (fld w 7 4))
    else if fld w 0 7 = 0#7 ∧ fld w 11 13 = 1024#13 then some (.claspSign (fld w 7 4))
    else if fld w 0 7 = 0#7 ∧ fld w 11 13 = 2048#13 then some (.claspWait (fld w 7 4))
    else if fld w 0 7 = 0#7 ∧ fld w 11 13 = 3072#13 then some (.claspArrive (fld w 7 4))
    else if fld w 0 7 = 0#7 ∧ fld w 11 3 = 0#3 ∧ fld w 21 3 = 4#3 then some (.claspRead (fld w 14 7) (fld w 7 4))
    else none
  | 0x76 => if fld w 16 8 = 0#8 then some (.wdq (fld w 11 5) (fld w 0 11)) else none
  | 0x77 => if fld w 0 2 = 0#2 then some (.mma (fld w 22 2) (fld w 16 6) (fld w 13 3) (fld w 9 4) (fld w 7 2) (fld w 2 5)) else none
  | 0x78 => if fld w 0 2 = 0#2 ∧ fld w 16 8 = 0#8 then some (.mmc (fld w 13 3) (fld w 9 4) (fld w 7 2) (fld w 2 5)) else none
  | 0x79 =>
    if fld w 0 7 = 0#7 ∧ fld w 12 12 = 0#12 then some (.maccZero (fld w 7 5))
    else if fld w 21 3 = 1#3 then some (.maccLd (fld w 14 7) (fld w 7 7) (fld w 0 7))
    else if fld w 0 7 = 0#7 ∧ fld w 12 2 = 0#2 ∧ fld w 17 7 = 32#7 then some (.maccSt (fld w 14 3) (fld w 7 5))
    else none
  | 0x7A =>
    if fld w 0 7 = 0#7 ∧ fld w 21 3 = 0#3 then some (.taskTq (fld w 14 7) (fld w 7 7))
    else if fld w 0 14 = 0#14 ∧ fld w 18 6 = 8#6 then some (.taskTrun (fld w 14 4))
    else if fld w 0 24 = 4194304#24 then some .taskTend
    else none
  | 0x7B =>
    if fld w 21 3 = 0#3 then some (.versResolve (fld w 14 7) (fld w 7 7) (fld w 0 7))
    else if fld w 0 7 = 0#7 ∧ fld w 14 10 = 128#10 then some (.versPtile (fld w 7 7))
    else if fld w 0 7 = 0#7 ∧ fld w 21 3 = 2#3 then some (.versState (fld w 14 7) (fld w 7 7))
    else none
  | 0x7C => if fld w 0 2 = 0#2 ∧ fld w 7 14 = 0#14 then some (.topk (fld w 22 2) (bit w 21) (fld w 2 5)) else none
  | 0x7D =>
    if fld w 0 2 = 0#2 ∧ fld w 7 1 = 0#1 ∧ fld w 16 8 = 0#8 then some (.launch (fld w 8 8) (fld w 2 5))
    else if fld w 0 2 = 0#2 ∧ fld w 7 1 = 0#1 ∧ fld w 16 8 = 128#8 then some (.launchSpec (fld w 8 8) (fld w 2 5))
    else none
  | 0x7E =>
    if fld w 0 7 = 0#7 ∧ fld w 14 10 = 0#10 then some (.tlbi (fld w 7 7))
    else if fld w 0 24 = 4194304#24 then some .tlbiAll
    else none
  | _ => none

/-- A dictionary word (R47): bit 31 is 1. -/
def decodeDictionary (w : Word) : Instr :=
  .dictionaryWord (fld w 21 10) (fld w 16 5) (bit w 15) (fld w 5 10) (fld w 0 5)

/-- The instruction that a word's bits name, before the checks of reserved values (R36, R39). -/
def decodeRaw (w : Word) : Option Instr :=
  if bit w 31 then some (decodeDictionary w) else decodeMajor (fld w 24 7).toNat w

/-- What the part reads from a fibre's word; `none` is ILLEGAL_INSTRUCTION (R40, R43 to R48). -/
def decode (w : Word) : Option Instr :=
  match decodeRaw w with
  | some i => if i.wellFormed then some i else none
  | none => none

/-- A word of a queue program, by its OP in bits [31:24] (R492, R493); `none` is an unassigned OP or a nonzero unused field (R494). -/
def decodeQOp (op : Nat) (w : Word) : Option Instr :=
  match op with
  | 0x01 => if fld w 16 4 = 0#4 then some (.qli (fld w 20 4) (fld w 0 16)) else none
  | 0x02 => if fld w 16 4 = 0#4 then some (.qlsh (fld w 20 4) (fld w 0 16)) else none
  | 0x03 => some (.qaddi (fld w 20 4) (fld w 16 4) (fld w 0 16))
  | 0x04 => if fld w 0 12 = 0#12 then some (.qadd (fld w 20 4) (fld w 16 4) (fld w 12 4)) else none
  | 0x05 => if fld w 0 12 = 0#12 then some (.qsub (fld w 20 4) (fld w 16 4) (fld w 12 4)) else none
  | 0x06 => if fld w 0 12 = 0#12 then some (.qand (fld w 20 4) (fld w 16 4) (fld w 12 4)) else none
  | 0x07 => if fld w 0 12 = 0#12 then some (.qor (fld w 20 4) (fld w 16 4) (fld w 12 4)) else none
  | 0x08 => if fld w 0 12 = 0#12 then some (.qxor (fld w 20 4) (fld w 16 4) (fld w 12 4)) else none
  | 0x09 => if fld w 0 12 = 0#12 then some (.qshl (fld w 20 4) (fld w 16 4) (fld w 12 4)) else none
  | 0x0A => if fld w 0 12 = 0#12 then some (.qshr (fld w 20 4) (fld w 16 4) (fld w 12 4)) else none
  | 0x0B => if fld w 0 12 = 0#12 then some (.qmul (fld w 20 4) (fld w 16 4) (fld w 12 4)) else none
  | 0x0C => if fld w 0 12 = 0#12 then some (.qdivu (fld w 20 4) (fld w 16 4) (fld w 12 4)) else none
  | 0x0D => if fld w 0 12 = 0#12 then some (.qminu (fld w 20 4) (fld w 16 4) (fld w 12 4)) else none
  | 0x10 => if fld w 16 4 = 0#4 then some (.qldp (fld w 20 4) (fld w 0 16)) else none
  | 0x11 => if fld w 16 4 = 0#4 then some (.qstp (fld w 20 4) (fld w 0 16)) else none
  | 0x12 => some (.qldm (fld w 20 4) (fld w 16 4) (fld w 14 2) (fld w 0 14))
  | 0x13 => some (.qstm (fld w 20 4) (fld w 16 4) (fld w 14 2) (fld w 0 14))
  | 0x20 => if fld w 16 8 = 0#8 then some (.qbr (fld w 0 16)) else none
  | 0x21 => if fld w 20 4 = 0#4 then some (.qbz (fld w 16 4) (fld w 0 16)) else none
  | 0x22 => if fld w 20 4 = 0#4 then some (.qbnz (fld w 16 4) (fld w 0 16)) else none
  | 0x23 => if fld w 20 4 = 0#4 then some (.qbltu (fld w 16 4) (fld w 12 4) (fld w 0 12)) else none
  | 0x24 => if fld w 16 8 = 0#8 then some (.qloop (fld w 8 8) (fld w 0 8)) else none
  | 0x30 => if fld w 8 8 = 0#8 ∧ fld w 20 4 = 0#4 then some (.qwait (fld w 16 4) (fld w 0 8)) else none
  | 0x31 => if fld w 0 16 = 0#16 ∧ fld w 20 4 = 0#4 then some (.qsig (fld w 16 4)) else none
  | 0x32 => if fld w 8 12 = 0#12 then some (.qtlr (fld w 20 4) (fld w 0 8)) else none
  | 0x33 => if fld w 0 16 = 0#16 ∧ fld w 20 4 = 0#4 then some (.qlayer (fld w 16 4)) else none
  | 0x38 => if fld w 0 24 = 0#24 then some .qgo else none
  | 0x39 => if fld w 0 24 = 0#24 then some .qrepeat else none
  | 0x3A => if fld w 8 16 = 0#16 then some (.qcancel (fld w 0 8)) else none
  | _ => none

/-- What the front end reads from a word of a queue program. -/
def decodeQ (w : Word) : Option Instr := decodeQOp (fld w 24 8).toNat w

/-- A word from its fixed bits and its fields, each with its lowest bit. -/
def pack (fixed : Nat) (fields : List (Nat × Nat)) : Word := word (fields.foldl (fun n f => n + f.2 * 2 ^ f.1) fixed)

/-- The word of a fibre's instruction, from the operation table's encoding; `none` for what has no fibre word. -/
def encode (i : Instr) : Option Word :=
  match i with
  | .add h g m d a b => some (pack 0x01000000 [(23, h.toNat), (22, g.toNat), (21, m.toNat), (14, d.toNat), (7, a.toNat), (0, b.toNat)])
  | .sub h g m d a b => some (pack 0x02000000 [(23, h.toNat), (22, g.toNat), (21, m.toNat), (14, d.toNat), (7, a.toNat), (0, b.toNat)])
  | .mul h g d a b => some (pack 0x03000000 [(23, h.toNat), (22, g.toNat), (14, d.toNat), (7, a.toNat), (0, b.toNat)])
  | .mulh h g m d a b => some (pack 0x04000000 [(23, h.toNat), (22, g.toNat), (21, m.toNat), (14, d.toNat), (7, a.toNat), (0, b.toNat)])
  | .imad h g m d a b => some (pack 0x05000000 [(23, h.toNat), (22, g.toNat), (21, m.toNat), (14, d.toNat), (7, a.toNat), (0, b.toNat)])
  | .div h g m d a b => some (pack 0x06000000 [(23, h.toNat), (22, g.toNat), (21, m.toNat), (14, d.toNat), (7, a.toNat), (0, b.toNat)])
  | .rem h g m d a b => some (pack 0x07000000 [(23, h.toNat), (22, g.toNat), (21, m.toNat), (14, d.toNat), (7, a.toNat), (0, b.toNat)])
  | .and h g m d a b => some (pack 0x08000000 [(23, h.toNat), (22, g.toNat), (21, m.toNat), (14, d.toNat), (7, a.toNat), (0, b.toNat)])
  | .or h g m d a b => some (pack 0x09000000 [(23, h.toNat), (22, g.toNat), (21, m.toNat), (14, d.toNat), (7, a.toNat), (0, b.toNat)])
  | .xor h g m d a b => some (pack 0x0A000000 [(23, h.toNat), (22, g.toNat), (21, m.toNat), (14, d.toNat), (7, a.toNat), (0, b.toNat)])
  | .shl h g d a b => some (pack 0x0B000000 [(23, h.toNat), (22, g.toNat), (14, d.toNat), (7, a.toNat), (0, b.toNat)])
  | .shr h g m d a b => some (pack 0x0C000000 [(23, h.toNat), (22, g.toNat), (21, m.toNat), (14, d.toNat), (7, a.toNat), (0, b.toNat)])
  | .min h g m d a b => some (pack 0x0D000000 [(23, h.toNat), (22, g.toNat), (21, m.toNat), (14, d.toNat), (7, a.toNat), (0, b.toNat)])
  | .max h g m d a b => some (pack 0x0E000000 [(23, h.toNat), (22, g.toNat), (21, m.toNat), (14, d.toNat), (7, a.toNat), (0, b.toNat)])
  | .iunMov h m d a => some (pack 0x0F000000 [(23, h.toNat), (21, m.toNat), (14, d.toNat), (7, a.toNat)])
  | .iunNot h m d a => some (pack 0x0F000001 [(23, h.toNat), (21, m.toNat), (14, d.toNat), (7, a.toNat)])
  | .iunNeg h m d a => some (pack 0x0F000002 [(23, h.toNat), (21, m.toNat), (14, d.toNat), (7, a.toNat)])
  | .iunAbs h m d a => some (pack 0x0F000003 [(23, h.toNat), (21, m.toNat), (14, d.toNat), (7, a.toNat)])
  | .iunClz h m d a => some (pack 0x0F000004 [(23, h.toNat), (21, m.toNat), (14, d.toNat), (7, a.toNat)])
  | .iunCtz h m d a => some (pack 0x0F000005 [(23, h.toNat), (21, m.toNat), (14, d.toNat), (7, a.toNat)])
  | .iunPopc h m d a => some (pack 0x0F000006 [(23, h.toNat), (21, m.toNat), (14, d.toNat), (7, a.toNat)])
  | .iunBrev h m d a => some (pack 0x0F000007 [(23, h.toNat), (21, m.toNat), (14, d.toNat), (7, a.toNat)])
  | .iunBswap h m d a => some (pack 0x0F000008 [(23, h.toNat), (21, m.toNat), (14, d.toNat), (7, a.toNat)])
  | .iunSextb h d a => some (pack 0x0F000009 [(23, h.toNat), (14, d.toNat), (7, a.toNat)])
  | .iunSexth h d a => some (pack 0x0F00000A [(23, h.toNat), (14, d.toNat), (7, a.toNat)])
  | .iunZextb h d a => some (pack 0x0F00000B [(23, h.toNat), (14, d.toNat), (7, a.toNat)])
  | .iunZexth h d a => some (pack 0x0F00000C [(23, h.toNat), (14, d.toNat), (7, a.toNat)])
  | .rot h g m d a b => some (pack 0x10000000 [(23, h.toNat), (22, g.toNat), (21, m.toNat), (14, d.toNat), (7, a.toNat), (0, b.toNat)])
  | .bfx h g m d a b => some (pack 0x11000000 [(23, h.toNat), (22, g.toNat), (21, m.toNat), (14, d.toNat), (7, a.toNat), (0, b.toNat)])
  | .bfi h g d a b => some (pack 0x12000000 [(23, h.toNat), (22, g.toNat), (14, d.toNat), (7, a.toNat), (0, b.toNat)])
  | .lea h g m d a b => some (pack 0x13000000 [(23, h.toNat), (22, g.toNat), (21, m.toNat), (14, d.toNat), (7, a.toNat), (0, b.toNat)])
  | .leaw h g m d a b => some (pack 0x14000000 [(23, h.toNat), (22, g.toNat), (21, m.toNat), (14, d.toNat), (7, a.toNat), (0, b.toNat)])
  | .addw h g m d a b => some (pack 0x15000000 [(23, h.toNat), (22, g.toNat), (21, m.toNat), (14, d.toNat), (7, a.toNat), (0, b.toNat)])
  | .mulw h g d a b => some (pack 0x16000000 [(23, h.toNat), (22, g.toNat), (14, d.toNat), (7, a.toNat), (0, b.toNat)])
  | .shlw h g d a b => some (pack 0x17000000 [(23, h.toNat), (22, g.toNat), (14, d.toNat), (7, a.toNat), (0, b.toNat)])
  | .shrw h g m d a b => some (pack 0x18000000 [(23, h.toNat), (22, g.toNat), (21, m.toNat), (14, d.toNat), (7, a.toNat), (0, b.toNat)])
  | .sel p d a b => some (pack 0x19000000 [(21, p.toNat), (14, d.toNat), (7, a.toNat), (0, b.toNat)])
  | .addi i d a => some (pack 0x1A000000 [(21, i.toNat / 128), (0, i.toNat % 128), (14, d.toNat), (7, a.toNat)])
  | .andi i d a => some (pack 0x1B000000 [(21, i.toNat / 128), (0, i.toNat % 128), (14, d.toNat), (7, a.toNat)])
  | .ori i d a => some (pack 0x1C000000 [(21, i.toNat / 128), (0, i.toNat % 128), (14, d.toNat), (7, a.toNat)])
  | .xori i d a => some (pack 0x1D000000 [(21, i.toNat / 128), (0, i.toNat % 128), (14, d.toNat), (7, a.toNat)])
  | .shi k d a n => some (pack 0x1E000000 [(22, k.toNat), (14, d.toNat), (7, a.toNat), (0, n.toNat)])
  | .muli i d a => some (pack 0x1F000000 [(21, i.toNat / 128), (0, i.toNat % 128), (14, d.toNat), (7, a.toNat)])
  | .li i d => some (pack 0x20000000 [(21, i.toNat / 16384), (0, i.toNat % 16384), (14, d.toNat)])
  | .lih i d => some (pack 0x21000000 [(21, i.toNat / 16384), (0, i.toNat % 16384), (14, d.toNat)])
  | .addiw i d a => some (pack 0x22000000 [(21, i.toNat / 128), (0, i.toNat % 128), (14, d.toNat), (7, a.toNat)])
  | .icmp c p e a b => some (pack 0x23000000 [(20, c.toNat), (16, p.toNat), (14, e.toNat), (7, a.toNat), (0, b.toNat)])
  | .icmpi c p e a i => some (pack 0x24000000 [(20, c.toNat), (16, p.toNat), (14, e.toNat), (7, a.toNat), (0, i.toNat)])
  | .icmpw c p e a b => some (pack 0x25000000 [(20, c.toNat), (16, p.toNat), (14, e.toNat), (7, a.toNat), (0, b.toNat)])
  | .fcmp c p e a b => some (pack 0x26000000 [(20, c.toNat), (16, p.toNat), (14, e.toNat), (7, a.toNat), (0, b.toNat)])
  | .dcmp c p e a b => some (pack 0x27000000 [(20, c.toNat), (16, p.toNat), (14, e.toNat), (7, a.toNat), (0, b.toNat)])
  | .plog t p x y => some (pack 0x28000000 [(20, t.toNat), (16, p.toNat), (10, x.toNat), (6, y.toNat)])
  | .pmovToLane h g d p => some (pack 0x29000000 [(23, h.toNat), (22, g.toNat), (14, d.toNat), (7, p.toNat)])
  | .pmovToPred h g p a => some (pack 0x29200000 [(23, h.toNat), (22, g.toNat), (14, p.toNat), (7, a.toNat)])
  | .kalu o d a b => some (pack 0x2A000000 [(21, o.toNat), (14, d.toNat), (7, a.toNat), (0, b.toNat)])
  | .kaddi i d a => some (pack 0x2B000000 [(21, i.toNat / 128), (0, i.toNat % 128), (14, d.toNat), (7, a.toNat)])
  | .kmovToK h d a => some (pack 0x2C000000 [(23, h.toNat), (14, d.toNat), (7, a.toNat)])
  | .kmovToLane h d a => some (pack 0x2C200000 [(23, h.toNat), (14, d.toNat), (7, a.toNat)])
  | .kld h d a o => some (pack 0x2D000000 [(22, h.toNat), (14, d.toNat), (7, a.toNat), (0, o.toNat)])
  | .kst h d a o => some (pack 0x2E000000 [(22, h.toNat), (14, d.toNat), (7, a.toNat), (0, o.toNat)])
  | .fadd h g m d a b => some (pack 0x30000000 [(23, h.toNat), (22, g.toNat), (21, m.toNat), (14, d.toNat), (7, a.toNat), (0, b.toNat)])
  | .fmul h g m d a b => some (pack 0x31000000 [(23, h.toNat), (22, g.toNat), (21, m.toNat), (14, d.toNat), (7, a.toNat), (0, b.toNat)])
  | .ffma h g m d a b => some (pack 0x32000000 [(23, h.toNat), (22, g.toNat), (21, m.toNat), (14, d.toNat), (7, a.toNat), (0, b.toNat)])
  | .fmin h g m d a b => some (pack 0x33000000 [(23, h.toNat), (22, g.toNat), (21, m.toNat), (14, d.toNat), (7, a.toNat), (0, b.toNat)])
  | .funSqrt h d a => some (pack 0x34000000 [(23, h.toNat), (14, d.toNat), (7, a.toNat)])
  | .funRsqrt h d a => some (pack 0x34000001 [(23, h.toNat), (14, d.toNat), (7, a.toNat)])
  | .funRcp h d a => some (pack 0x34000002 [(23, h.toNat), (14, d.toNat), (7, a.toNat)])
  | .funExp2 h d a => some (pack 0x34000003 [(23, h.toNat), (14, d.toNat), (7, a.toNat)])
  | .funLog2 h d a => some (pack 0x34000004 [(23, h.toNat), (14, d.toNat), (7, a.toNat)])
  | .funSin h d a => some (pack 0x34000005 [(23, h.toNat), (14, d.toNat), (7, a.toNat)])
  | .funCos h d a => some (pack 0x34000006 [(23, h.toNat), (14, d.toNat), (7, a.toNat)])
  | .funTanh h d a => some (pack 0x34000007 [(23, h.toNat), (14, d.toNat), (7, a.toNat)])
  | .funAbs h d a => some (pack 0x34000008 [(23, h.toNat), (14, d.toNat), (7, a.toNat)])
  | .funNeg h d a => some (pack 0x34000009 [(23, h.toNat), (14, d.toNat), (7, a.toNat)])
  | .funFloor h d a => some (pack 0x3400000A [(23, h.toNat), (14, d.toNat), (7, a.toNat)])
  | .funCeil h d a => some (pack 0x3400000B [(23, h.toNat), (14, d.toNat), (7, a.toNat)])
  | .funTrunc h d a => some (pack 0x3400000C [(23, h.toNat), (14, d.toNat), (7, a.toNat)])
  | .funRint h d a => some (pack 0x3400000D [(23, h.toNat), (14, d.toNat), (7, a.toNat)])
  | .funClass h d a => some (pack 0x3400000E [(23, h.toNat), (14, d.toNat), (7, a.toNat)])
  | .fdiv h g d a b => some (pack 0x35000000 [(23, h.toNat), (22, g.toNat), (14, d.toNat), (7, a.toNat), (0, b.toNat)])
  | .hadd2 h g m d a b => some (pack 0x36000000 [(23, h.toNat), (22, g.toNat), (21, m.toNat), (14, d.toNat), (7, a.toNat), (0, b.toNat)])
  | .hmul2 h g m d a b => some (pack 0x37000000 [(23, h.toNat), (22, g.toNat), (21, m.toNat), (14, d.toNat), (7, a.toNat), (0, b.toNat)])
  | .hfma2 h g m d a b => some (pack 0x38000000 [(23, h.toNat), (22, g.toNat), (21, m.toNat), (14, d.toNat), (7, a.toNat), (0, b.toNat)])
  | .dadd h g m d a b => some (pack 0x39000000 [(23, h.toNat), (22, g.toNat), (21, m.toNat), (14, d.toNat), (7, a.toNat), (0, b.toNat)])
  | .dmul h g m d a b => some (pack 0x3A000000 [(23, h.toNat), (22, g.toNat), (21, m.toNat), (14, d.toNat), (7, a.toNat), (0, b.toNat)])
  | .dfma h g m d a b => some (pack 0x3B000000 [(23, h.toNat), (22, g.toNat), (21, m.toNat), (14, d.toNat), (7, a.toNat), (0, b.toNat)])
  | .dunSqrt h d a => some (pack 0x3C000000 [(23, h.toNat), (14, d.toNat), (7, a.toNat)])
  | .dunRsqrt h d a => some (pack 0x3C000001 [(23, h.toNat), (14, d.toNat), (7, a.toNat)])
  | .dunRcp h d a => some (pack 0x3C000002 [(23, h.toNat), (14, d.toNat), (7, a.toNat)])
  | .dunAbs h d a => some (pack 0x3C000008 [(23, h.toNat), (14, d.toNat), (7, a.toNat)])
  | .dunNeg h d a => some (pack 0x3C000009 [(23, h.toNat), (14, d.toNat), (7, a.toNat)])
  | .dunFloor h d a => some (pack 0x3C00000A [(23, h.toNat), (14, d.toNat), (7, a.toNat)])
  | .dunCeil h d a => some (pack 0x3C00000B [(23, h.toNat), (14, d.toNat), (7, a.toNat)])
  | .dunTrunc h d a => some (pack 0x3C00000C [(23, h.toNat), (14, d.toNat), (7, a.toNat)])
  | .dunRint h d a => some (pack 0x3C00000D [(23, h.toNat), (14, d.toNat), (7, a.toNat)])
  | .dunClass h d a => some (pack 0x3C00000E [(23, h.toNat), (14, d.toNat), (7, a.toNat)])
  | .ddiv h g d a b => some (pack 0x3D000000 [(23, h.toNat), (22, g.toNat), (14, d.toNat), (7, a.toNat), (0, b.toNat)])
  | .dmin h g m d a b => some (pack 0x3E000000 [(23, h.toNat), (22, g.toNat), (21, m.toNat), (14, d.toNat), (7, a.toNat), (0, b.toNat)])
  | .cvtF32F64 h d a r => some (pack 0x3F000000 [(23, h.toNat), (14, d.toNat), (7, a.toNat), (0, r.toNat)])
  | .cvtF64F32 h d a => some (pack 0x3F000004 [(23, h.toNat), (14, d.toNat), (7, a.toNat)])
  | .cvtF16F32 h x d a r => some (pack 0x3F000008 [(23, h.toNat), (21, x.toNat), (14, d.toNat), (7, a.toNat), (0, r.toNat)])
  | .cvtF32F16 h x d a => some (pack 0x3F00000C [(23, h.toNat), (21, x.toNat), (14, d.toNat), (7, a.toNat)])
  | .cvtBf16F32 h x d a r => some (pack 0x3F000010 [(23, h.toNat), (21, x.toNat), (14, d.toNat), (7, a.toNat), (0, r.toNat)])
  | .cvtF32Bf16 h x d a => some (pack 0x3F000014 [(23, h.toNat), (21, x.toNat), (14, d.toNat), (7, a.toNat)])
  | .cvtS32F32 h d a r => some (pack 0x3F000018 [(23, h.toNat), (14, d.toNat), (7, a.toNat), (0, r.toNat)])
  | .cvtU32F32 h d a r => some (pack 0x3F00001C [(23, h.toNat), (14, d.toNat), (7, a.toNat), (0, r.toNat)])
  | .cvtF32S32 h d a r => some (pack 0x3F000020 [(23, h.toNat), (14, d.toNat), (7, a.toNat), (0, r.toNat)])
  | .cvtF32U32 h d a r => some (pack 0x3F000024 [(23, h.toNat), (14, d.toNat), (7, a.toNat), (0, r.toNat)])
  | .cvtS32F64 h d a r => some (pack 0x3F000028 [(23, h.toNat), (14, d.toNat), (7, a.toNat), (0, r.toNat)])
  | .cvtU32F64 h d a r => some (pack 0x3F00002C [(23, h.toNat), (14, d.toNat), (7, a.toNat), (0, r.toNat)])
  | .cvtF64S32 h d a => some (pack 0x3F000030 [(23, h.toNat), (14, d.toNat), (7, a.toNat)])
  | .cvtF64U32 h d a => some (pack 0x3F000034 [(23, h.toNat), (14, d.toNat), (7, a.toNat)])
  | .cvtS64F64 h d a r => some (pack 0x3F000038 [(23, h.toNat), (14, d.toNat), (7, a.toNat), (0, r.toNat)])
  | .cvtF64S64 h d a r => some (pack 0x3F00003C [(23, h.toNat), (14, d.toNat), (7, a.toNat), (0, r.toNat)])
  | .cvtn s d a b => some (pack 0x40000000 [(21, s.toNat), (14, d.toNat), (7, a.toNat), (0, b.toNat)])
  | .cvtw s d a b => some (pack 0x41000000 [(21, s.toNat), (14, d.toNat), (7, a.toNat), (0, b.toNat)])
  | .rand m d => some (pack 0x42000000 [(21, m.toNat), (14, d.toNat)])
  | .rseed a b => some (pack 0x43000000 [(7, a.toNat), (0, b.toNat)])
  | .bra s p o => some (pack 0x44000000 [(23, s.toNat), (19, p.toNat), (0, o.toNat)])
  | .brx h g a => some (pack 0x45000000 [(23, h.toNat), (22, g.toNat), (7, a.toNat)])
  | .call s o => some (pack 0x46000000 [(20, s.toNat), (0, o.toNat)])
  | .calli s a => some (pack 0x47000000 [(20, s.toNat), (7, a.toNat)])
  | .ret => some (pack 0x48000000 [])
  | .wbase h m a => some (pack 0x49000000 [(23, h.toNat), (21, m.toNat), (7, a.toNat)])
  | .rep c x y z => some (pack 0x4A000000 [(18, c.toNat), (15, x.toNat), (12, y.toNat), (9, z.toNat)])
  | .trap c => some (pack 0x4B000000 [(0, c.toNat)])
  | .rettResume => some (pack 0x4C000000 [])
  | .rettSkip => some (pack 0x4C200000 [])
  | .rettKillfibre => some (pack 0x4C400000 [])
  | .rettTaskretry => some (pack 0x4C600000 [])
  | .rettTaskskip => some (pack 0x4C800000 [])
  | .rettTaskkill => some (pack 0x4CA00000 [])
  | .fend => some (pack 0x4D000000 [])
  | .srd g d n => some (pack 0x4E000000 [(22, g.toNat), (14, d.toNat), (0, n.toNat)])
  | .swr h g a n => some (pack 0x4F000000 [(23, h.toNat), (22, g.toNat), (7, a.toNat), (0, n.toNat)])
  | .ldb h m d a o => some (pack 0x50000000 [(22, h.toNat), (21, m.toNat), (14, d.toNat), (7, a.toNat), (0, o.toNat)])
  | .ldh h m d a o => some (pack 0x51000000 [(22, h.toNat), (21, m.toNat), (14, d.toNat), (7, a.toNat), (0, o.toNat)])
  | .ldw h m d a o => some (pack 0x52000000 [(22, h.toNat), (21, m.toNat), (14, d.toNat), (7, a.toNat), (0, o.toNat)])
  | .ldd h m d a o => some (pack 0x53000000 [(22, h.toNat), (21, m.toNat), (14, d.toNat), (7, a.toNat), (0, o.toNat)])
  | .ldq h m d a o => some (pack 0x54000000 [(22, h.toNat), (21, m.toNat), (14, d.toNat), (7, a.toNat), (0, o.toNat)])
  | .stb h m d a o => some (pack 0x55000000 [(22, h.toNat), (21, m.toNat), (14, d.toNat), (7, a.toNat), (0, o.toNat)])
  | .sth h m d a o => some (pack 0x56000000 [(22, h.toNat), (21, m.toNat), (14, d.toNat), (7, a.toNat), (0, o.toNat)])
  | .stw h m d a o => some (pack 0x57000000 [(22, h.toNat), (21, m.toNat), (14, d.toNat), (7, a.toNat), (0, o.toNat)])
  | .std h m d a o => some (pack 0x58000000 [(22, h.toNat), (21, m.toNat), (14, d.toNat), (7, a.toNat), (0, o.toNat)])
  | .stq h m d a o => some (pack 0x59000000 [(22, h.toNat), (21, m.toNat), (14, d.toNat), (7, a.toNat), (0, o.toNat)])
  | .pfetch h a o => some (pack 0x5A000000 [(22, h.toNat), (7, a.toNat), (0, o.toNat)])
  | .cline m a o => some (pack 0x5B000000 [(21, m.toNat), (7, a.toNat), (0, o.toNat)])
  | .yield => some (pack 0x5C000000 [])
  | .sleep i => some (pack 0x5D000000 [(21, i.toNat / 16384), (0, i.toNat % 16384)])
  | .brk c => some (pack 0x5E000000 [(0, c.toNat)])
  | .nop => some (pack 0x5F000000 [])
  | .aadd s d a w b => some (pack 0x60000000 [(21, s.toNat), (14, d.toNat), (8, a.toNat), (7, w.toNat), (0, b.toNat)])
  | .aand s d a w b => some (pack 0x61000000 [(21, s.toNat), (14, d.toNat), (8, a.toNat), (7, w.toNat), (0, b.toNat)])
  | .aor s d a w b => some (pack 0x62000000 [(21, s.toNat), (14, d.toNat), (8, a.toNat), (7, w.toNat), (0, b.toNat)])
  | .axor s d a w b => some (pack 0x63000000 [(21, s.toNat), (14, d.toNat), (8, a.toNat), (7, w.toNat), (0, b.toNat)])
  | .amin s d a w b => some (pack 0x64000000 [(21, s.toNat), (14, d.toNat), (8, a.toNat), (7, w.toNat), (0, b.toNat)])
  | .amax s d a w b => some (pack 0x65000000 [(21, s.toNat), (14, d.toNat), (8, a.toNat), (7, w.toNat), (0, b.toNat)])
  | .axch s d a w b => some (pack 0x66000000 [(21, s.toNat), (14, d.toNat), (8, a.toNat), (7, w.toNat), (0, b.toNat)])
  | .acas s d a w b => some (pack 0x67000000 [(21, s.toNat), (14, d.toNat), (8, a.toNat), (7, w.toNat), (0, b.toNat)])
  | .afadd s d a w b => some (pack 0x68000000 [(21, s.toNat), (14, d.toNat), (8, a.toNat), (7, w.toNat), (0, b.toNat)])
  | .ald s d a w => some (pack 0x69000000 [(21, s.toNat), (14, d.toNat), (8, a.toNat), (7, w.toNat)])
  | .ast s a w b => some (pack 0x6A000000 [(21, s.toNat), (8, a.toNat), (7, w.toNat), (0, b.toNat)])
  | .phase => some (pack 0x6B000000 [])
  | .fence b a => some (pack 0x6C000000 [(20, b.toNat), (16, a.toNat)])
  | .wait l s t m => some (pack 0x6D000000 [(20, l.toNat), (16, s.toNat), (12, t.toNat), (4, m.toNat)])
  | .tagSetf a n => some (pack 0x6E000000 [(7, a.toNat), (0, n.toNat)])
  | .tagSete a n => some (pack 0x6E200000 [(7, a.toNat), (0, n.toNat)])
  | .tagCons a n => some (pack 0x6E400000 [(7, a.toNat), (0, n.toNat)])
  | .tagGet d a => some (pack 0x6E600000 [(14, d.toNat), (7, a.toNat)])
  | .tagPoison a n => some (pack 0x6E800000 [(7, a.toNat), (0, n.toNat)])
  | .gbar s d a b => some (pack 0x6F000000 [(21, s.toNat), (14, d.toNat), (8, a.toNat), (0, b.toNat)])
  | .fspawn h g d a b => some (pack 0x70000000 [(23, h.toNat), (22, g.toNat), (14, d.toNat), (7, a.toNat), (0, b.toNat)])
  | .voteAll s p => some (pack 0x71000000 [(10, s.toNat), (6, p.toNat)])
  | .voteAny s p => some (pack 0x71400000 [(10, s.toNat), (6, p.toNat)])
  | .voteBallot d s => some (pack 0x71800000 [(14, d.toNat), (10, s.toNat)])
  | .voteEq s p => some (pack 0x71C00000 [(10, s.toNat), (6, p.toNat)])
  | .shfl g m d a b => some (pack 0x72000000 [(22, g.toNat), (21, m.toNat), (14, d.toNat), (7, a.toNat), (0, b.toNat)])
  | .qswap e w d a s => some (pack 0x73000000 [(22, e.toNat), (21, w.toNat), (14, d.toNat), (7, a.toNat), (0, s.toNat)])
  | .gred s d a o => some (pack 0x74000000 [(23, s.toNat), (14, d.toNat), (7, a.toNat), (3, o.toNat)])
  | .claspDecl n c => some (pack 0x75000000 [(14, n.toNat / 128), (0, n.toNat % 128), (7, c.toNat)])
  | .claspSign c => some (pack 0x75200000 [(7, c.toNat)])
  | .claspWait c => some (pack 0x75400000 [(7, c.toNat)])
  | .claspArrive c => some (pack 0x75600000 [(7, c.toNat)])
  | .claspRead d c => some (pack 0x75800000 [(14, d.toNat), (7, c.toNat)])
  | .wdq k o => some (pack 0x76000000 [(11, k.toNat), (0, o.toNat)])
  | .mma m n s c e k => some (pack 0x77000000 [(22, m.toNat), (16, n.toNat), (13, s.toNat), (9, c.toNat), (7, e.toNat), (2, k.toNat)])
  | .mmc s c e k => some (pack 0x78000000 [(13, s.toNat), (9, c.toNat), (7, e.toNat), (2, k.toNat)])
  | .maccZero k => some (pack 0x79000000 [(7, k.toNat)])
  | .maccLd d a n => some (pack 0x79200000 [(14, d.toNat), (7, a.toNat), (0, n.toNat)])
  | .maccSt s k => some (pack 0x79400000 [(14, s.toNat), (7, k.toNat)])
  | .taskTq d a => some (pack 0x7A000000 [(14, d.toNat), (7, a.toNat)])
  | .taskTrun p => some (pack 0x7A200000 [(14, p.toNat)])
  | .taskTend => some (pack 0x7A400000 [])
  | .versResolve d a b => some (pack 0x7B000000 [(14, d.toNat), (7, a.toNat), (0, b.toNat)])
  | .versPtile a => some (pack 0x7B200000 [(7, a.toNat)])
  | .versState d a => some (pack 0x7B400000 [(14, d.toNat), (7, a.toNat)])
  | .topk t s k => some (pack 0x7C000000 [(22, t.toNat), (21, s.toNat), (2, k.toNat)])
  | .launch q k => some (pack 0x7D000000 [(8, q.toNat), (2, k.toNat)])
  | .launchSpec q k => some (pack 0x7D800000 [(8, q.toNat), (2, k.toNat)])
  | .tlbi a => some (pack 0x7E000000 [(7, a.toNat)])
  | .tlbiAll => some (pack 0x7E400000 [])
  | .dictionaryWord h d v l s => some (pack 0x80000000 [(21, h.toNat), (16, d.toNat), (15, v.toNat), (5, l.toNat), (0, s.toNat)])
  | _ => none

/-- The word of a queue program's operation; `none` for anything else. -/
def encodeQ (i : Instr) : Option Word :=
  match i with
  | .qli d i => some (pack 0x01000000 [(20, d.toNat), (0, i.toNat)])
  | .qlsh d i => some (pack 0x02000000 [(20, d.toNat), (0, i.toNat)])
  | .qaddi d a i => some (pack 0x03000000 [(20, d.toNat), (16, a.toNat), (0, i.toNat)])
  | .qadd d a b => some (pack 0x04000000 [(20, d.toNat), (16, a.toNat), (12, b.toNat)])
  | .qsub d a b => some (pack 0x05000000 [(20, d.toNat), (16, a.toNat), (12, b.toNat)])
  | .qand d a b => some (pack 0x06000000 [(20, d.toNat), (16, a.toNat), (12, b.toNat)])
  | .qor d a b => some (pack 0x07000000 [(20, d.toNat), (16, a.toNat), (12, b.toNat)])
  | .qxor d a b => some (pack 0x08000000 [(20, d.toNat), (16, a.toNat), (12, b.toNat)])
  | .qshl d a b => some (pack 0x09000000 [(20, d.toNat), (16, a.toNat), (12, b.toNat)])
  | .qshr d a b => some (pack 0x0A000000 [(20, d.toNat), (16, a.toNat), (12, b.toNat)])
  | .qmul d a b => some (pack 0x0B000000 [(20, d.toNat), (16, a.toNat), (12, b.toNat)])
  | .qdivu d a b => some (pack 0x0C000000 [(20, d.toNat), (16, a.toNat), (12, b.toNat)])
  | .qminu d a b => some (pack 0x0D000000 [(20, d.toNat), (16, a.toNat), (12, b.toNat)])
  | .qldp d o => some (pack 0x10000000 [(20, d.toNat), (0, o.toNat)])
  | .qstp d o => some (pack 0x11000000 [(20, d.toNat), (0, o.toNat)])
  | .qldm d a w o => some (pack 0x12000000 [(20, d.toNat), (16, a.toNat), (14, w.toNat), (0, o.toNat)])
  | .qstm d a w o => some (pack 0x13000000 [(20, d.toNat), (16, a.toNat), (14, w.toNat), (0, o.toNat)])
  | .qbr o => some (pack 0x20000000 [(0, o.toNat)])
  | .qbz a o => some (pack 0x21000000 [(16, a.toNat), (0, o.toNat)])
  | .qbnz a o => some (pack 0x22000000 [(16, a.toNat), (0, o.toNat)])
  | .qbltu a b o => some (pack 0x23000000 [(16, a.toNat), (12, b.toNat), (0, o.toNat)])
  | .qloop n l => some (pack 0x24000000 [(8, n.toNat), (0, l.toNat)])
  | .qwait a q => some (pack 0x30000000 [(16, a.toNat), (0, q.toNat)])
  | .qsig a => some (pack 0x31000000 [(16, a.toNat)])
  | .qtlr d q => some (pack 0x32000000 [(20, d.toNat), (0, q.toNat)])
  | .qlayer a => some (pack 0x33000000 [(16, a.toNat)])
  | .qgo => some (pack 0x38000000 [])
  | .qrepeat => some (pack 0x39000000 [])
  | .qcancel c => some (pack 0x3A000000 [(0, c.toNat)])
  | _ => none

/-- The instruction that the decoder reads from a table row's bits: bit 0 is the least significant bit of the one word, and a bit that the row does not give is 0. The rows of queue programs share their OP bytes with fibre majors; a fibre's words are what a fetch decodes, so this reads them as fibre words (log 7). -/
def decodeTableWord (nbits w : Nat) : Option Instr := decode (BitVec.ofNat 32 (w % 2 ^ nbits))

/-- Whether REP may precede a major (R55): 0x00 to 0x3F and 0x50 to 0x59, bit 31 clear. -/
def repMajor (w : Word) : Bool :=
  !bit w 31 && (decide ((fld w 24 7).toNat ≤ 0x3F) || (decide (0x50 ≤ (fld w 24 7).toNat) && decide ((fld w 24 7).toNat ≤ 0x59)))

/-- Adds to the 7-bit fields F1, F2 and F3 of a word, each modulo 128 (R50, R56). -/
def stepFields (w : Word) (x y z : BitVec 7) : Word :=
  word ((fld w 21 11).toNat * 2 ^ 21 + (fld w 14 7 + x).toNat * 2 ^ 14 + (fld w 7 7 + y).toNat * 2 ^ 7 + (fld w 0 7 + z).toNat)

/-- The little-endian bytes of a word. -/
def wordBytes (w : Word) : List Byte := [w.extractLsb' 0 8, w.extractLsb' 8 8, w.extractLsb' 16 8, w.extractLsb' 24 8]

end Sys2Proof
end

