-- ==== Sys2Proof/Config.lean ====
section
/-! DEFINITION. What the part's implementation fixes, and the free values: opaque constants with no body, so that nothing can be proved of what they are. Each is named in the assumption log. -/

namespace Sys2Proof.Config

/-- A free 64-bit value for each number; the state's field `fresh` numbers the draws (log 6). -/
opaque freeValue : Nat → BitVec 64

/-- What a GRED scan writes to a helper that stands below every participant: the tree's root is absent, and R232 states no value; by the number of the turn and the lane (log 6). -/
opaque absentScan : Nat → Nat → BitVec 64

/-- How many clocks pass in one step, as a free number (R21 counts clocks; this model has no cycle timing) (log 1). -/
opaque clocksOf : Nat → Nat

/-- Whether an entry whose turn R207 would put first has an operand still on its way, as a free truth value for each step: R123, R148 and R168 count the clocks of results, and this model has no cycle timing (log 2). -/
opaque resultsLate : Nat → Bool

/-- The size in KiB that 64 KiB of data takes in the compression zone (R464): the manual does not give the method. -/
opaque compressedKib : List Byte → Nat

/-- How many records the sequence table of a queue holds (R469 names no length). -/
opaque sequences : BitVec 8 → Nat

/-- Which sequence of a queue's table a launch belongs to: R469 has the front end count a sequence's launches, and names no field that tells it (log 64). -/
opaque sequenceOf : BitVec 8 → List (BitVec 8) → Option Nat

/-- How many stripes a rebuild of a stack rewrites (R472; R267 does not give a block's size). -/
opaque stripes : Nat

/-- Whether a stripe of a line has blocks on two channels of a stack that have failed, and has not been rebuilt yet, so many stripes being done (R472; R267 does not give the layout of the stripes). -/
opaque stripeLost : BitVec 3 → BitVec 5 → BitVec 5 → Nat → Nat → Bool

/-- The SHA-384 digest of a message (R525, R526): a published function that the manual only names, 384 bits. -/
opaque sha384 : List Byte → BitVec 384

/-- The attestation signatures over a message under the device's keys, RSA-3072 with PSS and SLH-DSA-SHA2-192s (R525, R526): the keys are the part's own. -/
opaque sign : List Byte → List Byte

/-- The 2 compute dies of 24 cores, 6 clusters of 4 (R2). -/
def cores : Nat := 48

/-- The frames of a die's usable HBM4E (R460). -/
def framesPerDie : Nat := 5898240

end Sys2Proof.Config
end

