-- ==== Sys2Proof/Machine/State.lean ====
section
/-! DEFINITION. The state of the part as plain data: everything that the manual gives the machine, and the model's own fields (the last block of `State`). Lists are keyed by the numbers in their records; an absent record stands for the default that its accessor names. -/

namespace Sys2Proof.Machine

/-- Bytes by address, addresses strictly rising. Where the list has a default, no entry equals it; where it says which bytes are present, an absent address is not held. -/
abbrev Cells := List Host.Cell

/-- The privilege levels (R9, R428). -/
inductive Level where
  | u | h | s
deriving DecidableEq, Repr

/-- Whether a lane's fibre runs, is carried as a helper, or has ended (R204, R211). -/
inductive Run where
  | live | helper | ended
deriving DecidableEq, Repr

/-- Names one fibre: its workgroup, its group in it and its lane (R188). -/
structure FibreKey where
  wg : Nat
  grp : Nat
  lane : Nat
deriving DecidableEq, Repr

/-- Where a fibre stands in its partition: an entry of the batch table, or a place in the overflow pool, in order, with the clock at which it came there (R198, R203); or out of both, while its unit is pre-empted (R452). -/
inductive Seat where
  | entry (i : Nat)
  | pool (order since : Nat)
  | saved
deriving DecidableEq, Repr

/-- The fault codes of R429. -/
inductive Code where
  | illegalInstruction | illegalOperand | misaligned | privilege | breakpoint | trap
  | pageNotPresent | pageProtection | writeProtectWindow | compressedPage | stackGrowth | copyOnWrite | poison
  | versionPage | versionPoolEmpty | matrixShape | matrixFormat | copyCommand | taskUnderflow | watchdog
deriving DecidableEq, Repr

/-- A fault with what the handler's registers tell of it (R429, R430); `next` says that the faulting pc is the instruction after this one (R374). -/
structure Trap where
  code : Code
  addr : BitVec 64 := 0
  info : Word := 0
  next : Bool := false
deriving DecidableEq, Repr

/-- The seven TRAP registers of a fibre (R18, R430). -/
structure TrapRegs where
  cause : Word := 0
  pcLo : Word := 0
  pcHi : Word := 0
  addrLo : Word := 0
  addrHi : Word := 0
  info : Word := 0
  lanes : Word := 0
deriving DecidableEq, Repr

/-- The lane generator (R142). -/
structure Gen where
  key : DWord := 0
  stream : DWord := 0
  n : DWord := 0
deriving DecidableEq, Repr

/-- Where bytes stand: at an offset of a workgroup's scratchpad, or at a physical address (R369 keys task entries so); or nowhere, while their page is compressed (R464). -/
inductive Place where
  | pad (wg off : Nat)
  | pa (a : Nat)
  | gone
deriving DecidableEq, Repr

/-- A fibre that has arrived at a GBAR and waits (R304): the word's address and place, the version that accesses it and the leaf of its page, the recorded generation and the count it found; `clob` once the wait has been clobbered (R305), `done` once it has ended. -/
structure GbarWait where
  va : VA
  place : Place
  vid : VID := 0
  leaf : Nat := 0
  gen : BitVec 16
  old : BitVec 16
  done : Bool := false
  clob : Bool := false
  /-- It has left the waiter list (R306, R444). -/
  away : Bool := false
deriving DecidableEq, Repr

/-- What a waiting access needs its granule's tag to be (R155, R156, R302, R405): FULL, EMPTY, or merely not held by another version's output. -/
inductive TagNeed where
  | full | empty | free
deriving DecidableEq, Repr

/-- A scratchpad access that waits for its granule (R250): where it reads or writes, the bytes it stores or the registers it loads, and where its fibre goes on. -/
structure WaitAcc where
  wg : Nat
  off : Nat
  va : VA
  need : TagNeed
  store : Bool
  sf : Bool
  size : Nat
  data : List Byte
  dst : List Nat
  pc : VA
  rep : Word
deriving DecidableEq, Repr

/-- What a fibre waits for in one instruction (R201, R437, R444). -/
inductive Why where
  | access (a : WaitAcc) | clasp | gbar | counts (matrix : Bool) (mask : BitVec 8) | queueFull | hardware (c : Code) (va : VA) (write : Bool) | trap (t : Trap) (lanes : Word) | walk
  | peer (n : Nat) | stall | place | acks | acc | sleep | data
  /-- A TAG CONS (R302): its granules with their addresses; and a TRUN (R373) with its predicate: with where their fibre goes on. -/
  | cons (gs : List (Nat × Nat × Nat)) (pc : VA) (rep : Word)
  | trun (p : BitVec 4) (pc : VA) (rep : Word)
  /-- A FENCE (R294): the orders and identities from which on commands are not earlier ones, and its after-set. -/
  | fence (order id : Nat) (after : BitVec 4)
deriving DecidableEq, Repr

/-- A wait in progress, and the clock at which it began (R444). -/
structure Wait where
  why : Why
  since : Nat
deriving DecidableEq, Repr

/-- One fibre: the state of R9 and what later chapters add to it. A helper or an ended fibre keeps its record until its workgroup retires (R227). -/
structure Fibre where
  wg : Nat
  grp : Nat
  lane : Nat
  run : Run := .live
  pc : VA := 0
  pword : BitVec 16 := 0x8000
  wb : BitVec 10 := 0
  rep : Word := 0
  pl : Level := .u
  rstk : VA := 0
  alloc : BitVec 10 := 0
  /-- D of R23. -/
  outer : Nat := 0
  /-- The physical registers of the allocation (R12, R17). -/
  regs : List Word := []
  trap : TrapRegs := {}
  gen : Gen := {}
  signed : BitVec 16 := 0
  /-- SPAWNS of R227. -/
  spawns : DWord := 0
  /-- What SRD CLOCKLO and SRD PHSTAMPLO last captured (R21, R284). -/
  clockCap : DWord := 0
  phaseCap : DWord := 0
  /-- The place (R194, R434): device core number, partition, home column, column slot. -/
  core : Nat := 0
  part : Nat := 0
  home : BitVec 6 := 0
  colSlot : BitVec 4 := 0
  seat : Seat := .entry 0
  wait : Option Wait := none
  gbar : Option GbarWait := none
  /-- The clock before which the fibre does not issue (R120, R227). -/
  notBefore : Nat := 0
  /-- The stamps at which the fibre has read bytes by its atomics and polls, newer than its core's σ (R165, R289). -/
  seen : List (Nat × BitVec 64) := []
  /-- Every effect is suppressed until the fibre reaches TASK TEND (R411, R440). -/
  muted : Bool := false
  /-- The trap save record of a fibre at level H, while its unit is saved (R453). -/
  kept : List Byte := []
deriving DecidableEq, Repr

/-- The fault record of a group's engine commands (R326, R364): for a copy command its token and slot, and the lanes whose fibres have still to take it; `ring` says that it is an overrun (R352). -/
structure EngFault where
  code : Code
  addr : BitVec 64
  copy : Bool
  ring : Bool := false
  token : BitVec 3
  slot : BitVec 10
  left : List Nat := []
deriving DecidableEq, Repr

/-- Flags on their way to FPSTAT (R147): the clock in which they are raised, the lanes of the fibres that issued them, the registers of their results (lane and register of the allocation), and whether the result is a predicate. -/
structure FlagDue where
  due : Nat
  lanes : List Nat
  regs : List (Nat × Nat)
  pred : Bool
  flags : BitVec 5
deriving DecidableEq, Repr

/-- One group (R12, R35, R373, R382, R440). -/
structure Group where
  wg : Nat
  grp : Nat
  kregs : List DWord := List.replicate 32 0
  fpstat : BitVec 5 := 0
  /-- Flags of instructions whose results may not be read yet (R147). -/
  flying : List FlagDue := []
  /-- The current task: its entry in the core's dependency table. -/
  task : Option Nat := none
  /-- The version that the group carries in place of its grid's, between TRUN and TEND (R382, R404). -/
  carried : Option VID := none
  fault : Option EngFault := none
deriving DecidableEq, Repr

/-- The states of a granule's tag (R248). -/
inductive Tag where
  | empty | full | predicted | poisoned
deriving DecidableEq, Repr

/-- The tag of one granule, and for a predicted one its owner, its kind and a deferred consume (R405). -/
structure TagRec where
  tag : Tag := .empty
  owner : VID := 0
  out : Bool := false
  consume : Bool := false
deriving DecidableEq, Repr

/-- What holds a granule reserved: a step of a matrix command (R335), a WE wait that holds (R363), a running task (R369). -/
inductive Holder where
  | matrix (seq : Nat) | copy (n : Nat) | task (index : Nat)
deriving DecidableEq, Repr

/-- Which matrix word signed last in a clasp's generation, and for which group (R214): the fields of the word and its pc. -/
structure MSign where
  grp : Nat
  /-- MMC, or MMA with these rows and columns. -/
  shape : Option (Nat × Nat)
  slot : BitVec 3
  mode : BitVec 2
  kd : BitVec 5
  pc : VA
deriving DecidableEq, Repr

/-- A clasp (R211), and what its generation's release will issue (R214) with the fibres that signed the generation (R342). -/
structure Clasp where
  gen : Bool := false
  live : Bool := true
  n : Nat := 0
  s : Nat := 0
  matrix : Option MSign := none
  signers : List FibreKey := []
deriving DecidableEq, Repr

/-- An exposed copy command: its index in the ring and the group whose write exposed it (R352). -/
structure Exposed where
  idx : BitVec 32
  grp : Nat
  token : BitVec 3
  /-- The version that the writer's group carried (R365, R382). -/
  vid : VID
  /-- The order of exposure, over the whole device, and its clock (R358). -/
  order : Nat
  at_ : Nat := 0
deriving DecidableEq, Repr

/-- A declared predictable range (R401 to R409). -/
structure PRange where
  first : Nat
  cnt : Nat
  ty : BitVec 2
  linear : Bool
  warm : Nat
  backoffInit : Nat
  abs : Word
  rel : Word
  hslot : Nat
  backoff : Nat := 0
  /-- Granules that have received their set-FULL event since the range was last empty or predicted. -/
  arrived : List Nat := []
  /-- Its present arrival has been taken (R402). -/
  done : Bool := false
  /-- The version that a prediction of this range runs in. -/
  owner : Option VID := none
  /-- A predicted range has arrived and the loupe has not yet compared it (R406). -/
  pending : Bool := false
deriving DecidableEq, Repr

/-- A launch record's fields (R191, R192, R220, R350). -/
structure Launch where
  entry : BitVec 64 := 0
  dict : BitVec 64 := 0
  args : BitVec 64 := 0
  dimX : BitVec 16 := 1
  dimY : BitVec 16 := 1
  dimZ : BitVec 16 := 1
  shape : BitVec 16 := 2
  regs : BitVec 16 := 128
  gran : BitVec 16 := 0
  stack : BitVec 32 := 0
  vid : BitVec 16 := 0
  pvid : BitVec 16 := 0
  accKib : BitVec 32 := 0
  slots : List Word := List.replicate 8 0x21
  sync : List Byte := List.replicate 8 1
  traph : BitVec 64 := 0
  tensors : BitVec 64 := 0
  wdist : BitVec 64 := 0
  ring : BitVec 32 := 0
  notify : BitVec 32 := 0
  doneW : BitVec 64 := 0
deriving DecidableEq, Repr

/-- One grid: its launch, what is placed of it, and what its packet is owed. -/
structure Grid where
  id : Nat
  launch : Launch
  /-- k1 of R16. -/
  k1 : DWord := 0
  queue : BitVec 8 := 0
  /-- The packet that dispatched it. -/
  packet : Nat := 0
  /-- Workgroups placed, and retired, of those of R189. -/
  placed : Nat := 0
  retired : Nat := 0
  /-- The sequence of its queue's table that it belongs to (R469). -/
  seq : Option Nat := none
  /-- The work distributor's count s (R221). -/
  dist : Nat := 0
  done : Bool := false
  /-- Its version has committed or been squashed (R500). -/
  settled : Bool := false
  /-- Its version has been squashed (R398). -/
  dead : Bool := false
deriving DecidableEq, Repr

/-- What the batch table keeps of an entry besides its fibres (R198, R207, R208). -/
structure Entry where
  part : Nat
  index : Nat
  order : Nat
  last : Nat
  demoted : Bool := false
  owes : List Nat := []
deriving DecidableEq, Repr

/-- A line of a tile store that is not invalid (R252). A linear line is dirty (KIND 10) while it lists unpublished bytes, and clean (KIND 01) when it lists none: what else it covers reads as R279 says (log 3). It stands in the record of the core that brought it in; in fused mode the tile store that holds it is another's (R257). -/
structure Line where
  vid : VID
  tensor : Bool
  /-- OWNER: in fused mode, the rank of the core whose stores it holds. -/
  owner : Nat := 0
  tid : Nat := 0
  trow : Nat := 0
  tcol : Nat := 0
  /-- The core whose tile store, or slice, holds the line. -/
  slice : Nat := 0
  /-- The clock at which it was last used. -/
  used : Nat := 0
  /-- Of a linear line, its PA div 1,024; of a tensor line, the lines that its rows were filled from. -/
  lines : List Nat := []
  /-- Of a tensor line, the stamp up to which publications were complete when it was filled. -/
  filled : BitVec 64 := 0
  /-- Of a linear line, the bytes written and not yet published, by PA; of a tensor line, its 1,024 bytes by offset with zeros left out. -/
  cells : Cells := []
deriving DecidableEq, Repr

/-- A resident copy of a dictionary table (R51): its nonzero bytes, once it is filled. -/
structure Dict where
  addr : BitVec 64
  filled : Bool
  bytes : Cells
deriving DecidableEq, Repr

/-- A cached translation (R449): the page's first address, its size's log2 and the leaf, with the PA of the entry. -/
structure Trans where
  base : VA
  log2 : Nat
  leaf : BitVec 64
  leafPa : Nat
deriving DecidableEq, Repr

/-- The last-page register of a lane column (R449). -/
structure LastPage where
  part : Nat
  col : BitVec 6
  page : Trans
deriving DecidableEq, Repr

/-- An operand of a matrix command (R322, R329). -/
inductive Operand where
  | pad (rank : Option Nat) (offset : Nat)
  | tensor (tid row col : Nat)
deriving DecidableEq, Repr

/-- A matrix command's work (R321, R329): operands, rows of A and columns of B, k-steps and total K, strides, scale offsets and consume flags. A sub-command of MMC holds rows `row0` on of `rowsAll` (R330). -/
structure Mul where
  a : Operand
  b : Operand
  rowsA : Nat
  rowsB : Nat
  ks : Nat
  total : Nat
  strA : Nat
  strB : Nat
  sa : Nat
  sb : Nat
  ca : Bool
  cb : Bool
  row0 : Nat
  rowsAll : Nat
deriving DecidableEq, Repr

/-- What a command on a core's accumulators does: a matrix command (R327), MACC ZERO (R345), LD (R346) or ST (R348). ST holds the generator that it draws from. -/
inductive MKind where
  | mul (q : Mul)
  | zero
  | ld (fib : FibreKey) (dst : List Nat) (off : Nat)
  | st (gen : Gen) (accn rows cols : Nat) (scale : Word) (rank : Option Nat) (dst pitch : Nat)
deriving DecidableEq, Repr

/-- The phase of a running step (R327, R335). -/
inductive MPhase where
  | queued | fetching | computing
deriving DecidableEq, Repr

/-- A command of a core's matrix queues, or a MACC, in issue order (R331 to R343). -/
structure MCmd where
  seq : Nat
  /-- Sub-commands of one MMC share this number (R330, R335, R342). -/
  whole : Nat
  wg : Nat
  /-- The workgroup that built it, whose scratchpad "own" and "cluster" name. -/
  src : Nat
  grp : Nat
  vid : VID
  kind : MKind
  slot : Word
  mode : BitVec 2
  /-- First accumulator byte and length of its range (R318). -/
  lo : Nat
  len : Nat
  prio : Nat
  /-- Clocks spent in the queue before it last ran, and since when it waits there again (R332). -/
  age : Nat
  since : Nat
  pc : VA
  step : Nat := 0
  phase : MPhase := .queued
  engine : Option Nat := none
  signers : List FibreKey
  /-- What a started step reads: bytes of A, B and their scales. -/
  dataA : List Byte := []
  dataB : List Byte := []
  scaleA : List Byte := []
  scaleB : List Byte := []
  stop : Bool := false
deriving DecidableEq, Repr

/-- A copy command that the engine has read (R353 to R366). -/
structure CCmd where
  n : Nat
  wg : Nat
  grp : Nat
  idx : BitVec 32
  bytes : List Byte
  token : BitVec 3
  vid : VID
  order : Nat
  at_ : Nat := 0
  channel : Option Nat := none
  /-- The clock at which it started, and its WE or WF wait began (R250). -/
  began : Nat := 0
  /-- Its WE or WF wait is over (R363). -/
  tagsOk : Bool := false
  /-- Its data has moved, and its global writes are on their way (R361). -/
  moved : Bool := false
  /-- The fault that stops it (R364). -/
  bad : Option (Code × BitVec 64) := none
deriving DecidableEq, Repr

/-- A slot of a cluster's multicast buffer (R362): its command and rows by offset, the workgroups by rank, and the ranks that have not drained. -/
structure McSlot where
  n : Nat
  core : Nat
  wgs : List Nat
  ranks : List Nat
  rows : List (Nat × List Byte)
  we : Bool
  sf : Bool
  wg : Nat
  grp : Nat
  token : BitVec 3
  slot : BitVec 10
  vid : VID
deriving DecidableEq, Repr

/-- The states of a task entry (R369, R410). -/
inductive TState where
  | counting | tiles | running | verify
deriving DecidableEq, Repr

/-- An entry of a core's dependency table (R368, R369). -/
structure Task where
  index : Nat
  wg : Nat
  key : Place
  record : List Byte
  count : Nat
  state : TState
  order : Nat
  /-- The version of a predicted run (R410). -/
  pred : Option VID := none
deriving DecidableEq, Repr

/-- One workgroup, resident or saved. -/
structure Workgroup where
  id : Nat
  grid : Nat
  x : BitVec 16 := 0
  y : BitVec 16 := 0
  z : BitVec 16 := 0
  k2 : BitVec 64 := 0
  crank : Nat := 0
  core : Nat := 0
  resident : Bool := true
  /-- When and in which order it was placed (R218, R358, R503). -/
  placed : Nat := 0
  order : Nat := 0
  /-- Scratchpad bytes that are not zero (R247). -/
  scratch : Cells := []
  /-- Granules whose tag is not EMPTY (R248). -/
  tags : List (Nat × TagRec) := []
  reserved : List (Nat × Holder) := []
  clasps : List Clasp := List.replicate 16 {}
  tokens : List Nat := List.replicate 8 0
  pOld : BitVec 32 := 0
  ringC : BitVec 32 := 0
  exposed : List Exposed := []
  /-- Accumulator bytes that are not zero (R317). -/
  acc : Cells := []
  ranges : List PRange := []
  /-- Bytes diverted to ARRIVAL (R405): (granule, bytes by offset). -/
  diverted : List (Nat × Cells) := []
  stackBlocks : List Nat := []
  /-- Save blocks held (R454). -/
  saved : Nat := 0
  /-- Its pre-emption has begun (R452); and what is saved of its core's tables (R453). -/
  stopping : Bool := false
  keptTasks : List Task := []
  keptCmds : List MCmd := []
  keptCopies : List CCmd := []
deriving DecidableEq, Repr

/-- One core. The operand latches of R63 change no value and are left out (log 3). -/
structure Core where
  sigma : BitVec 64 := 0
  caught : BitVec 8 := 0
  /-- The stamps at which the core has published bytes, newer than σ (R165, R289). -/
  own : List (Nat × BitVec 64) := []
  /-- The world bit in effect (R524): CWORLD's, once no workgroup is resident. -/
  world : Bool := false
  entries : List Entry := []
  lines : List Line := []
  dicts : List Dict := []
  tlb : List Trans := []
  lastPages : List LastPage := []
  mcmds : List MCmd := []
  ccmds : List CCmd := []
  tasks : List Task := []
deriving DecidableEq, Repr

/-- The kinds of an L2 frame that is not free (R258). -/
inductive FKind where
  | committed | priv | spec
deriving DecidableEq, Repr

/-- An L2 frame (R258): its line (PA div 1,024), metadata and the bytes it holds by PA; `overflow` says that its data stands in an overflow area (R263). -/
structure Frame where
  line : Nat
  kind : FKind
  stamp : BitVec 64 := 0
  core : Nat := 0
  vid : VID := 0
  cells : Cells
  /-- Sectors that hold data not yet in DRAM or in an overflow area. -/
  dirty : BitVec 32 := 0
  overflow : Bool := false
  /-- The clock at which it was last used (R262). -/
  used : Nat := 0
deriving DecidableEq, Repr

/-- A store on its way to the tile store, a private frame or a peer (R168, R300). -/
structure PStore where
  n : Nat
  fib : FibreKey
  core : Nat
  vid : VID
  va : VA
  pa : Nat
  data : List Byte
  /-- HINT of the store (R154, R272). -/
  hint : Nat
  /-- The clock at which it issued (R275). -/
  since : Nat
deriving DecidableEq, Repr

/-- Where a load's data goes: lane registers of the fibre's allocation, a k register, or the part itself, as a record that an instruction reads (R237, R240, R372, R401). -/
inductive Dest where
  | lanes (regs : List Nat)
  | k (r : Nat)
  | record
deriving DecidableEq, Repr

/-- A load in flight (R166). -/
structure PLoad where
  n : Nat
  fib : FibreKey
  core : Nat
  vid : VID
  va : VA
  pa : Nat
  size : Nat
  dst : Dest
  /-- HINT of the load (R154, R272). -/
  hint : Nat
  since : Nat
deriving DecidableEq, Repr

/-- The atomic operations of R161 and R164, and the decrement of a count, which leaves 0 alone (R370). -/
inductive AtomicOp where
  | add | and | or | xor | min | max | xch | cas | fadd | ld | st | dec
deriving DecidableEq, Repr

/-- An atomic on its way to its home L2 (R287). -/
structure PAtomic where
  n : Nat
  fib : FibreKey
  core : Nat
  vid : VID
  va : VA
  pa : Nat
  op : AtomicOp
  wide : Bool
  b : DWord
  expect : DWord
  sc : Byte
  dst : List Nat
  since : Nat
deriving DecidableEq, Repr

/-- A publication that has its stamp and is not yet complete (R277). -/
structure Pub where
  stamp : BitVec 64
  cells : Cells
  /-- The version whose engine command wrote it, and the command's number. -/
  vid : VID
  owner : Nat
deriving DecidableEq, Repr

/-- An atomic on its way to the notify word of its fibre's workgroup, a qualifying write (R352): the word, the copy ring and the tokens change when it lands. -/
structure Post where
  n : Nat
  fib : FibreKey
  op : AtomicOp
  b : DWord
  expect : DWord
  sc : Byte
  dst : List Nat
deriving DecidableEq, Repr

/-- A request to a work distributor, then its answer (R221, R222). -/
structure WdReq where
  n : Nat
  wg : Nat
  grid : Nat
  off : Nat
  fibs : List FibreKey
  /-- The clock at which it was made: requests of one issue reach the distributor in the order of R224 (R236). -/
  asked : Nat := 0
  /-- The answer, once it is formed, and the clock at which it came to the scratchpad (R250). -/
  answer : Option Word := none
  since : Nat := 0
deriving DecidableEq, Repr

/-- A TOPK under way (R239). -/
structure TopkOp where
  n : Nat
  wg : Nat
  src : Nat
  dst : Nat
  k : Nat
  cnt : Nat
  ty : BitVec 2
  sf : Bool
  /-- The version that its group carried (R382, R405). -/
  vid : VID
  fibs : List FibreKey
deriving DecidableEq, Repr

/-- A LAUNCH of a group whose image crosses to a device FIFO, and the fibres that wait for it (R241). -/
structure Append where
  n : Nat
  wg : Nat
  grp : Nat
  fibs : List FibreKey
  queue : BitVec 8
  image : List Byte
  k1 : DWord
deriving DecidableEq, Repr

/-- What one peer access asks (R511). -/
inductive PeerOp where
  | load (n : Nat)
  | store (data : List Byte)
  | atomic (op : AtomicOp) (wide : Bool) (b e : DWord)
deriving DecidableEq, Repr

/-- An arriving peer request: the address and version that the peer's window named, and the access (R510, R511). -/
structure PeerIn where
  va : VA
  rvid : VID
  op : PeerOp
deriving DecidableEq, Repr

/-- A peer's answer to a request of this device (R511). -/
inductive PeerAns where
  | data (bytes : List Byte)
  | ack
  | poison
  | error
deriving DecidableEq, Repr

/-- A request of this device at a peer, not yet answered (R511). An engine's has a key with a lane from 64 on. -/
structure PeerReq where
  n : Nat
  fib : FibreKey
  window : Nat
  /-- The address here and at the peer, and what is asked. -/
  pa : Nat
  rva : VA
  op : PeerOp
  va : VA
  dst : Dest
  /-- A reply is waited for; else it is a posted store. -/
  waits : Bool
  /-- The instruction that made it, and REPSTATE there: where a fault of the reply is taken. -/
  pc : VA
  rep : Word
  /-- The fibres that made it together (R111); none for its own alone. -/
  with_ : List FibreKey := []
  /-- The observers of an acquire that the reply completes (R291). -/
  acq : BitVec 5 := 0
  queue : BitVec 8
  packet : Nat
  /-- The record that has come back, until its instruction takes it. -/
  got : Option (List Byte) := none
  /-- The fault that came back to an engine. -/
  bad : Option Code := none
deriving DecidableEq, Repr

/-- The device's memory and what is on its way to it. -/
structure Mem where
  /-- DRAM, the CXL tier and host memory by PA; an unlisted byte reads 0 (log 4). -/
  dram : Cells := []
  /-- The counter of R277 and the largest stamp whose publication is complete. -/
  stamp : BitVec 64 := 0
  complete : BitVec 64 := 0
  frames : List Frame := []
  /-- The lines (PA div 1,024) that have been published, each with its newest stamp (R256, R291). -/
  lastPub : List (Nat × BitVec 64) := []
  /-- Poisoned lines (R473), and those under a host refetch. -/
  poison : List Nat := []
  refetch : List Nat := []
  pubs : List Pub := []
  loads : List PLoad := []
  stores : List PStore := []
  atomics : List PAtomic := []
  posts : List Post := []
  wdq : List WdReq := []
  topk : List TopkOp := []
  appends : List Append := []
  peers : List PeerReq := []
  /-- Peer requests that came in, with what was answered, newest first. -/
  answered : List (PeerIn × PeerAns) := []
  slots : List McSlot := []
  /-- TLBI sweeps that are taken and wait for the accesses of before (R451): the fibre, and the identity from which on accesses are later ones. -/
  sweeps : List (FibreKey × Nat) := []
deriving DecidableEq, Repr

/-- The states of a version that is not FREE (R379). -/
inductive VState where
  | live | committed | squashed
deriving DecidableEq, Repr

/-- A non-root version that is not FREE (R376, R379): parent slot, copy frames by page, commit stamp. Its depth, its count of grids and its STALL bit are told by the rest of the state. -/
structure Version where
  vid : VID
  state : VState
  parent : BitVec 6
  pred : Bool := false
  /-- Copy frames (R388): the PA of the page's leaf, and the frame's PA. -/
  copies : List (Nat × Nat) := []
  stamp : BitVec 64 := 0
deriving DecidableEq, Repr

/-- An entry of an effect buffer (R391); with no data bytes it is the increment of a DONE word. -/
structure Effect where
  vid : VID
  pa : Nat
  data : List Byte
  obs : BitVec 5
  fib : FibreKey
  va : VA
  /-- Its version has committed, and it issues in its turn. -/
  go : Bool := false
deriving DecidableEq, Repr

/-- What the part keeps of a speculation domain (R378, R379, R391). -/
structure Domain where
  accept : Nat := 256
  floor : BitVec 64 := 0
  effects : List Effect := []
deriving DecidableEq, Repr

/-- The first event that was not OK among a packet's grids (R501). -/
structure Report where
  status : Byte
  code : Byte
  pc : VA := 0
  addr : BitVec 64 := 0
deriving DecidableEq, Repr

/-- What a queue's packet is doing (R491). -/
inductive PStage where
  | entryWait | program | qwait (v : DWord) (q : BitVec 8) | dispatch
deriving DecidableEq, Repr

/-- The packet in hand of a queue: its staging record and its program's registers (R491, R492). -/
structure Packet where
  /-- The packet's identity in the model. -/
  id : Nat
  seq : Nat
  k1 : DWord
  record : List Byte
  orig : List Byte
  stage : PStage
  regs : List DWord := List.replicate 16 0
  pc : Nat := 0
  /-- The loop stack: first word, words, turns left after this one. -/
  loops : List (Nat × Nat × Nat) := []
  used : Nat := 0
  repeats : Nat := 0
deriving DecidableEq, Repr

/-- A packet whose program has ended and which has not completed (R500). -/
structure Flight where
  id : Nat
  seq : Nat
  record : List Byte
  report : Option Report := none
  /-- Its program or packet is over, and no further grid will come of it. -/
  ended : Bool := false
  /-- Its status record is written, and its delivery entry waits for a place in the ring (R500, R502). -/
  owes : Bool := false
deriving DecidableEq, Repr

/-- A head that a queue offers to the dispatcher (R197, R215): a grid's next workgroups, or saved ones to restore (R503). -/
structure Head where
  grid : Nat
  restore : List Nat := []
deriving DecidableEq, Repr

/-- An entry of a delivery ring that is due (R502). -/
structure Delivery where
  kind : Byte
  status : Byte := 0
  flags : Byte := 0
  count : BitVec 32 := 0
  seq : Nat := 0
  page : BitVec 64 := 0
  bytes : List Byte := []
deriving DecidableEq, Repr

/-- A packet image in a slot of a device FIFO, or a host index, in order of arrival (R490). -/
inductive Arrival where
  | fifo (slot : Nat) (k1 : DWord)
  | ring (idx : BitVec 32)
deriving DecidableEq, Repr

/-- The run state of a hardware queue (R485 to R502). An absent record is a queue that was never enabled, with every value 0. -/
structure Queue where
  q : BitVec 8
  timeline : DWord := 0
  head : BitVec 32 := 0
  tail : BitVec 32 := 0
  dwidx : BitVec 32 := 0
  dridx : BitVec 32 := 0
  arm : Option DWord := none
  arrivals : List Arrival := []
  /-- The FIFO slot at which the next image goes in (R487, R490; log 20). -/
  fifoAt : Nat := 0
  seq : Nat := 0
  program : List Word := []
  packet : Option Packet := none
  flights : List Flight := []
  heads : List Head := []
  /-- D of R215. -/
  deficit : Int := 0
  layer : BitVec 16 := 0
  due : List Delivery := []
  /-- Since when its head has not fitted (R503). -/
  unfit : Option Nat := none
  /-- Pages whose POISON it has been told (R474). -/
  told : List VA := []
deriving DecidableEq, Repr

/-- A head that has won a die's dispatcher and whose placement waits (R51, R530): its queue and grid, and the stack frames popped for it so far. -/
structure Placing where
  die : Nat
  q : BitVec 8
  grid : Nat
  frames : List Nat
deriving DecidableEq, Repr

/-- The dispatchers and the front ends of both dies. -/
structure Front where
  queues : List Queue := []
  /-- The rotating pointers, by die and level (R215). -/
  pointers : List (Nat × Nat × BitVec 8) := []
  placing : List Placing := []
  /-- MSI-X vectors fired, newest first (R486, R521). -/
  msix : List Nat := []
  /-- The MSI-X table of 257 vectors (R485), its bytes that are not zero; the vectors that fired while masked, as the pending-bit array shows them; and the vectors whose messages have been sent, newest first. -/
  msixTable : Cells := (List.range 257).map fun v => (16 * v + 12, 1#8)
  msixPending : List Nat := []
  msixSent : List Nat := []
  /-- What the host's reads answered, newest first (R485). -/
  reads : List (List Byte) := []
  /-- Stack blocks taken (R530) and save blocks held (R454). -/
  stackTaken : List Nat := []
  saveHeld : Nat := 0
deriving DecidableEq, Repr

/-- A frame under a window for compression (R463): its table index and its leaf's address. -/
structure Window where
  frame : Nat
  leafPa : Nat
deriving DecidableEq, Repr

/-- A migration that runs (R466, R522): the leaf's address, the page's first byte, and the destination with its TIER and GRAN. -/
structure Move where
  leafPa : Nat
  src : Nat
  dest : Nat
  tier : Nat
  gran : Nat
deriving DecidableEq, Repr

/-- A record of the compression zone (R464): its layout belongs to the part, so it is kept as what it expands to. -/
structure ZoneRec where
  index : Nat
  gran : BitVec 3
  kib : Nat
  cells : Cells
  /-- The newest stamps of its lines, by line of the page (R261, R464). -/
  stamps : List (Nat × BitVec 64) := []
deriving DecidableEq, Repr

/-- An expansion that runs (R465): the compressed leaf and its address, the frame popped for it, and its record. -/
structure Expansion where
  leafPa : Nat
  pz : BitVec 64
  frame : Nat
  record : Nat
deriving DecidableEq, Repr

/-- The channels of a stack that are retired, and whether its rebuild runs (R471, R472). -/
structure Rebuild where
  stack : BitVec 3
  chans : List (BitVec 5) := []
  running : Bool := false
deriving DecidableEq, Repr

/-- What a die's pressure block keeps besides its registers (R459 to R472). -/
structure Press where
  free : List Nat := []
  cxl : List Nat := []
  /-- Cold frames, oldest first, each with its leaf as the sweeper left it (R462, R463). -/
  ready : List (Nat × BitVec 64) := []
  sweepAt : Nat := 0
  /-- READY reached HIGHWM and has not yet fallen below LOWWM (R462). -/
  paused : Bool := false
  window : Option Window := none
  move : Option Move := none
  zone : List ZoneRec := []
  expanding : List Expansion := []
  rebuilds : List Rebuild := []
deriving DecidableEq, Repr

/-- A command of the collective engine (R515 to R518): its fields, the accumulated elements and what has arrived. -/
structure CollCmd where
  n : Nat
  op : Nat
  ty : Nat
  topo : BitVec 4
  count : Nat
  dst : BitVec 64
  doneW : BitVec 64
  tag : BitVec 32
  /-- The workgroup whose write exposed it, and that write's order (R294). -/
  wg : Nat
  order : Nat := 0
  acc : List DWord := []
  /-- Children whose partial result is in. -/
  children : List Nat := []
  /-- Its partial result has gone to the parent. -/
  sentUp : Bool := false
  /-- It is over, and completes with this status. -/
  status : Option (BitVec 32) := none
deriving DecidableEq, Repr

/-- What another station of a collective tree sends (R517, R518): a child's partial result, what the root sends down, or a mismatch. The first two name the operation, type and count of their command. -/
inductive CollMsg where
  | part (child op ty count : Nat) (elems : List DWord)
  | down (op ty count : Nat) (elems : List DWord)
  | mismatch
deriving DecidableEq, Repr

/-- A collective message: the tree's slot, the matching tag and the payload (R517). -/
structure CollIn where
  topo : BitVec 4
  tag : BitVec 32
  msg : CollMsg
deriving DecidableEq, Repr

/-- The collective engine (R514 to R518). -/
structure Coll where
  pOld : BitVec 32 := 0
  c : BitVec 32 := 0
  /-- Values of qualifying writes that have not reached it, in stamp order (R516), with the workgroups that made them and the order in which they were made. -/
  posts : List (BitVec 32 × Nat × Nat) := []
  /-- The same of the writes that exposed the commands that have not been read. -/
  exposed : List (Nat × Nat) := []
  cmds : List CollCmd := []
  /-- The slots that hold a table. -/
  valid : BitVec 16 := 0
  /-- Messages that came before their command, and messages sent: station and message, newest first. -/
  early : List CollIn := []
  sent : List (BitVec 10 × CollIn) := []
deriving DecidableEq, Repr

/-- Power and thermal state (R528, R529). -/
structure Power where
  step : BitVec 4 := 0
  junction : BitVec 8 := 0
  low : Bool := false
deriving DecidableEq, Repr

/-- Why the device has stopped (R506, R523, R528). -/
inductive Stop where
  | link | supervisor | heat
deriving DecidableEq, Repr

/-- The form of the word that an entry is executing (R37). -/
inductive Form where
  | full | high | low
deriving DecidableEq, Repr

/-- The issue in progress: a batch entry, the parcel's form, the word it expands to, and whether it is an iteration of a repeat. -/
structure Issue where
  core : Nat
  part : Nat
  entry : Nat
  form : Form := .full
  expanded : Option Word := none
  repeating : Bool := false
deriving DecidableEq, Repr

/-- What a base die's answer makes of a line (R262, R265, R268): a fill of the granule that holds a sector, or the freeing of the way that the victim order of R262 chooses. -/
inductive DramAct where
  | fill (sector : Nat)
  | victim
deriving DecidableEq, Repr

/-- What an event is about. -/
inductive Arg where
  | none
  | num (n : Nat)
  | two (a b : Nat)
  | fibre (f : FibreKey)
  | walk (f : FibreKey) (va : VA) (write : Bool)
  | queue (q : BitVec 8)
  | queueVal (q : BitVec 8) (v : BitVec 64)
  | bytesAt (off : Nat) (data : List Byte)
  | control (off size : Nat) (v : BitVec 64)
  | die (d : Nat)
  | dieVal (d : Nat) (v : BitVec 64)
  | channel (d : Nat) (stack : BitVec 3) (chan : BitVec 5)
  | refetched (pa : Nat) (ok : Bool)
  | dram (line : Nat) (act : DramAct)
  | request (r : PeerIn)
  | reply (n : Nat) (a : PeerAns)
  | collective (m : CollIn)
  | nonce (bytes : List Byte)
  | power (temp watts avg : Nat)
  | domain (d : BitVec 4)
  | domainVal (d : BitVec 4) (v : BitVec 32)
  | vid (v : VID)
deriving DecidableEq, Repr

/-- One turn of the machine: a batch entry issues; a queue's program runs a word; an event takes place. -/
inductive Turn where
  | issue (core part entry : Nat) (late : Bool)
  | queue (q : BitVec 8)
  | event (i : Instr) (arg : Arg)
deriving DecidableEq, Repr

/-- The whole state. -/
structure State where
  fibres : List Fibre
  groups : List Group
  wgs : List Workgroup
  grids : List Grid
  cores : List Core
  mem : Mem
  versions : List Version
  domains : List Domain
  front : Front
  press : List Press
  coll : Coll
  power : Power
  /-- The control space's bytes that are not zero, by offset from 0x1_0000_0000_0000 (R520). -/
  ctl : Cells
  /-- BAR2WIN (R485). -/
  bar2win : BitVec 16
  /-- MEAS0 to MEAS7 (R526), and the quotes answered, newest first. -/
  meas : List (BitVec 384)
  quotes : List (List Byte)
  stopped : Option Stop
  /-- The clock count (R21): one count for the device (log 1). -/
  clock : Nat
  /-- The model's own: which agents move next; the issue in progress; the queue whose program runs a word; what the present event is about; whether accesses are left in flight; counters of identities, orders and free values (logs 2 and 6). -/
  agenda : List Turn
  cur : Option Issue
  curQ : Option (BitVec 8)
  arg : Arg
  late : Bool
  ids : Nat
  order : Nat
  fresh : Nat
deriving DecidableEq, Repr

/-- A step stops with a fault only once the device has stopped (R506, R523, R528): `step` raises it, and that is safe, since the manual lets no further access complete. -/
inductive Fault where
  /-- Raised by `step` alone, when `State.stopped` is set. Safe. -/
  | deviceStopped (why : Stop)
deriving DecidableEq, Repr

/-- Why the model gives no meaning. -/
inductive Refusal where
  /-- Raised by an arm of `exec` that has no meaning yet. Safe. -/
  | notModelled (mnemonic : String)
deriving DecidableEq, Repr

/-- The reset bytes of the control space that are not zero (R459, R521, R528), by offset. -/
def resetCtl : Cells :=
  [(0x000000, 0x01#8), (0x000006, 0x29#8), (0x000007, 0xCA#8),   -- ID
   (0x000010, 12#8), (0x000011, 34#8),                            -- AGESHIFT, WDSHIFT
   (0x030000, 0x40#8), (0x030001, 0x03#8), (0x030002, 32#8),      -- SWEEPSHIFT, COLDAGE, CMAXKIB of die 0
   (0x030064, 0x5A#8),                                            -- TOP of die 0: 0x5A_0000_0000
   (0x031000, 0x40#8), (0x031001, 0x03#8), (0x031002, 32#8),
   (0x031064, 0xDA#8),                                            -- TOP of die 1: 0xDA_0000_0000
   (0x060000, 0xF0#8), (0x060001, 0x0A#8),                        -- PLIMIT 2,800
   (0x060009, 8#8)]                                               -- CAP 8

/-- The machine right after reset: every value that the manual states, and the values that logs 4 and 5 name where it states none. No fibre exists; the agenda is empty. -/
def State.reset : State where
  fibres := []
  groups := []
  wgs := []
  grids := []
  cores := List.replicate 48 {}
  mem := {}
  versions := []
  domains := List.replicate 16 {}
  front := {}
  press := [{}, {}]
  coll := {}
  power := {}
  ctl := resetCtl
  bar2win := 0
  meas := List.replicate 8 0
  quotes := []
  stopped := none
  clock := 0
  agenda := []
  cur := none
  curQ := none
  arg := .none
  late := false
  ids := 1
  order := 0
  fresh := 0

end Sys2Proof.Machine
end

