-- ==== Sys2Proof/Machine/Memory.lean ====
section
/-! DEFINITION. Byte lists in canonical form, and little-endian values (00 R5). `get`, `put` and `del` work on a list that says which bytes are present; `read` and `write` on one whose unlisted bytes read 0. -/

namespace Sys2Proof.Machine.Memory

/-- The byte at an address, if it is listed. -/
def get : Cells → Nat → Option Byte
  | [], _ => none
  | (k, b) :: r, a => if a = k then some b else if a < k then none else get r a

/-- Lists a byte at an address, in place of what was listed there. -/
def put : Cells → Nat → Byte → Cells
  | [], a, b => [(a, b)]
  | (k, c) :: r, a, b =>
    if a = k then (a, b) :: r else if a < k then (a, b) :: (k, c) :: r else (k, c) :: put r a b

/-- Takes an address out of the list. -/
def del : Cells → Nat → Cells
  | [], _ => []
  | (k, c) :: r, a => if a = k then r else if a < k then (k, c) :: r else (k, c) :: del r a

/-- The byte at an address of a memory whose unlisted bytes read 0 (log 4). -/
def read (m : Cells) (a : Nat) : Byte := (get m a).getD 0

/-- Writes a byte; writing 0 removes the entry, so that equal memories are equal lists. -/
def write (m : Cells) (a : Nat) (b : Byte) : Cells := if b = 0 then del m a else put m a b

/-- The `n` bytes from an address. -/
def readN (m : Cells) (a n : Nat) : List Byte := (List.range n).map fun i => read m (a + i)

/-- Writes bytes from an address on. -/
def writeN : Cells → Nat → List Byte → Cells
  | m, _, [] => m
  | m, a, b :: r => writeN (write m a b) (a + 1) r

/-- Lists bytes from an address on. -/
def putN : Cells → Nat → List Byte → Cells
  | m, _, [] => m
  | m, a, b :: r => putN (put m a b) (a + 1) r

/-- Lists every byte of another list over this one. -/
def overlay (m : Cells) (top : Cells) : Cells := top.foldl (fun c x => put c x.1 x.2) m

/-- Writes every listed byte into a memory whose unlisted bytes read 0. -/
def writeAll (m : Cells) (top : Cells) : Cells := top.foldl (fun c x => write c x.1 x.2) m

/-- Takes a run of addresses out of the list. -/
def clear (m : Cells) (lo n : Nat) : Cells := m.filter fun x => !(decide (lo ≤ x.1) && decide (x.1 < lo + n))

/-- The listed bytes in a run of addresses. -/
def within (m : Cells) (lo n : Nat) : Cells := m.filter fun x => decide (lo ≤ x.1) && decide (x.1 < lo + n)

/-- Every address is above `lo`, and the addresses rise strictly. -/
def risingFrom : Nat → Cells → Bool
  | _, [] => true
  | lo, (k, _) :: r => decide (lo ≤ k) && risingFrom (k + 1) r

/-- The canonical form of a list that says which bytes are present. -/
def sorted (m : Cells) : Bool := risingFrom 0 m

/-- The canonical form of a memory: addresses strictly rising, and no entry equal to what an unlisted address reads as. -/
def wf (m : Cells) : Bool := risingFrom 0 m && m.all fun x => decide (x.2 ≠ 0)

end Sys2Proof.Machine.Memory

namespace Sys2Proof.Machine

/-- The number that little-endian bytes hold (R5). -/
def leNat : List Byte → Nat
  | [] => 0
  | b :: r => b.toNat + 256 * leNat r

/-- The `n` little-endian bytes of a number (R5). -/
def leBytes : Nat → Nat → List Byte
  | 0, _ => []
  | n + 1, v => BitVec.ofNat 8 v :: leBytes n (v / 256)

/-- A 32-bit value from little-endian bytes. -/
def leWord (bs : List Byte) : Word := BitVec.ofNat 32 (leNat bs)

/-- A 64-bit value from little-endian bytes. -/
def leDWord (bs : List Byte) : DWord := BitVec.ofNat 64 (leNat bs)

/-- Bytes `lo` to `lo + n - 1` of a record. -/
def slice (bs : List Byte) (lo n : Nat) : List Byte := (bs.drop lo).take n

/-- The number in bytes `lo` to `lo + n - 1` of a record. -/
def field (bs : List Byte) (lo n : Nat) : Nat := leNat (slice bs lo n)

/-- A record with bytes from `lo` on replaced. -/
def splice (bs : List Byte) (lo : Nat) (top : List Byte) : List Byte :=
  bs.take lo ++ top ++ bs.drop (lo + top.length)

/-- Bits [hi:lo] of a number. -/
def bits (v hi lo : Nat) : Nat := v / 2 ^ lo % 2 ^ (hi + 1 - lo)

/-- A number sign-extended from `w` bits. -/
def signed (w v : Nat) : Int := (BitVec.ofNat w v).toInt

end Sys2Proof.Machine
end

