-- ==== Sys2Proof/Machine/Float.lean ====
section
/-! DEFINITION. Floating-point values held exactly, their encodings in every format (03 R69 to R76), one rounding for every format and mode (R83 to R87), and the arithmetic of IEEE 754-2019 that 01 R32 to R34 and 05 R126 to R133 name. Every operation is exact first and rounded once. -/

namespace Sys2Proof.Machine

/-- Rounding modes (R80, R83); stochastic rounding carries its 16-bit word (R84). -/
inductive Mode where
  | rne | rz | rup | rdn | rna | rstoch (w : BitVec 16)
deriving DecidableEq, Repr

/-- Which codes of a format are NaN (R70): the IEEE rule, the two codes of E4M3, or none. -/
inductive NanKind where
  | ieee | e4m3 | none
deriving DecidableEq, Repr

/-- A float element format (R70). -/
structure Fmt where
  ebits : Nat
  mbits : Nat
  bias : Nat
  nan : NanKind
deriving DecidableEq, Repr

def fp64 : Fmt := ⟨11, 52, 1023, .ieee⟩
def fp32 : Fmt := ⟨8, 23, 127, .ieee⟩
def fp16 : Fmt := ⟨5, 10, 15, .ieee⟩
def bf16 : Fmt := ⟨8, 7, 127, .ieee⟩
def e4m3 : Fmt := ⟨4, 3, 7, .e4m3⟩
def e5m2 : Fmt := ⟨5, 2, 15, .ieee⟩
def e3m2 : Fmt := ⟨3, 2, 3, .none⟩
def e2m3 : Fmt := ⟨2, 3, 1, .none⟩
def e2m1 : Fmt := ⟨2, 1, 1, .none⟩

/-- The sign bit's place in a code. -/
def Fmt.signBit (f : Fmt) : Nat := 2 ^ (f.ebits + f.mbits)

/-- The code of +∞ in a format that has infinities. -/
def Fmt.infCode (f : Fmt) : Nat := (2 ^ f.ebits - 1) * 2 ^ f.mbits

/-- The magnitude code of the largest finite value (R70). -/
def Fmt.maxCode (f : Fmt) : Nat :=
  match f.nan with
  | .ieee => f.infCode - 1
  | .e4m3 => 2 ^ (f.ebits + f.mbits) - 2
  | .none => 2 ^ (f.ebits + f.mbits) - 1

/-- The default NaN (R33, R73); +0 in a format without NaN (R86). -/
def Fmt.nanCode (f : Fmt) : Nat :=
  match f.nan with
  | .ieee => f.infCode + 2 ^ (f.mbits - 1)
  | .e4m3 => 2 ^ (f.ebits + f.mbits) - 1
  | .none => 0

/-- The exponent of the smallest normal value. -/
def Fmt.emin (f : Fmt) : Int := 1 - (f.bias : Int)

/-- A value: NaN (signalling or not), an infinity, or ± m × 2^e. -/
inductive FVal where
  | nan (signalling : Bool)
  | inf (neg : Bool)
  | fin (neg : Bool) (m : Nat) (e : Int)
deriving DecidableEq, Repr

/-- FPSTAT's flags (R34). -/
abbrev FFlags := BitVec 5

def flagNV : FFlags := 1
def flagDZ : FFlags := 2
def flagOF : FFlags := 4
def flagUF : FFlags := 8
def flagNX : FFlags := 16

/-- The value of a code (R70 to R73). -/
def Fmt.value (f : Fmt) (code : Nat) : FVal :=
  let neg := decide (f.signBit ≤ code % (2 * f.signBit))
  let mag := code % f.signBit
  let ef := mag / 2 ^ f.mbits
  let frac := mag % 2 ^ f.mbits
  if f.nan = .ieee ∧ ef = 2 ^ f.ebits - 1 then
    if frac = 0 then .inf neg
    else .nan (decide (frac < 2 ^ (f.mbits - 1)) && decide (2 < f.mbits))
  else if f.nan = .e4m3 ∧ mag = 2 ^ (f.ebits + f.mbits) - 1 then .nan false
  else if ef = 0 then .fin neg frac (f.emin - f.mbits)
  else .fin neg (2 ^ f.mbits + frac) (f.emin - f.mbits + (ef - 1 : Nat))

/-- A signed code from a magnitude code. -/
def Fmt.signed (f : Fmt) (neg : Bool) (mag : Nat) : Nat := if neg then f.signBit + mag else mag

/-- Rounds m × 2^e, where `sticky` says that the true value lies strictly above it by less than one unit of m, to a multiple of 2^q (R83, R84): the multiple, whether it is inexact, and whether it moved away from zero. -/
def roundMag (mode : Mode) (neg : Bool) (m : Nat) (e : Int) (sticky : Bool) (q : Int) : Nat × Bool × Bool :=
  if q ≤ e then (m * 2 ^ (e - q).toNat, sticky, false)
  else
    let sh := (q - e).toNat
    let t := m / 2 ^ sh
    let r := m % 2 ^ sh
    let inexact := decide (r ≠ 0) || sticky
    let up :=
      match mode with
      | .rne => decide (2 ^ sh < 2 * r) || (decide (2 ^ sh = 2 * r) && (sticky || decide (t % 2 = 1)))
      | .rz => false
      | .rup => inexact && !neg
      | .rdn => inexact && neg
      | .rna => decide (2 ^ sh ≤ 2 * r)
      | .rstoch w => decide (2 ^ 16 ≤ r * 2 ^ 16 / 2 ^ sh + w.toNat)
    (if up then t + 1 else t, inexact, up)

/-- The code of an overflowed value (R85). -/
def Fmt.overflow (f : Fmt) (mode : Mode) (sat neg moved : Bool) : Nat :=
  let toInf := !sat && (match mode with
    | .rne => true
    | .rna => true
    | .rz => false
    | .rup => !neg
    | .rdn => neg
    | .rstoch _ => moved)
  let mag :=
    if toInf then (match f.nan with
      | .ieee => f.infCode
      | .e4m3 => f.nanCode
      | .none => f.maxCode)
    else f.maxCode
  f.signed neg mag

/-- Rounds a finite value to a float format (R83 to R85): its code and the flags of R87, with tininess detected after rounding (R34). -/
def Fmt.roundFin (f : Fmt) (mode : Mode) (sat neg : Bool) (m : Nat) (e : Int) (sticky : Bool) : Nat × FFlags :=
  if m = 0 then (f.signed neg 0, 0)
  else
    let top : Int := (Nat.log2 m : Int) + e
    let q0 := f.emin - f.mbits
    let q := max (top - f.mbits) q0
    let r := roundMag mode neg m e sticky q
    let mag := (q - q0).toNat * 2 ^ f.mbits + r.1
    if f.maxCode < mag then (f.overflow mode sat neg r.2.2, flagOF ||| flagNX)
    else
      let tiny := decide (top < f.emin) &&
        (decide (top + 1 < f.emin) ||
          decide ((roundMag mode neg m e sticky (top - f.mbits)).1 < 2 ^ (f.mbits + 1)))
      (f.signed neg mag, if r.2.1 then (if tiny then flagNX ||| flagUF else flagNX) else 0)

/-- Converts a value to a float format (R83 to R87): a NaN gives the default NaN or +0, an infinity follows R85. -/
def Fmt.convert (f : Fmt) (mode : Mode) (sat : Bool) (v : FVal) : Nat × FFlags :=
  match v with
  | .nan s => (f.nanCode, if s || decide (f.nan = .none) then flagNV else 0)
  | .inf neg =>
    (f.signed neg (if sat then f.maxCode else match f.nan with
      | .ieee => f.infCode
      | .e4m3 => f.nanCode
      | .none => f.maxCode), 0)
  | .fin neg m e => f.roundFin mode sat neg m e false

/-- What an operation of IEEE 754-2019 gives before its rounding: a value, a true value strictly above it when `sticky`, and the flags raised so far. -/
structure Exact where
  v : FVal
  sticky : Bool := false
  flags : FFlags := 0
deriving DecidableEq, Repr

/-- The rounded result of an operation, nearest and ties to even unless a mode is given (R32, R33). -/
def Fmt.finish (f : Fmt) (x : Exact) : Nat × FFlags :=
  match x.v with
  | .nan _ => (f.nanCode, x.flags)
  | .inf neg => (f.signed neg f.infCode, x.flags)
  | .fin neg m e =>
    let r := f.roundFin .rne false neg m e x.sticky
    (r.1, x.flags ||| r.2)

/-- NV for a signalling NaN among the operands (R34). -/
def nvOf (vs : List FVal) : FFlags := if vs.any (fun v => decide (v = .nan true)) then flagNV else 0

/-- The value with its sign changed. -/
def FVal.neg (v : FVal) : FVal :=
  match v with
  | .nan s => .nan s
  | .inf n => .inf (!n)
  | .fin n m e => .fin (!n) m e

def FVal.isNan (v : FVal) : Bool := match v with | .nan _ => true | .inf _ => false | .fin _ _ _ => false
def FVal.isInf (v : FVal) : Bool := match v with | .nan _ => false | .inf _ => true | .fin _ _ _ => false
def FVal.isZero (v : FVal) : Bool := match v with | .nan _ => false | .inf _ => false | .fin _ m _ => decide (m = 0)
def FVal.isNeg (v : FVal) : Bool := match v with | .nan _ => false | .inf n => n | .fin n _ _ => n

/-- A signed mantissa as a value; an exact zero sum of opposite signs is +0 (R127). -/
def ofSigned (i : Int) (e : Int) (zeroNeg : Bool) : FVal :=
  if i = 0 then .fin zeroNeg 0 e else .fin (decide (i < 0)) i.natAbs e

/-- The exact sum of two values (R127). -/
def exactAdd (a b : FVal) : Exact :=
  let nv := nvOf [a, b]
  match a, b with
  | .nan _, _ => ⟨.nan false, false, nv⟩
  | _, .nan _ => ⟨.nan false, false, nv⟩
  | .inf x, .inf y => if x = y then ⟨.inf x, false, 0⟩ else ⟨.nan false, false, flagNV⟩
  | .inf x, .fin _ _ _ => ⟨.inf x, false, 0⟩
  | .fin _ _ _, .inf y => ⟨.inf y, false, 0⟩
  | .fin na ma ea, .fin nb mb eb =>
    let e := min ea eb
    let ia : Int := ma * 2 ^ (ea - e).toNat
    let ib : Int := mb * 2 ^ (eb - e).toNat
    ⟨ofSigned ((if na then -ia else ia) + (if nb then -ib else ib)) e (na && nb), false, 0⟩

/-- The exact product of two values. -/
def exactMul (a b : FVal) : Exact :=
  let nv := nvOf [a, b]
  match a, b with
  | .nan _, _ => ⟨.nan false, false, nv⟩
  | _, .nan _ => ⟨.nan false, false, nv⟩
  | .inf x, .inf y => ⟨.inf (x != y), false, 0⟩
  | .inf x, .fin y m _ => if m = 0 then ⟨.nan false, false, flagNV⟩ else ⟨.inf (x != y), false, 0⟩
  | .fin x m _, .inf y => if m = 0 then ⟨.nan false, false, flagNV⟩ else ⟨.inf (x != y), false, 0⟩
  | .fin na ma ea, .fin nb mb eb => ⟨.fin (na != nb) (ma * mb) (ea + eb), false, 0⟩

/-- ± (a × b) + d, exactly (R127). -/
def exactFma (negate : Bool) (a b d : FVal) : Exact :=
  let p := exactMul a b
  let s := exactAdd (if negate then p.v.neg else p.v) d
  { s with flags := s.flags ||| p.flags }

/-- The quotient, to 80 bits and what is below them. -/
def exactDiv (a b : FVal) : Exact :=
  let nv := nvOf [a, b]
  match a, b with
  | .nan _, _ => ⟨.nan false, false, nv⟩
  | _, .nan _ => ⟨.nan false, false, nv⟩
  | .inf _, .inf _ => ⟨.nan false, false, flagNV⟩
  | .inf x, .fin y _ _ => ⟨.inf (x != y), false, 0⟩
  | .fin x _ _, .inf y => ⟨.fin (x != y) 0 0, false, 0⟩
  | .fin na ma ea, .fin nb mb eb =>
    if mb = 0 then
      if ma = 0 then ⟨.nan false, false, flagNV⟩ else ⟨.inf (na != nb), false, flagDZ⟩
    else
      let k := 80 + Nat.log2 mb
      let n := ma * 2 ^ k
      ⟨.fin (na != nb) (n / mb) (ea - eb - k), decide (n % mb ≠ 0), 0⟩

/-- The integer square root, bit by bit from bit `k`. -/
def isqrtFrom : Nat → Nat → Nat → Nat
  | 0, _, r => r
  | k + 1, n, r => isqrtFrom k n (if (r + 2 ^ k) * (r + 2 ^ k) ≤ n then r + 2 ^ k else r)

/-- ⌊√n⌋. -/
def isqrt (n : Nat) : Nat := isqrtFrom (Nat.log2 n / 2 + 1) n 0

/-- m × 2^e with an even exponent and a mantissa of at least 160 bits. -/
def widen (m : Nat) (e : Int) : Nat × Int :=
  let k : Nat := 160 + (if e % 2 = 0 then 0 else 1)
  (m * 2 ^ k, e - k)

/-- √a (R131, R132). -/
def exactSqrt (a : FVal) : Exact :=
  match a with
  | .nan s => ⟨.nan false, false, if s then flagNV else 0⟩
  | .inf neg => if neg then ⟨.nan false, false, flagNV⟩ else ⟨.inf false, false, 0⟩
  | .fin neg m e =>
    if m = 0 then ⟨.fin neg 0 0, false, 0⟩
    else if neg then ⟨.nan false, false, flagNV⟩
    else
      let w := widen m e
      let r := isqrt w.1
      ⟨.fin false r (w.2 / 2), decide (r * r ≠ w.1), 0⟩

/-- 1 / √a (R131, R132). -/
def exactRsqrt (a : FVal) : Exact :=
  match a with
  | .nan s => ⟨.nan false, false, if s then flagNV else 0⟩
  | .inf neg => if neg then ⟨.nan false, false, flagNV⟩ else ⟨.fin false 0 0, false, 0⟩
  | .fin neg m e =>
    if m = 0 then ⟨.inf neg, false, flagDZ⟩
    else if neg then ⟨.nan false, false, flagNV⟩
    else
      let w := widen m e
      let k := 160 + Nat.log2 w.1
      let r := isqrt (2 ^ (2 * k) / w.1)
      ⟨.fin false r (-(w.2 / 2) - k), decide (r * r * w.1 ≠ 2 ^ (2 * k)), 0⟩

/-- 1 / a (R131, R132). -/
def exactRcp (a : FVal) : Exact := exactDiv (.fin false 1 0) a

/-- The order of two values that are not NaN, −0 below +0 (R128). -/
def totalLt (a b : FVal) : Bool :=
  match a, b with
  | .inf x, .inf y => x && !y
  | .inf x, .fin _ _ _ => x
  | .fin _ _ _, .inf y => !y
  | .fin na ma ea, .fin nb mb eb =>
    if ma = 0 ∧ mb = 0 then na && !nb
    else
      let e := min ea eb
      let ia : Int := ma * 2 ^ (ea - e).toNat
      let ib : Int := mb * 2 ^ (eb - e).toNat
      decide ((if na then -ia else ia) < (if nb then -ib else ib))
  | .nan _, _ => false
  | .inf _, .nan _ => false
  | .fin _ _ _, .nan _ => false

/-- minimumNumber, or maximumNumber, of two codes (R128). -/
def Fmt.minMax (f : Fmt) (takeMax : Bool) (a b : Nat) : Nat × FFlags :=
  let va := f.value a
  let vb := f.value b
  let fl := nvOf [va, vb]
  if va.isNan && vb.isNan then (f.nanCode, fl)
  else if va.isNan then (b, fl)
  else if vb.isNan then (a, fl)
  else if takeMax then (if totalLt va vb then b else a, fl)
  else (if totalLt vb va then b else a, fl)

/-- Less than, for two values that are not NaN, with −0 and +0 equal (R103). -/
def numLt (a b : FVal) : Bool := totalLt a b && !(a.isZero && b.isZero)

/-- Equality of two values that are not NaN, with −0 and +0 equal (R103). -/
def numEq (a b : FVal) : Bool := !numLt a b && !numLt b a

/-- The condition of FCMP and DCMP (R103), and NV. -/
def Fmt.compare (f : Fmt) (cond : Nat) (a b : Nat) : Bool × FFlags :=
  let va := f.value a
  let vb := f.value b
  let un := va.isNan || vb.isNan
  let quiet := nvOf [va, vb]
  let loud : FFlags := if un then flagNV else 0
  match cond with
  | 0 => (!un && numEq va vb, quiet)
  | 1 => (un || !numEq va vb, quiet)
  | 2 => (!un && numLt va vb, loud)
  | 3 => (!un && !numLt vb va, loud)
  | 4 => (!un && numLt vb va, loud)
  | 5 => (!un && !numLt va vb, loud)
  | 6 => (un, quiet)
  | _ => (!un, quiet)

/-- Rounds a value to an integer in a mode (R86): the integer, and whether it is inexact. -/
def toInteger (mode : Mode) (neg : Bool) (m : Nat) (e : Int) : Int × Bool :=
  let r := roundMag mode neg m e false 0
  (if neg then -(r.1 : Int) else r.1, r.2.1)

/-- Rounds to an integral value of the same format, keeping the sign of zero (R131). NX is raised only where asked. -/
def Fmt.integral (f : Fmt) (mode : Mode) (raiseNX : Bool) (code : Nat) : Nat × FFlags :=
  match f.value code with
  | .nan s => (f.nanCode, if s then flagNV else 0)
  | .inf neg => (f.signed neg f.infCode, 0)
  | .fin neg m e =>
    let r := roundMag mode neg m e false 0
    ((f.roundFin .rne false neg r.1 0 false).1, if raiseNX && r.2.1 then flagNX else 0)

/-- The class mask of R133. -/
def Fmt.classMask (f : Fmt) (code : Nat) : Nat :=
  match f.value code with
  | .nan s => if s then 1 else 2
  | .inf neg => if neg then 4 else 512
  | .fin neg m _ =>
    if m = 0 then (if neg then 32 else 64)
    else if m < 2 ^ f.mbits then (if neg then 16 else 128)
    else (if neg then 8 else 256)

/-- Converts a value to an integer of the range from `lo` to `hi` (R86, R87). -/
def toRange (mode : Mode) (lo hi : Int) (v : FVal) : Int × FFlags :=
  match v with
  | .nan _ => (0, flagNV)
  | .inf neg => (if neg then lo else hi, flagNV)
  | .fin neg m e =>
    let r := toInteger mode neg m e
    if r.1 < lo then (lo, flagNV)
    else if hi < r.1 then (hi, flagNV)
    else (r.1, if r.2 then flagNX else 0)

/-- An integer as a value. -/
def ofInt (i : Int) : FVal := .fin (decide (i < 0)) i.natAbs 0

end Sys2Proof.Machine
end

