-- ==== Sys2Proof/Machine/Transcend.lean ====
section
/-! DEFINITION. The FP32 functions EXP2, LOG2, SIN, COS and TANH (05 R131, R132), correctly rounded: each is computed with 560 fractional bits by a convergent series, of which the last 40 are dropped, and rounded once. No FP32 argument brings an inexact result within 2^-400 of a rounding boundary (DEDUCED, log 8). -/

namespace Sys2Proof.Machine

/-- Fractional bits of the fixed-point series. -/
def qBits : Nat := 560

/-- Sum over k of t / (2k + 1), with t divided by `sq` from term to term, from index `k` on. -/
def oddSeries : Nat → Nat → Nat → Nat → Nat
  | 0, _, _, _ => 0
  | n + 1, t, sq, k => t / (2 * k + 1) + oddSeries n (t / sq) sq (k + 1)

/-- The same with signs that alternate. -/
def altSeries : Nat → Nat → Nat → Nat → Int
  | 0, _, _, _ => 0
  | n + 1, t, sq, k => ((t / (2 * k + 1) : Nat) : Int) - altSeries n (t / sq) sq (k + 1)

/-- ln 2 = 2 artanh(1/3), with 64 guard bits dropped at the end. -/
def ln2Fix : Nat := 2 * oddSeries 200 (2 ^ (qBits + 64) / 3) 9 0 / 2 ^ 64

/-- π / 2 = 8 arctan(1/5) − 2 arctan(1/239). -/
def halfPiFix : Nat :=
  (8 * altSeries 140 (2 ^ (qBits + 64) / 5) 25 0 - 2 * altSeries 60 (2 ^ (qBits + 64) / 239) 57121 0).toNat / 2 ^ 64

/-- Sum of y^n / n! from term `k`, whose value is `t`. -/
def expSeries : Nat → Nat → Nat → Nat → Nat
  | 0, _, _, _ => 0
  | n + 1, t, y, k => t + expSeries n (t * y / 2 ^ qBits / k) y (k + 1)

/-- e^y for a fixed-point y below 2. -/
def expFix (y : Nat) : Nat := expSeries 160 (2 ^ qBits) y 1

/-- Sum with alternating signs of every second term of the exponential series. -/
def trigSeries : Nat → Nat → Nat → Nat → Int
  | 0, _, _, _ => 0
  | n + 1, t, y2, k => (t : Int) - trigSeries n (t * y2 / 2 ^ qBits / (k * (k + 1))) y2 (k + 2)

def sinFix (r : Nat) : Int := trigSeries 80 r (r * r / 2 ^ qBits) 2
def cosFix (r : Nat) : Int := trigSeries 80 (2 ^ qBits) (r * r / 2 ^ qBits) 1

/-- Sum of z^(2k+1) / (2k + 1) for a fixed-point z up to 1/3. -/
def artanhSeries : Nat → Nat → Nat → Nat → Nat
  | 0, _, _, _ => 0
  | n + 1, t, z2, k => t / (2 * k + 1) + artanhSeries n (t * z2 / 2 ^ qBits) z2 (k + 1)

/-- A fixed-point result without its last 40 bits, as a value known to lie strictly above what is kept. -/
def inexactFix (v : Int) (e : Int) : Exact :=
  ⟨.fin (decide (v < 0)) (v.natAbs / 2 ^ 40) (e - qBits + 40), true, 0⟩

/-- A special operand's result: NaN with NV when signalling. -/
def nanIn (s : Bool) : Exact := ⟨.nan false, false, if s then flagNV else 0⟩

/-- NaN with NV. -/
def invalid : Exact := ⟨.nan false, false, flagNV⟩

/-- 2^a. -/
def exactExp2 (a : FVal) : Exact :=
  match a with
  | .nan s => nanIn s
  | .inf neg => if neg then ⟨.fin false 0 0, false, 0⟩ else ⟨.inf false, false, 0⟩
  | .fin neg m e =>
    if m = 0 then ⟨.fin false 1 0, false, 0⟩
    else if 8 ≤ (Nat.log2 m : Int) + e then
      -- |a| ≥ 256: far beyond overflow, or far below the smallest subnormal
      if neg then ⟨.fin false 1 (-300), true, 0⟩ else ⟨.fin false 1 300, false, 0⟩
    else
      let x : Int := m * 2 ^ (e + qBits).toNat
      let v := if neg then -x else x
      let k := v / 2 ^ qBits
      let f := (v % 2 ^ qBits).toNat
      if f = 0 then ⟨.fin false 1 k, false, 0⟩
      else inexactFix (expFix (f * ln2Fix / 2 ^ qBits)) k

/-- log2 a. -/
def exactLog2 (a : FVal) : Exact :=
  match a with
  | .nan s => nanIn s
  | .inf neg => if neg then invalid else ⟨.inf false, false, 0⟩
  | .fin neg m e =>
    if m = 0 then ⟨.inf true, false, flagDZ⟩
    else if neg then invalid
    else
      let l := Nat.log2 m
      if m = 2 ^ l then ⟨ofInt (l + e), false, 0⟩
      else
        let z := (m - 2 ^ l) * 2 ^ qBits / (m + 2 ^ l)
        let ln := 2 * artanhSeries 190 z (z * z / 2 ^ qBits) 0
        inexactFix ((l + e) * 2 ^ qBits + (ln * 2 ^ qBits / ln2Fix : Nat)) 0

/-- sin a, or cos a, of an angle in radians. -/
def exactTrig (cosine : Bool) (a : FVal) : Exact :=
  match a with
  | .nan s => nanIn s
  | .inf _ => invalid
  | .fin neg m e =>
    if m = 0 then (if cosine then ⟨.fin false 1 0, false, 0⟩ else ⟨.fin neg 0 0, false, 0⟩)
    else
      let x := m * 2 ^ (e + qBits).toNat
      let n := x / halfPiFix
      let r := x % halfPiFix
      let quadrant := (n + (if cosine then 1 else 0)) % 4
      let v : Int :=
        match quadrant with
        | 0 => sinFix r
        | 1 => cosFix r
        | 2 => -sinFix r
        | _ => -cosFix r
      inexactFix (if neg && !cosine then -v else v) 0

/-- tanh a = (1 − u) / (1 + u) with u = e^(−2|a|). -/
def exactTanh (a : FVal) : Exact :=
  match a with
  | .nan s => nanIn s
  | .inf neg => ⟨.fin neg 1 0, false, 0⟩
  | .fin neg m e =>
    if m = 0 then ⟨.fin neg 0 0, false, 0⟩
    else if 6 ≤ (Nat.log2 m : Int) + e then ⟨.fin neg (2 ^ 100 - 1) (-100), true, 0⟩
    else
      let y := 2 * (m * 2 ^ (e + qBits).toNat)
      let k := y / ln2Fix
      let u := 2 ^ (2 * qBits) / expFix (y % ln2Fix) / 2 ^ k
      let v : Int := ((2 ^ qBits - u) * 2 ^ qBits / (2 ^ qBits + u) : Nat)
      inexactFix (if neg then -v else v) 0

end Sys2Proof.Machine
end

