-- ==== Sys2Proof/Machine/Formats.lean ====
section
/-! DEFINITION. Operand format codes (03 R69), format slots (R80, R81), packing of narrow elements (R75, R76), and conversion of one element to and from a slot's element format (05 R138 to R140; 13 R348). -/

namespace Sys2Proof.Machine

/-- What the elements of a format code are (R69, R70, R74). -/
inductive Elem where
  | float (f : Fmt)
  | int (bits : Nat) (signed : Bool)
deriving DecidableEq, Repr

/-- How a format code is scaled (R77, R78). -/
inductive Scale where
  | none | shift | vector | tile
deriving DecidableEq, Repr

/-- The kinds of R69. -/
inductive Kind where
  | float | integer | scaledInt
deriving DecidableEq, Repr

/-- The elements, scaling and kind of a format code from 0 to 27 (R69). -/
def formatOf (code : Nat) : Option (Elem × Scale) :=
  match code with
  | 0 => some (.float fp64, .none)
  | 1 => some (.float fp32, .none)
  | 2 => some (.float fp16, .none)
  | 3 => some (.float bf16, .none)
  | 4 => some (.float e4m3, .none)
  | 5 => some (.float e5m2, .none)
  | 6 => some (.float e3m2, .none)
  | 7 => some (.float e2m3, .none)
  | 8 => some (.float e2m1, .none)
  | 9 => some (.int 16 true, .none)
  | 10 => some (.int 8 true, .none)
  | 11 => some (.int 8 false, .none)
  | 12 => some (.int 4 true, .none)
  | 13 => some (.int 4 false, .none)
  | 14 => some (.float e4m3, .shift)
  | 15 => some (.float e5m2, .shift)
  | 16 => some (.float e3m2, .shift)
  | 17 => some (.float e2m3, .shift)
  | 18 => some (.float e2m1, .shift)
  | 19 => some (.int 8 true, .shift)
  | 20 => some (.int 4 true, .shift)
  | 21 => some (.float e4m3, .vector)
  | 22 => some (.float e4m3, .tile)
  | 23 => some (.float e5m2, .vector)
  | 24 => some (.float e5m2, .tile)
  | 25 => some (.int 8 true, .vector)
  | 26 => some (.int 8 true, .tile)
  | 27 => some (.float e2m1, .vector)
  | _ => none

/-- The element of a code; of a reserved code, that of code 1 (a launch with one is rejected, R82). -/
def elemOf (code : Nat) : Elem := ((formatOf code).map (·.1)).getD (.float fp32)

def scaleOf (code : Nat) : Scale := ((formatOf code).map (·.2)).getD .none

/-- The element's width in bits. -/
def Elem.width (e : Elem) : Nat :=
  match e with
  | .float f => f.ebits + f.mbits + 1
  | .int n _ => n

def kindOf (code : Nat) : Kind :=
  match elemOf code, scaleOf code with
  | .float _, _ => .float
  | .int _ _, .none => .integer
  | .int _ _, .shift => .scaledInt
  | .int _ _, .vector => .scaledInt
  | .int _ _, .tile => .scaledInt

/-- Whether a code has FP32 scales (R78). -/
def fp32Scaled (code : Nat) : Bool :=
  match scaleOf code with
  | .none => false
  | .shift => false
  | .vector => true
  | .tile => true

/-- The fields of a format slot (R80). -/
def slotA (s : Word) : Nat := bits s.toNat 4 0
def slotB (s : Word) : Nat := bits s.toNat 9 5
def slotAcc (s : Word) : Nat := bits s.toNat 11 10
def slotRnd (s : Word) : Nat := bits s.toNat 14 12
def slotSat (s : Word) : Bool := s.getLsbD 15
def slotZskip (s : Word) : Bool := s.getLsbD 16

/-- Whether a slot is valid (R81). -/
def slotValid (s : Word) : Bool :=
  let a := slotA s
  let b := slotB s
  let acc := slotAcc s
  decide (s.toNat / 2 ^ 17 = 0) && decide (a ≤ 27) && decide (b ≤ 27) && decide (acc ≠ 3) && decide (slotRnd s < 6) &&
    decide ((elemOf a).width = (elemOf b).width) &&
    decide ((kindOf a = .integer) ↔ (kindOf b = .integer)) &&
    !(decide (scaleOf a = .shift) && fp32Scaled b) && !(fp32Scaled a && decide (scaleOf b = .shift)) &&
    decide (acc = 1 ↔ (a = 0 ∧ b = 0)) &&
    decide (acc = 2 ↔ (kindOf a = .integer ∧ kindOf b = .integer))

/-- The rounding mode that a slot names, with the word that a stochastic one uses (R80, R84). -/
def modeOf (rnd : Nat) (w : BitVec 16) : Mode :=
  match rnd with
  | 0 => .rne
  | 1 => .rz
  | 2 => .rup
  | 3 => .rdn
  | 4 => .rna
  | _ => .rstoch w

/-- The range of an integer element (R74). -/
def intRange (n : Nat) (sgn : Bool) : Int × Int :=
  if sgn then (-(2 ^ (n - 1)), 2 ^ (n - 1) - 1) else (0, 2 ^ n - 1)

/-- The value of an element's code (R71, R74). -/
def Elem.value (e : Elem) (code : Nat) : FVal :=
  match e with
  | .float f => f.value code
  | .int n sgn => ofInt (if sgn then signed n code else ((code % 2 ^ n : Nat) : Int))

/-- Converts a value to an element (R83 to R87): its code and flags. -/
def Elem.convert (e : Elem) (mode : Mode) (sat : Bool) (v : FVal) : Nat × FFlags :=
  match e with
  | .float f => f.convert mode sat v
  | .int n sgn =>
    let r := toRange mode (intRange n sgn).1 (intRange n sgn).2 v
    ((r.1 % 2 ^ n).toNat, r.2)

/-- The product of a value and an FP32 scale as R139 and R140 take it: exact, its NaN quiet, NV for 0 × ∞ and for a signalling factor. -/
def scaled (v : FVal) (scale : Word) : FVal × FFlags :=
  let p := exactMul v (fp32.value scale.toNat)
  (p.v, p.flags)

/-- Whether a slot rounds stochastically (R80), and so draws one word for each element (R84). -/
def stochastic (s : Word) : Bool := decide (slotRnd s = 5)

/-- Bytes that n packed elements take (R75, R76). -/
def packedBytes (width n : Nat) : Nat :=
  if width = 6 then 3 * ((n + 3) / 4) else (width * n + 7) / 8

/-- Element `i` of packed bytes (R75, R76). -/
def packedGet (width : Nat) (bs : List Byte) (i : Nat) : Nat :=
  if width = 6 then
    leNat (slice bs (3 * (i / 4)) 3) / 2 ^ (6 * (i % 4)) % 64
  else if width = 4 then
    leNat (slice bs (i / 2) 1) / 2 ^ (4 * (i % 2)) % 16
  else leNat (slice bs (width / 8 * i) (width / 8))

/-- Packs elements into bytes, unused bits zero (R75, R76). -/
def packElems (width : Nat) (es : List Nat) : List Byte :=
  let total := ((List.range es.length).foldl (fun (acc : Nat) i =>
    let at_ := if width = 6 then 24 * (i / 4) + 6 * (i % 4) else width * i
    acc + es.getD i 0 * 2 ^ at_) 0)
  leBytes (packedBytes width es.length) total

/-- Elements that one packed register holds (R138). -/
def perRegister (width : Nat) : Nat :=
  match width with
  | 4 => 8
  | 6 => 4
  | 8 => 4
  | 16 => 2
  | _ => 1

/-- One round of Philox4x32 (R143). -/
def philoxRound (c : Nat × Nat × Nat × Nat) (k0 k1 : Nat) : Nat × Nat × Nat × Nat :=
  let p := 0xD2511F53 * c.1
  let q := 0xCD9E8D57 * c.2.2.1
  (((q / 2 ^ 32) ^^^ c.2.1) ^^^ k0, q % 2 ^ 32, ((p / 2 ^ 32) ^^^ c.2.2.2) ^^^ k1, p % 2 ^ 32)

/-- The rounds that are left, with the key of the next one. -/
def philoxFrom : Nat → Nat × Nat × Nat × Nat → Nat → Nat → Nat × Nat × Nat × Nat
  | 0, c, _, _ => c
  | n + 1, c, k0, k1 =>
    philoxFrom n (philoxRound c k0 k1) ((k0 + 0x9E3779B9) % 2 ^ 32) ((k1 + 0xBB67AE85) % 2 ^ 32)

/-- Word N of a generator's stream (R143). -/
def Gen.word (g : Gen) : BitVec 16 :=
  let blk := g.n.toNat / 8
  let y := philoxFrom 10 (blk % 2 ^ 32, blk / 2 ^ 32, g.stream.toNat % 2 ^ 32, g.stream.toNat / 2 ^ 32)
    (g.key.toNat % 2 ^ 32) (g.key.toNat / 2 ^ 32)
  let all := y.1 + y.2.1 * 2 ^ 32 + y.2.2.1 * 2 ^ 64 + y.2.2.2 * 2 ^ 96
  BitVec.ofNat 16 (all / 2 ^ (16 * (g.n.toNat % 8)))

/-- Draws one word (R143). -/
def Gen.draw (g : Gen) : BitVec 16 × Gen := (g.word, { g with n := g.n + 1 })

/-- Draws a word only where the rounding is stochastic (R84, R146). -/
def Gen.drawIf (b : Bool) (g : Gen) : BitVec 16 × Gen := if b then g.draw else (0, g)

end Sys2Proof.Machine
end

