-- ==== Sys2Proof/Machine/Flags.lean ====
section
/-! DEFINITION. Conditions of the integer compares (04 R101), the combination of a compare's bit into a predicate (R102), truth tables (R104) and the OR of floating-point flags into FPSTAT (01 R35). -/

namespace Sys2Proof.Machine

/-- The condition held in COND, over 32-bit registers or pairs (R101). -/
def intCond (w : Nat) (cond : Nat) (a b : BitVec w) : Bool :=
  match cond with
  | 0 => decide (a = b)
  | 1 => decide (a ≠ b)
  | 2 => a.slt b
  | 3 => a.sle b
  | 4 => b.slt a
  | 5 => b.sle a
  | 6 => a.ult b
  | 7 => a.ule b
  | 8 => b.ult a
  | 9 => b.ule a
  | 10 => decide (a &&& b ≠ 0)
  | _ => decide (a &&& b = 0)

/-- The second operand of ICMPI: zero-extended for the unsigned conditions, else sign-extended (R101). -/
def icmpiImm (cond : Nat) (i : BitVec 7) : Word :=
  if 6 ≤ cond ∧ cond ≤ 9 then i.setWidth 32 else i.signExtend 32

/-- How COMB combines a compare's bit with the predicate's old value (R102). -/
def combine (comb : BitVec 2) (old c : Bool) : Bool :=
  match comb.toNat with
  | 0 => c
  | 1 => old && c
  | 2 => old || c
  | _ => old && !c

/-- TT bit (2 × x + y) (R104). -/
def truthTable (tt : BitVec 4) (x y : Bool) : Bool := tt.getLsbD (2 * x.toNat + y.toNat)

/-- A predicate; p15 always reads 1 (R15). -/
def Fibre.p (f : Fibre) (i : Nat) : Bool := decide (i = 15) || f.pword.getLsbD i

/-- Writes a predicate; a write to p15 is ignored (R15). -/
def Fibre.setP (f : Fibre) (i : Nat) (b : Bool) : Fibre :=
  if i = 15 then f
  else { f with pword := if b then f.pword ||| (1#16 <<< i) else f.pword &&& ~~~(1#16 <<< i) }

/-- The whole PWORD, bit 15 forced to 1 (R15, R20). -/
def Fibre.setPword (f : Fibre) (v : Word) : Fibre := { f with pword := v.setWidth 16 ||| 0x8000#16 }

/-- ORs flags into a group's FPSTAT at once (R35, R348). -/
def Group.raise (g : Group) (fl : FFlags) : Group := { g with fpstat := g.fpstat ||| fl }

/-- Sends flags on their way to FPSTAT: they are raised when the result may first be read (R147). -/
def Group.send (g : Group) (x : FlagDue) : Group := if x.flags = 0 then g else { g with flying := g.flying ++ [x] }

/-- The flags among those on their way that a test picks. -/
def Group.arriving (g : Group) (p : FlagDue → Bool) : FFlags := (g.flying.filter p).foldl (fun acc x => acc ||| x.flags) 0

/-- What SRD FPSTAT reads in a fibre: every flag raised in an earlier clock, the fibre's own earlier ones among them (R147, R148). -/
def Group.flagsSeen (g : Group) (clock lane : Nat) : FFlags := g.fpstat ||| g.arriving fun x => decide (x.due < clock) || x.lanes.contains lane

/-- What SWR FPSTAT leaves: flags raised in an earlier clock are overwritten, and the others come after it (R147). -/
def Group.writeFlags (g : Group) (clock : Nat) (v : FFlags) : Group := { g with fpstat := v, flying := g.flying.filter fun x => decide (clock ≤ x.due) }

/-- All the flags that a group has raised or sent on their way. -/
def Group.allFlags (g : Group) : FFlags := g.fpstat ||| g.arriving fun _ => true

end Sys2Proof.Machine
end

