-- ==== Sys2Proof/Machine/Operands.lean ====
section
/-! DEFINITION. Lane operands: the window (01 R13), pairs (R14), quadruples (06 R153), and the checks of register fields that end in ILLEGAL_OPERAND. -/

namespace Sys2Proof.Machine

/-- The key that names a fibre. -/
def Fibre.key (f : Fibre) : FibreKey := ⟨f.wg, f.grp, f.lane⟩

/-- The physical register that vn names: (WB + n) mod A (R13). -/
def Fibre.phys (f : Fibre) (n : Nat) : Nat := (f.wb.toNat + n) % f.alloc.toNat

/-- Whether vn may be named: every register up to v127, or up to v(A − 1) when A is less than 128 (R13). -/
def Fibre.may (f : Fibre) (n : Nat) : Bool := decide (n < 128) && decide (n < f.alloc.toNat)

/-- Whether the pair vn, vn+1 may be named: n even and both registers in the allocation (R13, R14). -/
def Fibre.mayPair (f : Fibre) (n : Nat) : Bool := decide (n % 2 = 0) && f.may n && f.may (n + 1)

/-- Whether vn to vn+3 may be named: n a multiple of 4 (R153). -/
def Fibre.mayQuad (f : Fibre) (n : Nat) : Bool := decide (n % 4 = 0) && f.may n && f.may (n + 3)

/-- Lane register vn (R13). -/
def Fibre.v (f : Fibre) (n : Nat) : Word := f.regs.getD (f.phys n) 0

/-- Writes lane register vn. -/
def Fibre.setV (f : Fibre) (n : Nat) (x : Word) : Fibre := { f with regs := f.regs.set (f.phys n) x }

/-- The 64-bit value of a pair, bits [31:0] in the even register (R14). -/
def Fibre.pair (f : Fibre) (n : Nat) : DWord := f.v (n + 1) ++ f.v n

/-- Writes a pair. -/
def Fibre.setPair (f : Fibre) (n : Nat) (x : DWord) : Fibre :=
  (f.setV n (x.setWidth 32)).setV (n + 1) (x.extractLsb' 32 32)

/-- The bytes of n registers from vn on, as a store writes them (R153). -/
def Fibre.regBytes (f : Fibre) (n count : Nat) : List Byte :=
  (List.range count).flatMap fun i => leBytes 4 (f.v (n + i)).toNat

/-- Writes physical registers of the allocation from little-endian bytes, four to each; a short last one is zero-extended (R153). -/
def Fibre.setPhysBytes (f : Fibre) : List Nat → List Byte → Fibre
  | [], _ => f
  | r :: rs, bs => Fibre.setPhysBytes { f with regs := f.regs.set r (leWord (bs.take 4)) } rs (bs.drop 4)

/-- ILLEGAL_OPERAND (R13, R14, R41). -/
def operandTrap : Trap := { code := .illegalOperand }

/-- ILLEGAL_INSTRUCTION (R40). -/
def illegalTrap : Trap := { code := .illegalInstruction }

/-- MISALIGNED at an address or a target (R38, R150, R429). -/
def misalignedTrap (a : Nat) : Trap := { code := .misaligned, addr := BitVec.ofNat 64 a }

/-- PRIVILEGE (R19, R428). -/
def privilegeTrap : Trap := { code := .privilege }

/-- The levels in order of rank (R428). -/
def Level.rank (l : Level) : Nat :=
  match l with
  | .u => 0
  | .h => 1
  | .s => 2

/-- Fault codes as numbers (R429). -/
def Code.num (c : Code) : Nat :=
  match c with
  | .illegalInstruction => 0x01
  | .illegalOperand => 0x02
  | .misaligned => 0x03
  | .privilege => 0x04
  | .breakpoint => 0x05
  | .trap => 0x06
  | .pageNotPresent => 0x10
  | .pageProtection => 0x11
  | .writeProtectWindow => 0x12
  | .compressedPage => 0x13
  | .stackGrowth => 0x14
  | .copyOnWrite => 0x15
  | .poison => 0x16
  | .versionPage => 0x17
  | .versionPoolEmpty => 0x18
  | .matrixShape => 0x20
  | .matrixFormat => 0x21
  | .copyCommand => 0x22
  | .taskUnderflow => 0x23
  | .watchdog => 0x3F

/-- Faults that the part resolves itself (R429, R437). -/
def Code.hardware (c : Code) : Bool := decide (c = .writeProtectWindow) || decide (c = .compressedPage) || decide (c = .versionPage)

end Sys2Proof.Machine
end

