-- ==== Sys2Proof/Machine/Lookup.lean ====
section
/-! DEFINITION. Finding and changing the records of the state: fibres, groups, workgroups, grids, cores, queues and the control space's registers (23 R520, R521), with the fields of launch records (08 R191, R192). -/

namespace Sys2Proof.Machine

/-- Whether a record is the fibre that a key names. -/
def Fibre.is (f : Fibre) (k : FibreKey) : Bool := decide (f.wg = k.wg) && decide (f.grp = k.grp) && decide (f.lane = k.lane)

/-- Whether a record is a group. -/
def Group.is (g : Group) (wg grp : Nat) : Bool := decide (g.wg = wg) && decide (g.grp = grp)

def State.fibre? (s : State) (k : FibreKey) : Option Fibre := s.fibres.find? fun f => f.is k

/-- A group's record; an absent one is a group whose registers are all 0. -/
def State.group (s : State) (wg grp : Nat) : Group := (s.groups.find? fun g => g.is wg grp).getD { wg := wg, grp := grp }

def State.wg? (s : State) (id : Nat) : Option Workgroup := s.wgs.find? fun w => decide (w.id = id)

/-- A workgroup's record; an absent one has no scratchpad. -/
def State.wg (s : State) (id : Nat) : Workgroup := (s.wg? id).getD { id := id, grid := 0 }

def State.grid? (s : State) (id : Nat) : Option Grid := s.grids.find? fun g => decide (g.id = id)

def State.grid (s : State) (id : Nat) : Grid := (s.grid? id).getD { id := id, launch := {} }

/-- The launch record that a workgroup runs under. -/
def State.launch (s : State) (wg : Nat) : Launch := (s.grid (s.wg wg).grid).launch

def State.core (s : State) (c : Nat) : Core := s.cores.getD c {}

/-- A die's pressure block. -/
def State.pressOf (s : State) (d : Nat) : Press := s.press.getD d {}

/-- A queue's run state; one that was never enabled has every value 0. -/
def State.queue (s : State) (q : BitVec 8) : Queue := (s.front.queues.find? fun x => decide (x.q = q)).getD { q := q }

def State.domain (s : State) (d : Nat) : Domain := s.domains.getD d {}

def State.modFibre (s : State) (k : FibreKey) (g : Fibre → Fibre) : State :=
  { s with fibres := s.fibres.map fun f => if f.is k then g f else f }

def State.modGroup (s : State) (wg grp : Nat) (h : Group → Group) : State :=
  { s with groups := s.groups.map fun g => if g.is wg grp then h g else g }

def State.modWg (s : State) (id : Nat) (h : Workgroup → Workgroup) : State :=
  { s with wgs := s.wgs.map fun w => if w.id = id then h w else w }

def State.modGrid (s : State) (id : Nat) (h : Grid → Grid) : State :=
  { s with grids := s.grids.map fun g => if g.id = id then h g else g }

def State.modCore (s : State) (c : Nat) (h : Core → Core) : State := { s with cores := s.cores.modify c h }

def State.modPress (s : State) (d : Nat) (h : Press → Press) : State := { s with press := s.press.modify d h }

def State.modDomain (s : State) (d : Nat) (h : Domain → Domain) : State := { s with domains := s.domains.modify d h }

/-- Changes a queue's run state, which is listed from its first change on. -/
def State.modQueue (s : State) (q : BitVec 8) (h : Queue → Queue) : State :=
  let qs := s.front.queues
  let qs' := if qs.any (fun x => decide (x.q = q)) then qs.map (fun x => if x.q = q then h x else x) else qs ++ [h { q := q }]
  { s with front := { s.front with queues := qs' } }

/-- Records the first event of a packet that is not OK (R501). -/
def State.reportPacket (s : State) (q : BitVec 8) (id : Nat) (r : Report) : State :=
  s.modQueue q fun x => { x with flights := x.flights.map fun y => if y.id = id then { y with report := some (y.report.getD r) } else y }

/-- Records an event of a grid in the packet that launched it (R501). -/
def State.report (s : State) (grid : Nat) (r : Report) : State := s.reportPacket (s.grid grid).queue (s.grid grid).packet r

/-- A fresh identity. -/
def State.newId (s : State) : Nat × State := (s.ids, { s with ids := s.ids + 1 })

/-- The next number in the device's order of events. -/
def State.newOrder (s : State) : Nat × State := (s.order, { s with order := s.order + 1 })

/-- A free 64-bit value (log 6). -/
def State.freeVal (s : State) : BitVec 64 × State := (Config.freeValue s.fresh, { s with fresh := s.fresh + 1 })

/-! The control space. -/

/-- The number in `n` bytes of the control space. -/
def State.ctlNat (s : State) (off n : Nat) : Nat := leNat (Memory.readN s.ctl off n)

/-- Puts a number into `n` bytes of the control space. -/
def State.setCtl (s : State) (off n v : Nat) : State := { s with ctl := Memory.writeN s.ctl off (leBytes n v) }

def State.station (s : State) : Nat := bits (s.ctlNat 0x08 8) 9 0
def State.wdShift (s : State) : Nat := bits (s.ctlNat 0x10 8) 13 8
def State.ageShift (s : State) : Nat := bits (s.ctlNat 0x10 8) 4 0
def State.ptRoot (s : State) : Nat := s.ctlNat 0x18 8
def State.tsave (s : State) : Nat := s.ctlNat 0x20 8
def State.crBase (s : State) : Nat := s.ctlNat 0x40 8
def State.crLog2 (s : State) : Nat := bits (s.ctlNat 0x48 8) 3 0
def State.crNotify (s : State) : Nat := s.ctlNat 0x50 8
def State.saveBase (s : State) : Nat := s.ctlNat 0x60 8
def State.saveN (s : State) : Nat := bits (s.ctlNat 0x68 8) 23 0
/-- The virtual base of the stack region (R530). -/
def State.stkBase (s : State) : Nat := s.ctlNat 0x70 8
def State.stkN (s : State) : Nat := bits (s.ctlNat 0x78 8) 15 0

/-- Queue descriptors (R487). -/
def qDesc (q : BitVec 8) : Nat := 0x010000 + 256 * q.toNat
def State.qField (s : State) (q : BitVec 8) (off n : Nat) : Nat := s.ctlNat (qDesc q + off) n
def State.qEnabled (s : State) (q : BitVec 8) : Bool := decide (bits (s.qField q 10 1) 3 3 = 1)

/-- Domain descriptors (R377). -/
def domDesc (d : Nat) : Nat := 0x020000 + 64 * d
def State.domField (s : State) (d off n : Nat) : Nat := s.ctlNat (domDesc d + off) n
def State.domEnabled (s : State) (d : Nat) : Bool := decide (bits (s.domField d 56 1) 0 0 = 1)

/-- Pressure blocks (R459). -/
def pressBase (d : Nat) : Nat := 0x030000 + 0x1000 * d
def State.pressReg (s : State) (d off : Nat) : Nat := s.ctlNat (pressBase d + off) 8

/-- Peer window descriptors (R509). -/
def winDesc (w : Nat) : Nat := 0x040000 + 32 * w

/-- World bits (R524): a core's is the one in effect. -/
def State.coreWorld (s : State) (c : Nat) : Bool := (s.core c).world
def State.nextWorld (s : State) (c : Nat) : Bool := decide (bits (s.ctlNat 0x050000 8) c c = 1)
def State.queueWorld (s : State) (q : BitVec 8) : Bool :=
  decide (bits (s.ctlNat (0x050008 + 8 * (q.toNat / 64)) 8) (q.toNat % 64) (q.toNat % 64) = 1)
def State.collWorld (s : State) : Bool := decide (bits (s.ctlNat 0x050028 8) 0 0 = 1)

/-- Whether physical memory is secure: some enabled region that covers it is (R524). -/
def State.secureAt (s : State) (pa : Nat) : Bool :=
  (List.range 16).any fun e =>
    let base := s.ctlNat (0x050100 + 16 * e) 8
    let lim := s.ctlNat (0x050108 + 16 * e) 8
    decide (bits lim 0 0 = 1) && decide (bits lim 1 1 = 1) && decide (bits base 49 16 ≤ pa / 65536) && decide (pa / 65536 < bits lim 49 16)

/-! Launch records. -/

/-- A launch record from its 128 bytes (R191). -/
def Launch.ofBytes (bs : List Byte) : Launch :=
  { entry := BitVec.ofNat 64 (field bs 0 8), dict := BitVec.ofNat 64 (field bs 8 8), args := BitVec.ofNat 64 (field bs 16 8)
    dimX := BitVec.ofNat 16 (field bs 24 2), dimY := BitVec.ofNat 16 (field bs 26 2), dimZ := BitVec.ofNat 16 (field bs 28 2)
    shape := BitVec.ofNat 16 (field bs 30 2), regs := BitVec.ofNat 16 (field bs 32 2), gran := BitVec.ofNat 16 (field bs 34 2)
    stack := BitVec.ofNat 32 (field bs 36 4), vid := BitVec.ofNat 16 (field bs 40 2), pvid := BitVec.ofNat 16 (field bs 42 2)
    accKib := BitVec.ofNat 32 (field bs 44 4)
    slots := (List.range 8).map fun i => BitVec.ofNat 32 (field bs (48 + 4 * i) 4)
    sync := (List.range 8).map fun i => BitVec.ofNat 8 (field bs (80 + i) 1)
    traph := BitVec.ofNat 64 (field bs 88 8), tensors := BitVec.ofNat 64 (field bs 96 8), wdist := BitVec.ofNat 64 (field bs 104 8)
    ring := BitVec.ofNat 32 (field bs 112 4), notify := BitVec.ofNat 32 (field bs 116 4), doneW := BitVec.ofNat 64 (field bs 120 8) }

/-- Fields of SHAPE (R192). -/
def Launch.prio (l : Launch) : Nat := bits l.shape.toNat 13 12
def Launch.draft (l : Launch) : Bool := l.shape.getLsbD 11
def Launch.spec (l : Launch) : Bool := l.shape.getLsbD 10
def Launch.persist (l : Launch) : Bool := l.shape.getLsbD 9
def Launch.fused (l : Launch) : Bool := l.shape.getLsbD 8
def Launch.clusCode (l : Launch) : Nat := bits l.shape.toNat 7 6
def Launch.cluster (l : Launch) : Nat := 2 ^ l.clusCode
def Launch.groups (l : Launch) : Nat := bits l.shape.toNat 5 2 + 1
def Launch.widthCode (l : Launch) : Nat := bits l.shape.toNat 1 0
/-- Group width: 8, 16, 32 or 64 (R192). -/
def Launch.width (l : Launch) : Nat := 8 * 2 ^ l.widthCode
/-- k3, the workgroups of the grid (R189). -/
def Launch.count (l : Launch) : Nat := l.dimX.toNat * l.dimY.toNat * l.dimZ.toNat
/-- The version that a launch record names. -/
def Launch.version (l : Launch) : VID := l.vid.setWidth 10
/-- Bytes of scratchpad of each workgroup (R247). -/
def Launch.padBytes (l : Launch) : Nat := 1024 * l.gran.toNat
/-- Bytes of accumulator memory of each workgroup (R317). -/
def Launch.accBytes (l : Launch) : Nat := 1024 * l.accKib.toNat
def Launch.slot (l : Launch) (i : BitVec 3) : Word := l.slots.getD i.toNat 0x21
def Launch.syncClass (l : Launch) (i : BitVec 3) : Byte := l.sync.getD i.toNat 1
/-- Copy ring (R350). -/
def Launch.ringLog2 (l : Launch) : Nat := bits l.ring.toNat 26 23
def Launch.ringOff (l : Launch) : Nat := bits l.ring.toNat 22 0
def Launch.ringSize (l : Launch) : Nat := if l.ringLog2 = 0 then 0 else 2 ^ l.ringLog2
def Launch.notifyOff (l : Launch) : Nat := bits l.notify.toNat 22 0

/-! Versions. -/

/-- The domain and slot of a version (R376). -/
def vidDomain (v : VID) : Nat := v.toNat / 64
def vidSlot (v : VID) : Nat := v.toNat % 64
def vidOf (dom slot : Nat) : VID := BitVec.ofNat 10 (64 * dom + slot)

def State.version? (s : State) (v : VID) : Option Version := s.versions.find? fun x => decide (x.vid = v)

/-- A version as memory sees it: a COMMITTED one stands for its domain's root (R383, R386). -/
def State.actual (s : State) (v : VID) : VID :=
  match s.version? v with
  | some x => if x.state = .committed then vidOf (vidDomain v) 0 else v
  | none => v

/-- Whether a version is, or stands for, a domain root (R376, R386). -/
def State.isRoot (s : State) (v : VID) : Bool := decide (vidSlot (s.actual v) = 0)

/-- The version that a group's work carries (R382): that of a predicted task, else its grid's. -/
def State.carries (s : State) (wg grp : Nat) : VID := (s.group wg grp).carried.getD (s.launch wg).version

def State.fibreVid (s : State) (f : Fibre) : VID := s.carries f.wg f.grp

/-- Whether a fibre executes with every effect suppressed: a helper (R205), or a fibre whose task was taken from it (R411, R440). -/
def State.quiet (_s : State) (f : Fibre) : Bool := decide (f.run = .helper) || f.muted

/-- The world of the core that a fibre stands on (R524). -/
def State.secureFibre (s : State) (f : Fibre) : Bool := s.coreWorld f.core

/-- The workgroups of a workgroup's cluster, by rank (R189). -/
def State.peerWg (s : State) (w : Workgroup) (rank : Nat) : Option Workgroup :=
  let c := (s.launch w.id).cluster
  s.wgs.find? fun x => decide (x.grid = w.grid) && decide (x.k2.toNat + w.crank = w.k2.toNat + rank) && decide (rank < c)

end Sys2Proof.Machine
end

