-- ==== Sys2Proof/Machine/Global.lean ====
section
/-! DEFINITION. Global memory below the tile store: committed, private and speculative L2 frames (10 R258 to R263), the core-path read at a snapshot (11 R279, R283), the newest committed data (R286, R287, R292), stores into unpublished lines (R280), publication at a stamp (R261, R277, R281), and reads and writes of versions (15 R383 to R385). Addresses are physical. -/

namespace Sys2Proof.Machine

/-- What a physical address names (R245, R509). -/
inductive Region where
  | hbm (die : Nat) | cxl | control | peer (w : Nat) | host | none
deriving DecidableEq, Repr

def regionOf (pa : Nat) : Region :=
  if pa < 0x5A00000000 then .hbm 0
  else if pa < 0x8000000000 then .none
  else if pa < 0xDA00000000 then .hbm 1
  else if pa < 0x100000000000 then .none
  else if pa < 0x120000000000 then .cxl
  else if pa < 0x1000000000000 then .none
  else if pa < 0x1800000000000 then .control
  else if pa < 0x2000000000000 then .peer ((pa - 0x1800000000000) / 2 ^ 41)
  else if pa < 0x4000000000000 then .host
  else .none

/-- The stamp at which a frame's data is committed: a committed frame's own, or the commit stamp of a speculative frame's version (R260, R395). -/
def State.frameStamp (s : State) (f : Frame) : Option (BitVec 64) :=
  match f.kind with
  | .committed => some f.stamp
  | .priv => none
  | .spec => match s.version? f.vid with
    | some v => if v.state = .committed then some v.stamp else none
    | none => none

/-- Inserts by stamp, newest first. -/
def byStamp (x : BitVec 64 × Frame) : List (BitVec 64 × Frame) → List (BitVec 64 × Frame)
  | [] => [x]
  | y :: r => if y.1.toNat ≤ x.1.toNat then x :: y :: r else y :: byStamp x r

/-- The committed frames of a line with their stamps, newest first. -/
def State.committed (s : State) (line : Nat) : List (BitVec 64 × Frame) :=
  s.mem.frames.foldr (fun f acc =>
    if f.line = line then match s.frameStamp f with
      | some t => byStamp (t, f) acc
      | none => acc
    else acc) []

/-- The first of some cells that holds a byte. -/
def firstHeld (pa : Nat) : List Cells → Option Byte
  | [] => none
  | c :: r => match Memory.get c pa with
    | some b => some b
    | none => firstHeld pa r

/-- The newest committed value of a byte (R259). -/
def State.newestByte (s : State) (pa : Nat) : Byte :=
  (firstHeld pa ((s.committed (pa / 1024)).map (·.2.cells))).getD (Memory.read s.mem.dram pa)

/-- The committed value of a byte at a snapshot stamp (R260 steps 3 and 4); none when the version that the reader needs has been displaced. -/
def State.byteAt (s : State) (sigma : BitVec 64) (pa : Nat) : Option Byte :=
  let fs := s.committed (pa / 1024)
  let seen := fs.filter fun x => decide (x.1.toNat ≤ sigma.toNat)
  if seen = [] ∧ fs ≠ [] then none
  else some ((firstHeld pa (seen.map (·.2.cells))).getD (Memory.read s.mem.dram pa))

/-- Whether two versions name the same memory: equal, or both roots (R376). -/
def State.sameVersion (s : State) (a b : VID) : Bool := decide (s.actual a = s.actual b) || (s.isRoot a && s.isRoot b)

/-- A core's unpublished bytes of a version in its dirty linear lines (R279, R383). -/
def State.dirtyByte (s : State) (core : Nat) (v : VID) (pa : Nat) : Option Byte :=
  firstHeld pa (((s.core core).lines.filter fun l => !l.tensor && s.sameVersion l.vid v).map (·.cells))

/-- A core's private frame of the byte's line (R260 step 2). -/
def State.privateByte (s : State) (core : Nat) (pa : Nat) : Option Byte :=
  firstHeld pa ((s.mem.frames.filter fun f => decide (f.kind = .priv) && decide (f.core = core) && decide (f.line = pa / 1024)).map (·.cells))

/-- A live version's speculative frames of the byte's line (R260 step 1). -/
def State.specByte (s : State) (v : VID) (pa : Nat) : Option Byte :=
  firstHeld pa ((s.mem.frames.filter fun f => decide (f.kind = .spec) && decide (f.vid = v) && decide (f.line = pa / 1024)).map (·.cells))

/-- The versions that a read of `v` searches, nearest first, up to but without the root; a squashed one is never read (R383). -/
def State.chain (s : State) : Nat → VID → List VID
  | 0, _ => []
  | n + 1, v =>
    if s.isRoot v then []
    else match s.version? v with
      | some x => if x.state = .live then v :: State.chain s n (vidOf (vidDomain v) x.parent.toNat) else []
      | none => []

/-- A byte that some version of a search list holds, in its dirty lines on a core where one is given, or in its frames (R383). -/
def State.searchByte (s : State) (core : Option Nat) (pa : Nat) : List VID → Option Byte
  | [] => none
  | u :: r =>
    match (match core with | some c => s.dirtyByte c u pa | none => none) with
    | some b => some b
    | none => match s.specByte u pa with
      | some b => some b
      | none => State.searchByte s core pa r

/-- The stamp at which a version reads committed data on a core: never older than the floor of its domain (R384). -/
def State.readStamp (s : State) (core : Nat) (v : VID) : BitVec 64 :=
  let sg := (s.core core).sigma
  if s.isRoot v then sg
  else
    let fl := (s.domain (vidDomain v)).floor
    if sg.toNat < fl.toNat then fl else sg

/-- The newest stamp that some stamps of bytes hold for a byte. -/
def stampFor (pa : Nat) (xs : List (Nat × BitVec 64)) : BitVec 64 :=
  xs.foldl (fun m x => if x.1 = pa ∧ m.toNat < x.2.toNat then x.2 else m) 0

/-- The stamp at which a fibre of a version reads a committed byte on a core: never behind what the core has published of it, nor what the fibre has read of it (R165, R289). -/
def State.byteStamp (s : State) (core : Nat) (v : VID) (seen : List (Nat × BitVec 64)) (pa : Nat) : BitVec 64 :=
  let r := s.readStamp core v
  let m := stampFor pa ((s.core core).own ++ seen)
  if r.toNat < m.toNat then m else r

/-- A byte of a core's unpublished data, or of the versions that a version searches (R279, R383). -/
def State.nearByte (s : State) (core : Nat) (v : VID) (pa : Nat) : Option Byte :=
  if s.isRoot v then
    match s.dirtyByte core v pa with
    | some b => some b
    | none => s.privateByte core pa
  else s.searchByte (some core) pa (s.chain 64 v)

/-- A core-path read of one byte (R279, R383); none when a catch-up must come first. -/
def State.coreByte (s : State) (core : Nat) (v : VID) (seen : List (Nat × BitVec 64)) (pa : Nat) : Option Byte :=
  match s.nearByte core v pa with
  | some b => some b
  | none => s.byteAt (s.byteStamp core v seen pa) pa

/-- Whether a core-path read of a byte comes to step 4 of R260: no frame that it may take holds the byte. -/
def State.reachesDram (s : State) (core : Nat) (v : VID) (seen : List (Nat × BitVec 64)) (pa : Nat) : Bool :=
  (s.nearByte core v pa).isNone &&
    (firstHeld pa (((s.committed (pa / 1024)).filter fun x => decide (x.1.toNat ≤ (s.byteStamp core v seen pa).toNat)).map (·.2.cells))).isNone

/-- The byte that an engine, an atomic or a poll reads for a version: its own frames, else the newest committed data (R286, R287, R292, R385). -/
def State.newestFor (s : State) (v : VID) (pa : Nat) : Byte :=
  (s.searchByte none pa (s.chain 64 v)).getD (s.newestByte pa)

/-- The sectors of a line that cells touch (R258). -/
def sectorsOf (cs : Cells) : BitVec 32 := cs.foldl (fun m x => m ||| (1#32 <<< (x.1 / 32 % 32))) 0

/-- A frame's bytes in its dirty sectors. -/
def Frame.dirtyOnly (f : Frame) : Cells := f.cells.filter fun x => f.dirty.getLsbD (x.1 / 32 % 32)

/-- Whether an address lies in the CXL tier or in host memory (R269). -/
def tiered (pa : Nat) : Bool := decide (regionOf pa = .cxl) || decide (regionOf pa = .host)

/-- The newest committed value of a byte as a poll reads it: of a CXL-tier or host page, the tier's own byte, from no L2 frame (R271). What is not in the tier yet goes there first (R289; log 61). -/
def State.polledByte (s : State) (pa : Nat) : Byte := if tiered pa then Memory.read s.mem.dram pa else s.newestByte pa

/-- A poll load's byte: the core's own unpublished data first (R286). -/
def State.pollByte (s : State) (core : Nat) (v : VID) (pa : Nat) : Byte :=
  if s.isRoot v then
    match s.dirtyByte core v pa with
    | some b => b
    | none => (s.privateByte core pa).getD (s.polledByte pa)
  else (s.searchByte (some core) pa (s.chain 64 v)).getD (s.polledByte pa)

def State.newestBytes (s : State) (v : VID) (pa n : Nat) : List Byte := (List.range n).map fun i => s.newestFor v (pa + i)

/-- A catch-up (R283): σ becomes stamp(), and the core's count rises modulo 256. -/
def State.catchUp (s : State) (core : Nat) : State :=
  s.modCore core fun c => { c with sigma := s.mem.complete, own := [], caught := c.caught + 1, lines := c.lines.filter fun l => l.tensor || decide (l.cells ≠ []) }

/-- A core-path read of `n` bytes, with the catch-up that it may need (R279, R283). -/
def State.coreRead (s : State) (core : Nat) (v : VID) (seen : List (Nat × BitVec 64)) (pa n : Nat) : State × List Byte :=
  let ps := (List.range n).map (pa + ·)
  if ps.any fun p => decide (s.coreByte core v seen p = none) then
    let s1 := s.catchUp core
    (s1, ps.map fun p => (s1.coreByte core v seen p).getD (s1.newestByte p))
  else (s, ps.map fun p => (s.coreByte core v seen p).getD 0)

/-! Stores. -/

/-- Puts cells into the frame of a line that `same` finds, or into a new frame. -/
def putFrame (fs : List Frame) (same : Frame → Bool) (fresh : Frame) (cs : Cells) : List Frame :=
  if fs.any same then fs.map fun f => if same f then { f with cells := Memory.overlay f.cells cs, dirty := f.dirty ||| sectorsOf cs, overflow := false, used := fresh.used } else f
  else fs ++ [{ fresh with cells := cs, dirty := sectorsOf cs }]

/-- Splits cells by their lines. -/
def linesOf (cs : Cells) : List Nat := (cs.map fun x => x.1 / 1024).eraseDups

/-- Lists the bytes of some cells, the first that holds a byte giving it. -/
def gathered (cs : List Cells) : Cells := cs.foldr (fun c acc => Memory.overlay acc c) []

/-! The ways of a set, and what frees one (R258, R261 to R263). -/

/-- The set of a line among the 16,384 of its die: its number modulo 16,384. R258 gives no index, so this one is the model's (DESIGN CHOICE, log 102). -/
def setOf (line : Nat) : Nat := line % 16384

/-- The die whose L2 is home to a line (R245, R246): within the CXL tier, PA[16] names it. -/
def homeDie (line : Nat) : Nat :=
  match regionOf (1024 * line) with
  | .hbm d => d
  | .cxl => line / 64 % 2
  | _ => 0

/-- The CXL port of an address of the tier (R246). -/
def cxlPort (pa : Nat) : Nat := 4 * (pa / 2 ^ 16 % 2) + pa / 2 ^ 17 % 4

/-- The frames that occupy ways of a line's set. -/
def State.ways (s : State) (line : Nat) : List Frame :=
  s.mem.frames.filter fun f => decide (setOf f.line = setOf line) && decide (homeDie f.line = homeDie line) && !f.overflow

/-- Bytes of an access granule, by its code (R264). -/
def granBytes (g : Nat) : Nat := if g = 5 then 1024 else 32 * 2 ^ g

/-- Reads a table entry from the newest committed data (R448). -/
def State.readEntry (s : State) (pa : Nat) : BitVec 64 := leDWord ((List.range 8).map fun i => s.newestByte (pa + i))

/-- The DRAM granule that the frame table records for an HBM frame (R460). -/
def State.frameGran (s : State) (die : Nat) (pa : Nat) : Nat :=
  let base := if die = 0 then 0 else 0x8000000000
  let e := s.pressReg die 0x08 + 32 * ((pa - base) / 65536) + 8
  bits (s.readEntry e).toNat 60 58

/-- The granule that an L2 miss fetches, in bytes: the frame's own in HBM4E, 64 bytes elsewhere (R265, R270, R271). -/
def State.fetchGranule (s : State) (pa : Nat) : Nat :=
  match regionOf pa with
  | .hbm d => granBytes (min 5 (s.frameGran d pa))
  | _ => 64

/-- The bytes of a frame that go out with its dirty sectors: granules go out whole (R265), with the sectors that the frame holds of them; those that it lacks are read from DRAM first and go back as they are. -/
def State.writeBack (s : State) (f : Frame) : Cells :=
  let n := s.fetchGranule (1024 * f.line)
  f.cells.filter fun x => (List.range 32).any fun i => f.dirty.getLsbD i && decide ((1024 * f.line + 32 * i) / n = x.1 / n)

/-- The committed frames of a line, oldest first. -/
def oldestFirst (fs : List Frame) (line : Nat) : List (BitVec 64 × Frame) :=
  ((fs.filter fun f => decide (f.line = line) && decide (f.kind = .committed)).foldr (fun f acc => byStamp (f.stamp, f) acc) []).reverse

/-- Drops the oldest committed frame of a line into the next newer one, which takes every sector that it lacks (R261). -/
def mergeOldest (fs : List Frame) (line : Nat) : List Frame :=
  match oldestFirst fs line with
  | (t0, f0) :: (t1, f1) :: _ =>
    (fs.filter fun f => !(decide (f.line = line) && decide (f.kind = .committed) && decide (f.stamp = t0))).map fun f =>
      if f.line = line ∧ f.kind = .committed ∧ f.stamp = t1 then
        { f with cells := Memory.overlay f0.cells f1.cells, dirty := f1.dirty ||| (f0.dirty &&& ~~~(sectorsOf f1.cells)) } else f
  | _ => fs

/-- Drops the oldest committed frames of a line until `keep` are left (R261). -/
def mergeDown (keep line : Nat) : Nat → List Frame → List Frame
  | 0, fs => fs
  | n + 1, fs => if (oldestFirst fs line).length ≤ keep then fs else mergeDown keep line n (mergeOldest fs line)

/-- The frames with one version's frame of a line retagged as committed at the version's stamp (R395). -/
def State.retagged (s : State) (fs : List Frame) (v : VID) (line : Nat) : List Frame :=
  match s.version? v with
  | none => fs
  | some x =>
    let mine := fun (f : Frame) => decide (f.kind = .spec) && decide (f.vid = v) && decide (f.line = line)
    let cs := gathered ((fs.filter mine).map (·.cells))
    if x.state ≠ .committed ∨ cs = [] then fs
    else fs.filter (fun f => !(mine f)) ++ [{ line := line, kind := .committed, stamp := x.stamp, cells := cs, dirty := sectorsOf cs, overflow := (fs.filter mine).all (·.overflow), used := s.clock }]

/-- The frames with every frame of a line that a committed version holds retagged (R395): so it is before a committed frame of the line is dropped, or data would come back that a newer commit has replaced (log 99). -/
def State.retagLine (s : State) (fs : List Frame) (line : Nat) : List Frame :=
  ((fs.filter fun f => decide (f.kind = .spec) && decide (f.line = line)).map (·.vid)).foldl (fun fs v => s.retagged fs v line) fs

/-- Drops the oldest committed frame of a line (R261): the dirty sectors of the newest go to DRAM. -/
def State.dropOldest (s : State) (line : Nat) : State :=
  let fs := s.retagLine s.mem.frames line
  match oldestFirst fs line with
  | [] => s
  | [(t, f)] =>
    { s with mem := { s.mem with dram := Memory.writeAll s.mem.dram (s.writeBack f)
                                 frames := fs.filter fun x => !(decide (x.line = line) && decide (x.kind = .committed) && decide (x.stamp = t)) } }
  | _ => { s with mem := { s.mem with frames := mergeOldest fs line } }

/-- Whether a core could take a sector of a committed frame under R260: at its σ, or as the newest data. -/
def State.taken (s : State) (f : Frame) : Bool :=
  let line := s.committed f.line
  let hides := fun (top : Option Nat) =>
    let above := line.filter fun x => decide (f.stamp.toNat < x.1.toNat) && (match top with | some t => decide (x.1.toNat ≤ t) | none => true)
    let have_ := above.foldl (fun m x => m ||| sectorsOf x.2.cells) 0
    decide (sectorsOf f.cells &&& ~~~have_ = 0)
  let cores := (s.cores.filter fun c => decide (f.stamp.toNat ≤ c.sigma.toNat)).any fun c => !(hides (some c.sigma.toNat))
  cores || !(hides none)

/-- Whether a line lies in a copy frame of a version (R389). -/
def State.inCopyFrame (s : State) (v : VID) (line : Nat) : Bool :=
  match s.version? v with
  | some x => x.copies.any fun c => decide (c.2 / 1024 ≤ line) && decide (line < c.2 / 1024 + 64)
  | none => false

/-- Whether a version is squashed, or its slot FREE: its frames are free ways, which the part frees lazily (R398). -/
def State.deadVersion (s : State) (v : VID) : Bool :=
  match s.version? v with
  | some x => decide (x.state = .squashed)
  | none => true

/-- Whether a domain's overflow area has room for another line (R263, R387). -/
def State.overRoom (s : State) (d : Nat) : Bool :=
  decide ((s.mem.frames.filter fun f => decide (f.kind = .spec) && f.overflow && decide (vidDomain f.vid = d)).length < 1024 * s.domField d 8 4)

/-- Writes a speculative frame out (R262, R387, R389): to its copy frame, or to its domain's overflow area. -/
def State.evictSpec (s : State) (f : Frame) : State :=
  let same := fun (x : Frame) => decide (x.kind = .spec) && decide (x.vid = f.vid) && decide (x.line = f.line)
  if s.inCopyFrame f.vid f.line then
    { s with mem := { s.mem with dram := Memory.writeAll s.mem.dram f.cells, frames := s.mem.frames.filter fun x => !(same x) } }
  else { s with mem := { s.mem with frames := s.mem.frames.map fun x => if same x then { x with overflow := true, dirty := 0 } else x } }

/-- Writes a private frame out to its core's overflow area (R262, R263). -/
def State.evictPriv (s : State) (f : Frame) : State :=
  { s with mem := { s.mem with frames := s.mem.frames.map fun x =>
      if x.kind = .priv ∧ x.core = f.core ∧ x.line = f.line then { x with overflow := true, dirty := 0 } else x } }

/-- Of some frames, the least recently used, the first of those used at one clock. -/
def leastUsed : List Frame → Option Frame
  | [] => none
  | f :: r => match leastUsed r with
    | none => some f
    | some g => some (if f.used ≤ g.used then f else g)

/-- The victim that a line's set offers (R262), least recently used within its kind: a frame of no living version; a committed one that no reader takes; the oldest committed one of its line; a speculative one whose domain's overflow area has room (R387); a private one. -/
def State.victim? (s : State) (line : Nat) : Option Frame :=
  let ways := s.ways line
  let com := ways.filter fun f => (s.frameStamp f).isSome
  [ways.filter fun f => decide (f.kind = .spec) && s.deadVersion f.vid,
   com.filter fun f => !(s.taken f),
   com.filter fun f => ((s.committed f.line).getLast?).map (·.1) = s.frameStamp f,
   ways.filter fun f => decide (f.kind = .spec) && (s.frameStamp f).isNone && s.overRoom (vidDomain f.vid),
   ways.filter fun f => decide (f.kind = .priv)].findSome? leastUsed

/-- Frees a way of a line's set when all sixteen are taken (R258, R262). Where a committed frame is selected, it is the oldest of its line that goes (R261). -/
def State.freeWay (s : State) (line : Nat) : State :=
  if (s.ways line).length < 16 then s
  else match s.victim? line with
    | none => s
    | some f =>
      if (s.frameStamp f).isSome then s.dropOldest f.line
      else match f.kind with
        | .committed => s
        | .spec =>
          if s.deadVersion f.vid then { s with mem := { s.mem with frames := s.mem.frames.filter fun x => !(decide (x.kind = .spec) && decide (x.vid = f.vid) && decide (x.line = f.line)) } }
          else s.evictSpec f
        | .priv => s.evictPriv f

/-- Whether a new frame of a line finds no way and no victim: an access that needs one waits (R387). -/
def State.noWay (s : State) (line : Nat) : Bool := decide (16 ≤ (s.ways line).length) && (s.victim? line).isNone

/-- Puts cells of one line into the frame that `same` finds, or into a new one, for which a way is freed. -/
def State.putIn (s : State) (line : Nat) (same : Frame → Bool) (fresh : Frame) (cs : Cells) : State :=
  let s1 := if (s.mem.frames.filter same).any (fun f => !f.overflow) then s else s.freeWay line
  { s1 with mem := { s1.mem with frames := putFrame s1.mem.frames same { fresh with used := s.clock } cs } }

/-- Moves bytes into a core's private frames (R272, R273). -/
def State.privatePut (s : State) (core : Nat) (cs : Cells) : State :=
  (linesOf cs).foldl (fun (t : State) l =>
    t.putIn l (fun f => decide (f.kind = .priv) && decide (f.core = core) && decide (f.line = l))
      { line := l, kind := .priv, core := core, cells := [] } (cs.filter fun x => decide (x.1 / 1024 = l))) s

/-- Moves bytes into a version's speculative frames (R385). A squashed version's bytes are dropped (R397). -/
def State.specPut (s : State) (v : VID) (cs : Cells) : State :=
  match s.version? v with
  | some x =>
    if x.state = .live then
      (linesOf cs).foldl (fun (t : State) l =>
        t.putIn l (fun f => decide (f.kind = .spec) && decide (f.vid = v) && decide (f.line = l))
          { line := l, kind := .spec, vid := v, cells := [] } (cs.filter fun x => decide (x.1 / 1024 = l))) s
    else s
  | none => s

/-- A use of a line's frames (R262); those in an overflow area come back, each into a way that is freed for it (R263). -/
def State.useLine (s : State) (line : Nat) : State :=
  let away := (s.mem.frames.filter fun f => decide (f.line = line) && f.overflow).length
  let s1 := (List.range away).foldl (fun (t : State) _ => t.freeWay line) s
  { s1 with mem := { s1.mem with frames := s1.mem.frames.map fun f => if f.line = line then { f with overflow := false, used := s.clock } else f } }

/-! The tile store (R252, R253, R257). -/

/-- The cores whose tile stores fused mode joins for a core's fibres: those of the fused workgroup's cluster by rank; none when the core is not in fused mode. -/
def State.fusedCores (s : State) (core : Nat) : List Nat :=
  match s.wgs.find? fun w => decide (w.core = core) && w.resident && (s.launch w.id).fused with
  | none => []
  | some w => (List.range 4).filterMap fun r => (s.peerWg w r).map (·.core)

/-- The slice of a linear line: in fused mode VA[11:10] XOR VA[13:12] names its rank (R257). A cluster of two has no rank 2 or 3; there the rank is taken modulo 2 (log 103). -/
def State.sliceOf (s : State) (core va : Nat) : Nat :=
  let cs := s.fusedCores core
  cs.getD ((va / 2 ^ 10 % 4 ^^^ va / 2 ^ 12 % 4) % max 1 cs.length) core

/-- The set of a line among the 64 of a tile store: TCOL modulo 64 (DESIGN CHOICE, log 102). -/
def Line.set (l : Line) : Nat := l.tcol % 64

/-- The lines in a set of a tile store, with the cores in whose records they stand. -/
def State.tileWays (s : State) (slice set : Nat) : List (Nat × Line) :=
  (List.range s.cores.length).flatMap fun c => ((s.core c).lines.filter fun l => decide (l.slice = slice) && decide (l.set = set)).map fun l => (c, l)

/-- Of some lines, the least recently used. -/
def oldestLine : List (Nat × Line) → Option (Nat × Line)
  | [] => none
  | x :: r => match oldestLine r with
    | none => some x
    | some y => some (if x.2.used ≤ y.2.used then x else y)

/-- A line leaves its tile store: a dirty one's bytes go to its core's private frame, or to its version's frame (R252, R262, R280, R385). -/
def State.evictLine (s : State) (core : Nat) (l : Line) : State :=
  let s1 := s.modCore core fun c => { c with lines := c.lines.erase l }
  if l.tensor ∨ l.cells = [] then s1 else if s.isRoot l.vid then s1.privatePut core l.cells else s1.specPut (s.actual l.vid) l.cells

/-- Brings a line into its tile store, the least recently used of a full set making room (R252). -/
def State.bringLine (s : State) (core : Nat) (l : Line) : State :=
  let ways := s.tileWays l.slice l.set
  let s1 := if ways.length < 16 then s else match oldestLine ways with
    | none => s
    | some x => s.evictLine x.1 x.2
  s1.modCore core fun c => { c with lines := c.lines ++ [l] }

/-- The rank that OWNER names in a core's lines (R252): 0 outside fused mode. -/
def State.ownerRank (s : State) (core : Nat) : Nat := (s.fusedCores core).idxOf core % max 1 (s.fusedCores core).length

/-- A new linear line of a core at an address. -/
def State.freshLine (s : State) (core : Nat) (v : VID) (va pa : Nat) (cs : Cells) : Line :=
  { vid := s.actual v, tensor := false, owner := s.ownerRank core, trow := va / 2 ^ 29, tcol := va / 1024 % 2 ^ 19
    slice := s.sliceOf core va, used := s.clock, lines := [pa / 1024], cells := cs }

/-- Whether a line is a version's linear line at a virtual address (R253). -/
def State.lineAt (s : State) (v : VID) (va : Nat) (l : Line) : Bool :=
  !l.tensor && s.sameVersion l.vid (s.actual v) && decide (l.trow = va / 2 ^ 29) && decide (l.tcol = va / 1024 % 2 ^ 19)

/-- Puts bytes into the core's dirty line of a version, allocated if needed (R253, R272). Older bytes of the same addresses, in lines of other virtual addresses, go: a store that has landed is visible at once (R279). -/
def State.dirtyPut (s : State) (core : Nat) (v : VID) (va pa : Nat) (bs : List Byte) : State :=
  let hit := s.lineAt v va
  let put := fun (l : Line) =>
    if hit l then { l with cells := Memory.putN l.cells pa bs, used := s.clock }
    else if !l.tensor && s.sameVersion l.vid (s.actual v) then { l with cells := Memory.clear l.cells pa bs.length } else l
  let s1 := s.modCore core fun c => { c with lines := c.lines.map put }
  if (s.core core).lines.any hit then s1 else s1.bringLine core (s.freshLine core v va pa (Memory.putN [] pa bs))

/-- A load's use of the tile store (R252, R257, R272): a line that is there is used; where none is, a clean one is brought in. -/
def State.useTile (s : State) (core : Nat) (v : VID) (va pa : Nat) : State :=
  let hit := s.lineAt v va
  let touch := fun (c : Core) => { c with lines := c.lines.map fun l => if hit l then { l with used := s.clock } else l }
  if (s.core core).lines.any hit then s.modCore core touch
  else match (s.fusedCores core).find? fun c => (s.core c).lines.any fun l => hit l && decide (l.cells = []) with
    | some c => s.modCore c touch
    | none => s.bringLine core (s.freshLine core v va pa [])

/-- The cells of a core's dirty linear lines of the versions that `p` picks. -/
def State.dirtyCells (s : State) (core : Nat) (p : VID → Bool) : Cells :=
  gathered (((s.core core).lines.filter fun l => !l.tensor && p l.vid).map (·.cells))

/-- The bytes that a core's private frames hold of their lines, all together (R272). -/
def State.privateCells (s : State) (core : Nat) : Cells :=
  gathered ((s.mem.frames.filter fun f => decide (f.kind = .priv) && decide (f.core = core)).map fun f => f.cells.filter fun x => decide (x.1 / 1024 = f.line))

/-- Moves a line's dirty root data into the core's private frame (R160, R272, R273, R280); with `inval` the core's copies of the line go as well. -/
def State.cleanLine (s : State) (core : Nat) (line : Nat) (inval : Bool) : State :=
  let inside := fun (x : Host.Cell) => decide (x.1 / 1024 = line)
  let cs := (s.dirtyCells core s.isRoot).filter inside
  let mine := fun (l : Line) => !l.tensor && s.isRoot l.vid
  let strip := fun (l : Line) => if mine l then { l with cells := l.cells.filter fun x => !(inside x) } else l
  (s.privatePut core cs).modCore core fun c =>
    { c with lines := (c.lines.map strip).filter fun l => !(inval && mine l && l.lines.contains line && decide (l.cells = [])) }

/-! Publication. -/

/-- Ends the waits at a GBAR word that a write other than a GBAR's own overlaps (R305). -/
def State.clobber (s : State) (hit : GbarWait → Bool) : State :=
  { s with fibres := s.fibres.map fun f =>
      match f.gbar with
      | some w => if !w.done && !w.away && hit w then { f with gbar := some { w with done := true, clob := true } } else f
      | none => f }

/-- Whether a version's cells overlap the four bytes of a barrier word. -/
def State.overlapsWord (s : State) (v : VID) (cs : Cells) (w : GbarWait) : Bool :=
  match w.place with
  | .pa a => s.sameVersion w.vid v && cs.any fun x => decide (a ≤ x.1) && decide (x.1 < a + 4)
  | .pad _ _ => false
  | .gone => false

/-- The sectors that cells touch, whole: the cells over the newest committed value of the other bytes (R261). -/
def State.wholeSectors (s : State) (cs : Cells) : Cells :=
  let secs := (cs.map fun x => x.1 / 32).eraseDups
  secs.foldl (fun acc k => (List.range 32).foldl (fun a i =>
    let p := 32 * k + i
    Memory.put a p ((Memory.get cs p).getD (s.newestByte p))) acc) []

/-- Keeps a line to four committed frames (R259, R261). -/
def State.trimFrames (s : State) (fs : List Frame) (line : Nat) : List Frame :=
  if (oldestFirst fs line).length ≤ 4 then fs else mergeDown 4 line fs.length (s.retagLine fs line)

/-- Retags one speculative frame of a committed version as committed at the version's stamp (R395). -/
def State.retag (s : State) (v : VID) (line : Nat) : State :=
  { s with mem := { s.mem with frames := s.trimFrames (s.retagged s.mem.frames v line) line } }

/-- Commits whole sectors of one line at a stamp: into a frame of that stamp, or a new one (R261, R287). A line that has four committed frames gives a way up by dropping its oldest; else a way is freed. -/
def State.commitLine (s : State) (stamp : BitVec 64) (line : Nat) (cs : Cells) : State :=
  let same := fun (f : Frame) => decide (f.kind = .committed) && decide (f.line = line) && decide (f.stamp = stamp)
  let s1 := if s.mem.frames.any same || decide (4 ≤ (oldestFirst s.mem.frames line).length) then s else s.freeWay line
  { s1 with mem := { s1.mem with frames := s1.trimFrames (putFrame s1.mem.frames same { line := line, kind := .committed, stamp := stamp, cells := [], used := s.clock } cs) line } }

/-- Notes that lines have been published at a stamp (R256, R291). -/
def notePub (xs : List (Nat × BitVec 64)) (stamp : BitVec 64) (lines : List Nat) : List (Nat × BitVec 64) :=
  lines.map (fun l => (l, stamp)) ++ xs.filter fun x => !(lines.contains x.1)

/-- Commits cells at a stamp: one frame for each line, merged with a frame of the same stamp (R261, R287). -/
def State.commitCells (s : State) (stamp : BitVec 64) (cs : Cells) : State :=
  let whole := s.wholeSectors cs
  let s1 := (linesOf whole).foldl (fun (t : State) l => t.commitLine stamp l (whole.filter fun x => decide (x.1 / 1024 = l))) s
  { s1 with mem := { s1.mem with lastPub := notePub s1.mem.lastPub stamp (linesOf cs) } }

/-- Completes the pending publication with the least stamp (R277): its bytes are held in the home L2s, and stamp() reaches its stamp. -/
def State.completePub (s : State) (p : Pub) : State :=
  let s1 := if s.isRoot p.vid then (s.commitCells p.stamp p.cells).clobber (s.overlapsWord 0 p.cells) else (s.specPut p.vid p.cells).clobber (s.overlapsWord p.vid p.cells)
  { s1 with mem := { s1.mem with pubs := s1.mem.pubs.filter fun q => decide (q.stamp ≠ p.stamp), complete := p.stamp } }

/-- Completes every pending publication, in stamp order (R277). -/
def State.drainPubs (s : State) : State := s.mem.pubs.foldl (fun (t : State) p => t.completePub p) s

/-- Publishes bytes at the next stamp, after every earlier publication (R277); `gbar` marks a GBAR's own write, which clobbers nothing (R305). -/
def State.publishCells (s : State) (cs : Cells) (gbar : Bool) : State :=
  let s0 := s.drainPubs
  let t := s0.mem.stamp + 1
  let s1 : State := { s0 with mem := { s0.mem with stamp := t } }
  let s2 := s1.commitCells t cs
  let s3 := if gbar then s2 else s2.clobber (s.overlapsWord 0 cs)
  { s3 with mem := { s3.mem with complete := t } }

/-- Takes a stamp for bytes that an engine's command publishes when they reach the home L2s (R277, R292). -/
def State.postPub (s : State) (v : VID) (owner : Nat) (cs : Cells) : State :=
  let t := s.mem.stamp + 1
  { s with mem := { s.mem with stamp := t, pubs := s.mem.pubs ++ [⟨t, cs, v, owner⟩] } }

/-- Notes the bytes that a core has just published (R165, R289). -/
def State.owns (s : State) (core : Nat) (cs : Cells) : State :=
  s.modCore core fun c => { c with own := cs.map (fun x => (x.1, s.mem.complete)) ++ c.own.filter fun x => !(cs.any fun y => decide (y.1 = x.1)) }

/-- Notes that a fibre has read the newest value of some bytes (R165, R289). -/
def State.saw (s : State) (f : FibreKey) (pa n : Nat) : State :=
  s.modFibre f fun x => { x with seen := (List.range n).map (fun i => (pa + i, s.mem.complete)) ++ x.seen.filter fun y => decide ((s.core x.core).sigma.toNat < y.2.toNat) && !(decide (pa ≤ y.1) && decide (y.1 < pa + n)) }

/-- The publishing boundary of a core (R281): one stamp is taken, whatever there is to publish; the core's unpublished root data becomes committed at it, and that of other versions moves to their speculative frames (R385). Its dirty lines are clean from then on. -/
def State.publishCore (s : State) (core : Nat) : State :=
  let cs := Memory.overlay (s.privateCells core) (s.dirtyCells core s.isRoot)
  let others := (s.core core).lines.filter fun l => !l.tensor && !s.isRoot l.vid
  let s1 := others.foldl (fun (t : State) l => (t.specPut l.vid l.cells).clobber (s.overlapsWord l.vid l.cells)) s
  let s2 : State := { s1 with mem := { s1.mem with frames := s1.mem.frames.filter fun f => !(decide (f.kind = .priv) && decide (f.core = core)) } }
  let s3 := s2.modCore core fun c => { c with lines := c.lines.map fun l => if l.tensor then l else { l with cells := [] } }
  (s3.publishCells cs false).owns core cs

/-- The lines of a tile store but for the clean linear ones, which a new σ makes old (log 3). -/
def withoutClean (ls : List Line) : List Line := ls.filter fun l => l.tensor || decide (l.cells ≠ [])

/-- The snapshot boundary of a core (R282). -/
def State.snapshot (s : State) (core : Nat) : State := s.modCore core fun c => { c with sigma := s.mem.complete, own := [], lines := withoutClean c.lines }

/-- Whether a tensor line holds an address that has been published since it was filled (R256, R291). -/
def State.stale (s : State) (l : Line) : Bool :=
  s.mem.lastPub.any fun x => l.lines.contains x.1 && decide (l.filled.toNat < x.2.toNat)

/-- Drops the tensor lines that hold published addresses, as a release or FENCE with X or M does (R256, R291, R294). -/
def State.dropTensors (s : State) : State :=
  { s with cores := s.cores.map fun c => { c with lines := c.lines.filter fun l => !(l.tensor && s.stale l) } }

/-- Writes bytes at the newest committed data, at a stamp of their own, for a version: into its speculative frame when it is not a root (R287, R385, R486). -/
def State.writeNewest (s : State) (v : VID) (cs : Cells) (gbar : Bool) : State :=
  if s.isRoot v then s.publishCells cs gbar
  else
    let s1 := s.specPut (s.actual v) cs
    if gbar then s1 else s1.clobber (s.overlapsWord v cs)

/-- Publishes a core's unpublished bytes among those of an atomic, immediately before it (R287). -/
def State.publishBytes (s : State) (core : Nat) (v : VID) (pa n : Nat) : State :=
  let inside := fun (x : Host.Cell) => decide (pa ≤ x.1) && decide (x.1 < pa + n)
  let priv := if s.isRoot v then (s.privateCells core).filter inside else []
  let cs := Memory.overlay priv ((s.dirtyCells core (fun u => s.sameVersion u v)).filter inside)
  if cs = [] then s
  else
    let strip := fun (f : Frame) =>
      if s.isRoot v && decide (f.kind = .priv) && decide (f.core = core) then { f with cells := Memory.clear f.cells pa n } else f
    let clean := fun (l : Line) =>
      if !l.tensor && s.sameVersion l.vid v then { l with cells := Memory.clear l.cells pa n } else l
    let s1 : State := { s with mem := { s.mem with frames := s.mem.frames.map strip } }
    let s2 := s1.modCore core fun c => { c with lines := c.lines.map clean }
    let s3 := s2.writeNewest v cs false
    if s.isRoot v then s3.owns core cs else s3

/-- Cells of consecutive bytes. -/
def cellsAt (pa : Nat) (bs : List Byte) : Cells := Memory.putN [] pa bs

/-- Writes what a line's committed frames hold and the tier lacks through to it, the newest of each byte (R265, R291). -/
def State.writeThrough (s : State) (line : Nat) : State :=
  match s.committed line with
  | [] => s
  | fs =>
    let cs := gathered (fs.map fun x => s.writeBack x.2)
    { s with mem := { s.mem with dram := Memory.writeAll s.mem.dram cs
                                 frames := s.mem.frames.map fun f => if f.line = line ∧ f.kind = .committed then { f with dirty := 0 } else f } }

/-- The lines of host memory whose committed bytes have not reached it. -/
def State.hostDirty (s : State) : List Nat :=
  ((s.mem.frames.filter fun f => decide (f.dirty ≠ 0) && decide (f.kind = .committed) && decide (regionOf (1024 * f.line) = .host)).map (·.line)).eraseDups

/-- Forgets the sectors of committed host lines that are not dirty, so that the next read of each fetches host memory (R291, acquire with H). -/
def State.refetchHost (s : State) : State :=
  let host := fun (f : Frame) => decide (f.kind = .committed) && decide (regionOf (1024 * f.line) = .host)
  { s with mem := { s.mem with frames := (s.mem.frames.map fun f => if host f then { f with cells := f.dirtyOnly } else f).filter fun f => !(host f && decide (f.cells = [])) } }

/-- What the observers of a release do to what is committed (R291): tensor lines go for X and M, and the write-through for H. -/
def State.observe (s : State) (obs : BitVec 5) : State :=
  let s1 := if obs.getLsbD 1 || obs.getLsbD 2 then s.dropTensors else s
  if obs.getLsbD 4 then s1.hostDirty.foldl (fun (t : State) l => t.writeThrough l) s1 else s1

/-- Whether observers make a publishing boundary of a release (R281, R291): C, X, M or H. -/
def boundaryObs (obs : BitVec 5) : Bool := obs.getLsbD 0 || obs.getLsbD 1 || obs.getLsbD 2 || obs.getLsbD 4

/-- Bytes of the newest data that an engine, an atomic or a poll of a version finds in no frame (R260 step 4, R383). -/
def State.missesNewest (s : State) (v : VID) (pa : Nat) : Bool :=
  (s.searchByte none pa (s.chain 64 v)).isNone && (firstHeld pa ((s.committed (pa / 1024)).map (·.2.cells))).isNone

end Sys2Proof.Machine
end

