-- ==== Sys2Proof/Machine/Translate.lean ====
section
/-! DEFINITION. Translation of global addresses (18 R445 to R451): the walk, the checks of R447 in their order, the A and D bits (R448), the cached translations of a core and a lane column (R449), and the stack extents that tell STACK_GROWTH from PAGE_NOT_PRESENT (06 R175, R176, R530). -/

namespace Sys2Proof.Machine

/-- Fields of a leaf (R446). -/
def leafP (l : BitVec 64) : Bool := l.getLsbD 63
def leafS (l : BitVec 64) : Bool := l.getLsbD 62
def leafHb (l : BitVec 64) : Bool := l.getLsbD 61
def leafCow (l : BitVec 64) : Bool := l.getLsbD 60
def leafWpw (l : BitVec 64) : Bool := l.getLsbD 59
def leafVp (l : BitVec 64) : Bool := l.getLsbD 58
def leafZ (l : BitVec 64) : Bool := l.getLsbD 57
def leafTier (l : BitVec 64) : Nat := bits l.toNat 56 55
def leafGran (l : BitVec 64) : Nat := bits l.toNat 54 52
def leafFrame (l : BitVec 64) : Nat := bits l.toNat 49 16
def leafD (l : BitVec 64) : Bool := l.getLsbD 7
def leafA (l : BitVec 64) : Bool := l.getLsbD 6
def leafU (l : BitVec 64) : Bool := l.getLsbD 5
def leafX (l : BitVec 64) : Bool := l.getLsbD 4
def leafW (l : BitVec 64) : Bool := l.getLsbD 3
def leafR (l : BitVec 64) : Bool := l.getLsbD 2
def leafV (l : BitVec 64) : Bool := l.getLsbD 0

/-- What an access needs (R151), and the bits of TRAPINFO that describe it (R430). -/
structure Need where
  write : Bool := false
  read : Bool := true
  exec : Bool := false
  spill : Bool := false
deriving DecidableEq, Repr

/-- Who makes an access: its level, world and version; a fibre also has a lane column, with its last-page register, and stack extents. -/
structure Who where
  level : Level
  secure : Bool
  vid : VID
  lane : Option (Nat × Nat × BitVec 6) := none
  blocks : List (Nat × Nat) := []
deriving DecidableEq, Repr

/-- What an entry of a walk is (R445, R447 steps 1 and 2). -/
inductive Entry1 where
  | absent | bad | table (next : Nat) | leaf
deriving DecidableEq, Repr

/-- Reads an entry's kind at a level. -/
def entryKind (level : Nat) (e : BitVec 64) : Entry1 :=
  let n := e.toNat
  if !leafV e then .absent
  else if leafR e || leafW e || leafX e then
    if level = 1 then .bad
    else if bits n 1 1 ≠ 0 ∨ bits n 51 50 ≠ 0 ∨ bits n 15 8 ≠ 0 then .bad
    else if level = 2 ∧ bits n 20 16 ≠ 0 then .bad
    else if leafW e && !leafR e then .bad
    else .leaf
  else if level = 3 then .bad
  else if bits n 63 50 ≠ 0 ∨ bits n 7 1 ≠ 0 then .bad
  else
    let next := bits n 49 8 * 256
    if level = 1 ∧ next % 65536 ≠ 0 then .bad else .table next

/-- How a walk ends. -/
inductive Walked where
  | leaf (e : BitVec 64) (pa log2 : Nat)
  | absent (level : Nat)
  | bad
deriving DecidableEq, Repr

/-- Levels 3, 2 and 1 of a walk, each from its table (R445). -/
def State.walk3 (s : State) (table : Nat) (va : Nat) : Walked :=
  let pa := table + 8 * bits va 20 16
  let e := s.readEntry pa
  match entryKind 3 e with
  | .absent => .absent 3
  | .leaf => .leaf e pa 16
  | .bad => .bad
  | .table _ => .bad

def State.walk2 (s : State) (table : Nat) (va : Nat) : Walked :=
  let pa := table + 8 * bits va 33 21
  let e := s.readEntry pa
  match entryKind 2 e with
  | .absent => .absent 2
  | .leaf => .leaf e pa 21
  | .bad => .bad
  | .table n => s.walk3 n va

/-- The walk of a virtual address from PTROOT (R445). -/
def State.walk (s : State) (va : Nat) : Walked :=
  let e := s.readEntry (s.ptRoot + 8 * bits va 47 34)
  match entryKind 1 e with
  | .absent => .absent 1
  | .leaf => .bad
  | .bad => .bad
  | .table n => s.walk2 n va

/-- The checks of a leaf's TIER, GRAN and frame (R447 step 4; R245, R264, R269, R428, R509). -/
def State.frameOk (s : State) (level : Level) (leaf : BitVec 64) (pa : Nat) : Bool :=
  match regionOf pa with
  | .hbm d => decide (leafTier leaf = 0) && decide (leafGran leaf ≤ 5) && decide (leafGran leaf = s.frameGran d pa)
  | .cxl => decide (leafTier leaf = 1)
  | .host => decide (leafTier leaf = 2)
  | .control => decide (leafTier leaf = 0) && decide (level = .s)
  | .peer _ => decide (leafTier leaf = 0)
  | .none => false

/-- TRAPINFO of a memory fault (R430). -/
def faultInfo (n : Need) (lvl : Nat) : Word :=
  BitVec.ofNat 32 (n.spill.toNat * 2 ^ 14 + n.write.toNat * 2 ^ 12 + n.exec.toNat * 2 ^ 11 + lvl * 2 ^ 9)

/-- A memory fault at a virtual address. -/
def memTrap (c : Code) (va : VA) (n : Need) (lvl : Nat) : Trap :=
  { code := c, addr := va.setWidth 64, info := faultInfo n lvl }

/-- Whether the frame of a physical address holds a poisoned line that is not under a host refetch (R473, R474). -/
def State.pagePoisoned (s : State) (pa : Nat) : Bool := s.mem.poison.any fun l => decide (l / 64 = pa / 65536) && !(s.mem.refetch.contains l)

/-- Where a version finds a versioned page's bytes: the copy frame of the nearest version that holds one, and the version at which to search there (R383). -/
def State.copyOf (s : State) (leafPa : Nat) : List VID → Option (Nat × VID)
  | [] => none
  | u :: r =>
    match (s.version? u).bind fun x => x.copies.find? fun c => decide (c.1 = leafPa) with
    | some c => some (c.2, u)
    | none => State.copyOf s leafPa r

/-- What a translation answers. -/
inductive TRes where
  | ok (pa : Nat) (vid : VID) (leafPa : Nat) (leaf : BitVec 64)
  | fault (t : Trap)
deriving DecidableEq, Repr

/-- Steps 3 to 7 of R447, and the choice of a versioned page's frame (R383, R388 to R390). -/
def State.checkLeaf (s : State) (w : Who) (va : VA) (n : Need) (leaf : BitVec 64) (leafPa log2 : Nat) : TRes :=
  let off := va.toNat % 2 ^ log2
  let pa := leafFrame leaf * 65536 + off
  let prot := TRes.fault (memTrap .pageProtection va n 0)
  if (leafS leaf && !w.secure) || (n.read && !leafR leaf) || (n.write && !leafW leaf) || (n.exec && !leafX leaf) ||
      (!leafU leaf && decide (w.level = .u)) then prot
  else if !leafZ leaf && (!s.frameOk w.level leaf pa || (s.secureAt pa && !w.secure) || (w.secure && (leafS leaf != s.secureAt pa))) then prot
  else if leafP leaf || (!leafZ leaf && s.pagePoisoned pa) then .fault (memTrap .poison va n 0)
  else if leafZ leaf then .fault (memTrap .compressedPage va n 0)
  else if n.write && leafWpw leaf then .fault (memTrap .writeProtectWindow va n 0)
  else if n.write && leafCow leaf then .fault (memTrap .copyOnWrite va n 0)
  else if leafVp leaf && !s.isRoot w.vid then
    if n.write then
      match (s.version? w.vid).bind fun x => x.copies.find? fun c => decide (c.1 = leafPa) with
      | some c => .ok (c.2 + off) w.vid leafPa leaf
      | none =>
        let dom := vidDomain w.vid
        if log2 = 21 ∨ leafGran leaf ≠ bits (s.domField dom 56 1) 3 1 then prot
        else if s.domField dom 24 4 = 0 then .fault (memTrap .versionPoolEmpty va n 0)
        else .fault (memTrap .versionPage va n 0)
    else
      match s.copyOf leafPa (s.chain 64 w.vid) with
      | some c => .ok (c.1 + off) c.2 leafPa leaf
      | none => .ok pa w.vid leafPa leaf
  else .ok pa w.vid leafPa leaf

/-- Sets bits of a leaf by an atomic OR (R448); a leaf that has them already is left alone. -/
def State.orLeaf (s : State) (leafPa : Nat) (mask : BitVec 64) : State :=
  let e := s.readEntry leafPa
  if e ||| mask = e then s else s.publishCells (cellsAt leafPa (leBytes 8 (e ||| mask).toNat)) false

/-- A cached translation that covers an address. -/
def Trans.covers (t : Trans) (va : Nat) : Bool := decide (t.base.toNat / 2 ^ t.log2 = va / 2 ^ t.log2)

/-- Whether an access may use a cached translation; a write does not use a copy with D = 0 (R449). -/
def Trans.serves (t : Trans) (va : VA) (n : Need) : Bool := t.covers va.toNat && !(n.write && !leafD t.leaf)

/-- The translation that a lane's last-page register holds for an access (R449). -/
def State.lanePage (s : State) (w : Who) (va : VA) (n : Need) : Option Trans :=
  match w.lane with
  | none => none
  | some (core, part, col) => ((s.core core).lastPages.find? fun p => decide (p.part = part) && decide (p.col = col) && p.page.serves va n).map LastPage.page

/-- The translation that a core's TLB holds for an access of one of its lanes (R449). -/
def State.tlbPage (s : State) (w : Who) (va : VA) (n : Need) : Option Trans :=
  match w.lane with
  | none => none
  | some (core, _, _) => (s.core core).tlb.find? fun t => t.serves va n

/-- Fills a lane's register, and its core's TLB of 4,096 entries, with a translation; the one that was used longest ago goes for capacity (R449; the choice is log 110). -/
def State.fillTlb (s : State) (w : Who) (t : Trans) : State :=
  match w.lane with
  | none => s
  | some (core, part, col) => s.modCore core fun c =>
      { c with tlb := (t :: c.tlb.filter (fun x => !(decide (x.base = t.base) && decide (x.log2 = t.log2)))).take 4096
               lastPages := ⟨part, col, t⟩ :: c.lastPages.filter fun p => !(decide (p.part = part) && decide (p.col = col)) }

/-- Whether a virtual address lies in one of a fibre's stack extents. -/
def inExtents (xs : List (Nat × Nat)) (va : Nat) : Bool := xs.any fun x => decide (x.1 ≤ va) && decide (va < x.1 + x.2)

/-- A walk for an access (R445, R447, R448): it sets A, and D for a write that passes, and fills the caches. -/
def State.walkFor (s : State) (w : Who) (va : VA) (n : Need) : State × TRes :=
  match s.walk va.toNat with
  | .absent l => (s, .fault (memTrap (if inExtents w.blocks va.toNat then .stackGrowth else .pageNotPresent) va n l))
  | .bad => (s, .fault (memTrap .pageProtection va n 0))
  | .leaf e pa log2 =>
    let res := s.checkLeaf w va n e pa log2
    let dirty := match res with
      | .ok _ _ _ _ => n.write
      | .fault _ => false
    let mask : BitVec 64 := if dirty then 0xC0 else 0x40
    let t : Trans := ⟨BitVec.ofNat 48 (va.toNat / 2 ^ log2 * 2 ^ log2), log2, e ||| mask, pa⟩
    ((s.orLeaf pa mask).fillTlb w t, res)

/-- Translates a global address (R447 to R449): through the lane's register, then the core's TLB, which refills it, then a walk. The state changes by the A and D bits and the cached copies. -/
def State.translate (s : State) (w : Who) (va : VA) (n : Need) : State × TRes :=
  match s.lanePage w va n, s.tlbPage w va n with
  | some t, _ => (s, s.checkLeaf w va n t.leaf t.leafPa t.log2)
  | none, some t => (s.fillTlb w t, s.checkLeaf w va n t.leaf t.leafPa t.log2)
  | none, none => s.walkFor w va n

/-- Removes cached translations from every core (R451): of the pages that hold one of the addresses, or all. -/
def State.dropTrans (s : State) (p : Trans → Bool) : State :=
  { s with cores := s.cores.map fun c => { c with tlb := c.tlb.filter fun t => !p t, lastPages := c.lastPages.filter fun l => !p l.page } }

/-- Removes every cached translation of the page that a leaf maps. -/
def State.sweepLeaf (s : State) (leafPa : Nat) : State := s.dropTrans fun t => decide (t.leafPa = leafPa)

/-! Stacks. -/

/-- Per-fibre stack bytes rounded up to 64 KiB (R530). -/
def Launch.stackS (l : Launch) : Nat := (l.stack.toNat + 65535) / 65536 * 65536
/-- The register-stack extent's length (R530). -/
def Launch.rstkLen (l : Launch) : Nat := if 2 ^ 32 < 2 * l.stackS + 65536 then l.stackS - 65536 else l.stackS
/-- A slab's length, and how many a block holds (R530). -/
def Launch.slab (l : Launch) : Nat := l.rstkLen + 65536 + l.stackS
def Launch.slabsPerBlock (l : Launch) : Nat := max 1 (2 ^ 32 / (2 * l.stackS + 65536))

/-- The base of a lane's slab: its register stack's first byte (R530). -/
def State.slabBase (s : State) (w : Workgroup) (grp lane : Nat) : Nat :=
  let l := s.launch w.id
  let j := grp * l.width + lane
  let n := l.slabsPerBlock
  s.stkBase + 2 ^ 32 * w.stackBlocks.getD (j / n) 0 + l.slab * (j % n)

/-- A lane's initial stack pointer: the address just above its call-stack extent; 0 without stacks (R175). -/
def State.stackTop (s : State) (w : Workgroup) (grp lane : Nat) : Nat :=
  if (s.launch w.id).stack = 0 then 0 else s.slabBase w grp lane + (s.launch w.id).slab

/-- A lane's register-stack base (R175). -/
def State.rstkBase (s : State) (w : Workgroup) (grp lane : Nat) : Nat :=
  if (s.launch w.id).stack = 0 then 0 else s.slabBase w grp lane

/-- A lane's register-stack and call-stack extents (R176). -/
def State.extents (s : State) (wg grp lane : Nat) : List (Nat × Nat) :=
  let w := s.wg wg
  let l := s.launch wg
  if l.stack = 0 then []
  else
    let b := s.slabBase w grp lane
    [(b, l.rstkLen), (b + l.rstkLen + 65536, l.stackS)]

/-- A fibre as the maker of an access. -/
def State.who (s : State) (f : Fibre) : Who :=
  { level := f.pl, secure := s.secureFibre f, vid := s.actual (s.fibreVid f), lane := some (f.core, f.part, f.home), blocks := s.extents f.wg f.grp f.lane }

/-- An engine of a core as the maker of an access for a version: at level U (R341, R364). -/
def State.whoEngine (s : State) (core : Nat) (v : VID) : Who := { level := .u, secure := s.coreWorld core, vid := s.actual v }

end Sys2Proof.Machine
end

