-- ==== Sys2Proof/Machine/Pad.lean ====
section
/-! DEFINITION. The scratchpad and its granule tags (10 R247 to R251): the apertures (R243, R244), tag events with their effect on PREDICTED granules (R249; 15 R402, R405), and landing of bytes. -/

namespace Sys2Proof.Machine

/-- What a virtual address names (R243). -/
inductive Target where
  | pad (wg off : Nat) | glob | bad
deriving DecidableEq, Repr

def ownAperture : Nat := 0xFFFF00000000
def clusterAperture : Nat := 0xFFFF10000000

/-- Where an address lies for a workgroup (R243, R244). A rank that holds no workgroup any more reads as an empty scratchpad. -/
def State.target (s : State) (wg : Nat) (va : Nat) : Target :=
  let l := s.launch wg
  if va < ownAperture then .glob
  else if va < clusterAperture then
    if va - ownAperture < l.padBytes then .pad wg (va - ownAperture) else .bad
  else if va < 0xFFFF14000000 then
    let rank := (va - clusterAperture) / 2 ^ 24
    let off := (va - clusterAperture) % 2 ^ 24
    if rank < l.cluster ∧ off < l.padBytes then
      match s.peerWg (s.wg wg) rank with
      | some w => .pad w.id off
      | none => .pad 0 0x1000000
    else .bad
  else .bad

/-- Bytes of a scratchpad (R247). -/
def State.padRead (s : State) (wg off n : Nat) : List Byte := Memory.readN (s.wg wg).scratch off n

/-- Lands bytes in a scratchpad (R251); a barrier word that they overlap is clobbered (11 R305), unless a GBAR writes it. -/
def State.padWrite (s : State) (wg off : Nat) (bs : List Byte) (gbar : Bool := false) : State :=
  let s1 := s.modWg wg fun w => { w with scratch := Memory.writeN w.scratch off bs }
  if gbar then s1
  else s1.clobber fun p => match p.place with
    | .pad w o => decide (w = wg) && decide (o < off + bs.length) && decide (off < o + 4)
    | .pa _ => false
    | .gone => false

/-- The tag of a granule (R248). -/
def Workgroup.tagRec (w : Workgroup) (g : Nat) : TagRec := ((w.tags.find? fun x => decide (x.1 = g)).map (·.2)).getD {}

def Workgroup.tag (w : Workgroup) (g : Nat) : Tag := (w.tagRec g).tag

/-- Whether a WE wait that holds has reserved a granule (14 R363): those that wait for EMPTY see it as not EMPTY. -/
def Workgroup.heldWe (w : Workgroup) (g : Nat) : Bool :=
  w.reserved.any fun r => decide (r.1 = g) && (match r.2 with | .copy _ => true | .matrix _ => false | .task _ => false)

/-- Puts a granule's tag record; an EMPTY granule is not listed. A range whose granules are now all EMPTY starts a new arrival (15 R402). -/
def Workgroup.putTag (w : Workgroup) (g : Nat) (r : TagRec) : Workgroup :=
  let rest := w.tags.filter fun x => decide (x.1 ≠ g)
  let w1 : Workgroup := { w with tags := if r = {} then rest else (g, r) :: rest }
  if r.tag = .empty then
    { w1 with ranges := w1.ranges.map fun p =>
        if p.first ≤ g ∧ g < p.first + p.cnt ∧ ((List.range p.cnt).all fun i => decide (w1.tag (p.first + i) = .empty)) ∧ (p.done || decide (p.arrived.length < p.cnt)) then { p with arrived := [], done := false } else p }
  else w1

def State.putTag (s : State) (wg g : Nat) (r : TagRec) : State := s.modWg wg fun w => w.putTag g r

/-- TAG SETF, SETE and POISON set any state (R249). -/
def State.setTag (s : State) (wg g : Nat) (t : Tag) : State := s.putTag wg g { tag := t }

/-- How work that carries version `v` sees a granule (R249, R405): the owner of a PREDICTED granule sees FULL; others see a RANGE granule as EMPTY to fill, and an OUT granule as neither. -/
def TagRec.seen (r : TagRec) (v : VID) : Tag :=
  if r.tag = .predicted then (if r.owner = v then .full else if r.out then .predicted else .empty) else r.tag

/-- As `seen`, for work that waits for FULL: others never see a PREDICTED granule as FULL, nor as EMPTY (R405). -/
def State.seenTag (s : State) (wg g : Nat) (v : VID) : Tag := ((s.wg wg).tagRec g).seen v

/-- Whether a granule meets what an access waits for (R155, R405). -/
def State.tagMeets (s : State) (wg g : Nat) (v : VID) (n : TagNeed) : Bool :=
  match n with
  | .full => decide (s.seenTag wg g v = .full)
  | .empty => decide (s.seenTag wg g v = .empty)
  | .free => !(decide (s.seenTag wg g v = .predicted))

/-- Notes an implicit set-FULL event on a granule of a declared range (15 R402). -/
def Workgroup.noteArrival (w : Workgroup) (g : Nat) : Workgroup :=
  { w with ranges := w.ranges.map fun p =>
      if p.first ≤ g ∧ g < p.first + p.cnt ∧ !(p.arrived.contains g) then { p with arrived := g :: p.arrived } else p }

/-- Whether a version was created by a prediction (15 R404). -/
def State.isPred (s : State) (v : VID) : Bool :=
  match s.version? v with
  | some x => x.pred && decide (x.state = .live)
  | none => false

/-- Lands the data of an implicit set-FULL event and applies the event (R249, R251, R405). The caller has waited for an OUT granule of another version. -/
def State.landFull (s : State) (wg off : Nat) (bs : List Byte) (v : VID) : State :=
  let g := off / 1024
  let r := (s.wg wg).tagRec g
  match r.tag with
  | .predicted =>
    if r.owner = v then s.padWrite wg off bs
    else if r.out then s.padWrite wg off bs
    else s.modWg wg fun w =>
      let old := ((w.diverted.find? fun x => decide (x.1 = g)).map (·.2)).getD []
      { (w.noteArrival g) with diverted := (g, Memory.putN old (off % 1024) bs) :: w.diverted.filter fun x => decide (x.1 ≠ g) }
  | .poisoned => s.padWrite wg off bs
  | _ =>
    let s1 := s.padWrite wg off bs
    let rootWg := s1.isRoot (s1.launch wg).version
    let r1 : TagRec := if rootWg && s1.isPred v then { tag := .predicted, owner := v, out := true } else { tag := .full }
    (s1.putTag wg g r1).modWg wg fun w => w.noteArrival g

/-- Consumes a granule that its work sees FULL: EMPTY, or a deferred consume of the owner's PREDICTED granule (R249, R405). -/
def State.consume (s : State) (wg g : Nat) : State :=
  let r := (s.wg wg).tagRec g
  if r.tag = .predicted then s.putTag wg g { r with consume := true } else s.setTag wg g .empty

/-- The granules that `n` bytes from an offset touch. -/
def granulesOf (off n : Nat) : List Nat := if n = 0 then [] else (List.range ((off + n - 1) / 1024 + 1 - off / 1024)).map (off / 1024 + ·)

end Sys2Proof.Machine
end

