-- ==== Sys2Proof/Machine/Versions.lean ====
section
/-! DEFINITION. Versions (15 R376 to R399): the free list of copy frames (R377, R388), squash with all that it ends (R397, R398, R409, R410), commit with the splice of versioned pages (R393, R394), and the size of the effect buffer (R391). Requests to peer devices are built here too (22 R509, R511). -/

namespace Sys2Proof.Machine

/-! Peer windows. -/

def State.winBase (s : State) (w : Nat) : Nat := s.ctlNat (winDesc w) 8
def State.winSize (s : State) (w : Nat) : Nat := s.ctlNat (winDesc w + 8) 4
def State.winStn (s : State) (w : Nat) : Nat := bits (s.ctlNat (winDesc w + 12) 2) 9 0
def State.winRvid (s : State) (w : Nat) : VID := BitVec.ofNat 10 (s.ctlNat (winDesc w + 14) 2)
def State.winFlag (s : State) (w b : Nat) : Bool := decide (bits (s.ctlNat (winDesc w + 16) 1) b b = 1)

/-- The offset of a physical address in its peer window. -/
def winOff (pa : Nat) : Nat := (pa - 0x1800000000000) % 2 ^ 41

/-- Sends a request to a peer (R511). -/
def State.sendPeer (s : State) (fib : FibreKey) (w pa : Nat) (va : VA) (op : PeerOp) (dst : Dest) (waits : Bool) : Nat × State :=
  let g := s.grid (s.wg fib.wg).grid
  let r : PeerReq := { n := s.ids, fib := fib, window := w, pa := pa, rva := BitVec.ofNat 48 (s.winBase w + winOff pa), op := op, va := va, dst := dst, waits := waits, pc := ((s.fibre? fib).map (·.pc)).getD 0, rep := ((s.fibre? fib).map (·.rep)).getD 0, queue := g.queue, packet := g.packet }
  (s.ids, { s with ids := s.ids + 1, mem := { s.mem with peers := s.mem.peers ++ [r] } })

/-! Domains. -/

def State.poolBase (s : State) (d : Nat) : Nat := s.domField d 16 8
def State.poolN (s : State) (d : Nat) : Nat := s.domField d 24 4
def State.poolCap (s : State) (d : Nat) : Nat := s.domField d 28 4
def State.poolGran (s : State) (d : Nat) : Nat := bits (s.domField d 56 1) 3 1
def State.ovfMib (s : State) (d : Nat) : Nat := s.domField d 8 4
def State.histBase (s : State) (d : Nat) : Nat := s.domField d 40 8

/-- The newest committed bytes at a physical address. -/
def State.physRead (s : State) (pa n : Nat) : List Byte := (List.range n).map fun i => s.newestByte (pa + i)

/-- Commits bytes at a physical address at a stamp of their own. -/
def State.physWrite (s : State) (pa : Nat) (bs : List Byte) : State := s.publishCells (cellsAt pa bs) false

/-- Pops a frame from a domain's free list (R377). -/
def State.popPool (s : State) (d : Nat) : Option (Nat × State) :=
  if s.poolN d = 0 then none
  else
    let n := s.poolN d - 1
    some (leNat (s.physRead (s.poolBase d + 8 * n) 6), s.setCtl (domDesc d + 24) 4 n)

/-- Pushes a frame onto a domain's free list; a full list drops it and counts in DROPN (R377). -/
def State.pushPool (s : State) (d frame : Nat) : State :=
  let n := s.poolN d
  if n = s.poolCap d then s.setCtl (domDesc d + 58) 2 (min 65535 (s.domField d 58 2 + 1))
  else (s.physWrite (s.poolBase d + 8 * n) (leBytes 8 frame)).setCtl (domDesc d + 24) 4 (n + 1)

def State.modVersion (s : State) (v : VID) (h : Version → Version) : State :=
  { s with versions := s.versions.map fun x => if x.vid = v then h x else x }

/-- The depth of a version: the length of its chain of parents (R376). -/
def State.depth (s : State) (v : VID) : Nat := (s.chain 64 v).length

/-- The LIVE non-root versions of a domain. -/
def State.liveOf (s : State) (d : Nat) : List VID :=
  (s.versions.filter fun x => decide (x.state = .live) && decide (vidDomain x.vid = d)).map (·.vid)

/-- The lowest FREE slot of a domain (R404). -/
def State.freeSlot (s : State) (d : Nat) : Option VID :=
  ((List.range 64).map (vidOf d)).find? fun v => decide (vidSlot v ≠ 0) && !(s.versions.any fun x => decide (x.vid = v))

/-! Squash. -/

/-- A version and its LIVE descendants (R397). -/
def State.withDescendants (s : State) (v : VID) : List VID :=
  (s.liveOf (vidDomain v)).filter fun u => (s.chain 64 u).contains v

/-- Frees the granules that a holder reserves. -/
def Workgroup.release (w : Workgroup) (h : Holder) : Workgroup := { w with reserved := w.reserved.filter fun x => decide (x.2 ≠ h) }

/-- What a squash makes of the PREDICTED granules of the versions (R409): a RANGE granule whose data has arrived takes it and becomes FULL, and every other one becomes EMPTY. -/
def Workgroup.dropPredicted (w : Workgroup) (dead : List VID) : Workgroup :=
  let mine := w.tags.filter fun x => decide (x.2.tag = .predicted) && dead.contains x.2.owner
  let w1 := mine.foldl (fun (t : Workgroup) x =>
    match w.diverted.find? fun d => decide (d.1 = x.1) && !x.2.out with
    | some d =>
      let t1 : Workgroup := { t with scratch := Memory.writeAll t.scratch (d.2.map fun c => (1024 * x.1 + c.1, c.2)), diverted := t.diverted.filter fun y => decide (y.1 ≠ x.1) }
      t1.putTag x.1 { tag := .full }
    | none => t.putTag x.1 {}) w
  { w1 with ranges := w1.ranges.map fun p => match p.owner with
      | some o => if dead.contains o then { p with owner := none, pending := false } else p
      | none => p }

/-- Lowers a copy token (R359). -/
def Workgroup.lowerToken (w : Workgroup) (t : BitVec 3) : Workgroup := { w with tokens := w.tokens.modify t.toNat (· - 1) }

/-- How many images a queue's device FIFO holds, and where each slot stands (R487, R490; log 20). -/
def State.fifoSize (s : State) (q : BitVec 8) : Nat := 2 ^ bits (s.qField q 9 1) 3 0
def State.fifoSlot (s : State) (q : BitVec 8) (i : Nat) : Nat := s.qField q 16 8 + 256 * i

/-- Whether a queued launch image is one of a squashed version (R398). -/
def imageDead (dead : List VID) (image : List Byte) : Bool :=
  let l := Launch.ofBytes image
  l.spec && dead.contains l.version

/-- The grids of versions that commit or are squashed (R500); a squash is an event of their packets (R501). -/
def State.settleGrids (s : State) (vs : List VID) (squashed : Bool) : State :=
  let mine := fun (g : Grid) => g.launch.spec && !g.settled && vs.contains g.launch.version
  let s1 := if squashed then (s.grids.filter mine).foldl (fun (t : State) g => t.report g.id { status := 5, code := 0 }) s else s
  { s1 with grids := s1.grids.map fun g => if mine g then { g with settled := true, dead := squashed } else g }

/-- Squashes versions at one instant (R397, R398): fibres and queued launches of their grids end, their commands stop, their unpublished data and effects are discarded, their tasks return to TILES, and their predicted granules go as R409 says. A fibre that waits in a group whose version goes waits no more: it tries its instruction again, with no effect (R411). -/
def State.squashAll (u : State) (dead : List VID) : State :=
  if dead = [] then u
  else
    let s := u.settleGrids dead true
    let deadWg := fun (id : Nat) => dead.contains (s.launch id).version
    let tiles := fun (t : Task) => if t.pred.any dead.contains then { t with state := .tiles, pred := none } else t
    let core := fun (c : Core) =>
      { c with
        lines := c.lines.filter fun l => !(dead.contains l.vid)
        mcmds := (c.mcmds.filter fun m => !(dead.contains m.vid && decide (m.phase = .queued))).map fun m => if dead.contains m.vid then { m with stop := true } else m
        ccmds := c.ccmds.filter fun k => !(dead.contains k.vid)
        tasks := (c.tasks.filter fun t => !(deadWg t.wg)).map tiles }
    let freed := (s.cores.flatMap (·.tasks) ++ s.wgs.flatMap (·.keptTasks)).filter fun t => t.pred.any dead.contains
    let lowered := (s.cores.flatMap (·.ccmds) ++ s.wgs.flatMap (·.keptCopies)).filter fun k => dead.contains k.vid
    let running := (s.cores.flatMap (·.mcmds) ++ s.wgs.flatMap (·.keptCmds)).filterMap fun m => if dead.contains m.vid ∧ m.phase = .queued then none else some m.whole
    let keeps := fun (h : Holder) => match h with
      | .matrix n => running.contains n
      | .copy _ => true
      | .task _ => true
    let wgs := s.wgs.map fun w =>
      let w0 := w.dropPredicted dead
      let w1 : Workgroup := { w0 with
        reserved := w0.reserved.filter fun x => keeps x.2
        keptTasks := w0.keptTasks.map tiles
        keptCmds := w0.keptCmds.filter fun m => !(dead.contains m.vid)
        keptCopies := w0.keptCopies.filter fun k => !(dead.contains k.vid) }
      let w2 := (freed.filter fun t => decide (t.wg = w.id)).foldl (fun (t : Workgroup) k => t.release (.task k.index)) w1
      (lowered.filter fun k => decide (k.wg = w.id)).foldl (fun (t : Workgroup) k => (t.lowerToken k.token).release (.copy k.n)) w2
    let carried := fun (g : Group) => (match g.carried with
      | some o => dead.contains o
      | none => false : Bool)
    let fibres := s.fibres.map fun f =>
      if deadWg f.wg then { f with run := .ended, wait := none, gbar := none }
      else if s.groups.any fun g => g.is f.wg f.grp && carried g then { f with muted := true, wait := none, gbar := none } else f
    let groups := s.groups.map fun g => if carried g then { g with task := none } else g
    let queues := s.front.queues.map fun (q : Queue) =>
      { q with
        arrivals := q.arrivals.filter fun a => match a with
          | .fifo i _ => !(imageDead dead (s.physRead (s.fifoSlot q.q i) 256))
          | .ring _ => true
        heads := q.heads.filter fun h => !(dead.contains (s.grid h.grid).launch.version) }
    { s with
      versions := s.versions.map fun x => if dead.contains x.vid then { x with state := .squashed } else x
      fibres := fibres
      groups := groups
      wgs := wgs
      cores := s.cores.map core
      mem := { s.mem with
        loads := s.mem.loads.filter fun l => !(deadWg l.fib.wg)
        stores := s.mem.stores.filter fun p => !(dead.contains p.vid)
        atomics := s.mem.atomics.filter fun p => !(dead.contains p.vid)
        posts := s.mem.posts.filter fun p => !(dead.contains (s.carries p.fib.wg p.fib.grp))
        topk := s.mem.topk.filter fun r => !(dead.contains r.vid)
        slots := s.mem.slots.filter fun m => !(dead.contains m.vid) }
      domains := s.domains.map fun d => { d with effects := d.effects.filter fun e => e.go || !(dead.contains e.vid) }
      front := { s.front with queues := queues } }

/-- Squashes one version with its descendants (R397). -/
def State.squash (s : State) (v : VID) : State := s.squashAll (s.withDescendants v)

/-! The effect buffer. -/

/-- Entries that a domain's effect buffer holds at most: 64 KiB of 32 bytes (R391). -/
def effectRoom : Nat := 2048

/-! Commit. -/

/-- A leaf with another frame in FRAME (R446). -/
def setFrame (leaf : BitVec 64) (frame : Nat) : BitVec 64 :=
  BitVec.ofNat 64 (leaf.toNat / 2 ^ 50 * 2 ^ 50 + frame / 65536 % 2 ^ 34 * 2 ^ 16 + leaf.toNat % 65536)

/-- The pages of which some version of a path holds a copy frame. -/
def State.copiedPages (s : State) (path : List VID) : List Nat :=
  (path.foldl (fun acc u => acc ++ ((s.version? u).map fun x => x.copies.map (·.1)).getD []) []).eraseDups

/-- Makes one frame of a line's committed frames, which every reader sees, whatever its σ (R394). -/
def State.settleLine (s : State) (line : Nat) : State :=
  let fs := mergeDown 1 line s.mem.frames.length (s.retagLine s.mem.frames line)
  { s with mem := { s.mem with frames := fs.map fun f => if f.line = line ∧ f.kind = .committed then { f with stamp := 0 } else f } }

/-- The waits at barrier words of a page, of the versions that `p` picks, go with the page to its new place (R304). -/
def State.moveBarriers (s : State) (leafPa : Nat) (p : GbarWait → Bool) (place : GbarWait → Place) : State :=
  { s with fibres := s.fibres.map fun f => match f.gbar with
      | some w => if w.leaf = leafPa ∧ p w = true then { f with gbar := some { w with place := place w } } else f
      | none => f }

/-- The place of a barrier word in a frame of 64 KiB. -/
def GbarWait.inFrame (frame : Nat) (w : GbarWait) : Place := .pa (frame + w.va.toNat % 65536)

/-- Notes lines as published at the newest stamp (R256). -/
def State.notePublished (s : State) (lines : List Nat) : State :=
  { s with mem := { s.mem with lastPub := notePub s.mem.lastPub s.mem.stamp lines } }

/-- Splices one versioned page (R394): what the deepest path version's copy frame holds is seen at once, and goes into the leaf, its translations go, and the old frame and the shallower copies go onto the free list. -/
def State.splicePage (s : State) (d : Nat) (path : List VID) (leafPa : Nat) : State :=
  let copies := path.filterMap fun u => (s.version? u).bind fun x => (x.copies.find? fun c => decide (c.1 = leafPa)).map (·.2)
  match copies.reverse with
  | [] => s
  | deepest :: shallower =>
    let leaf := s.readEntry leafPa
    let s0 := (List.range 64).foldl (fun (t : State) i => t.settleLine (deepest / 1024 + i)) s
    let s1 := ((s0.physWrite leafPa (leBytes 8 (setFrame leaf deepest).toNat)).sweepLeaf leafPa).moveBarriers leafPa (fun w => s0.isRoot w.vid) (GbarWait.inFrame deepest)
    let s2 := s1.notePublished ((List.range 64).map (65536 * leafFrame leaf / 1024 + ·))
    (65536 * leafFrame leaf :: shallower.reverse).foldl (fun (t : State) f => t.pushPool d f) s2

/-- Forgets the copy frames of versions (after a splice). -/
def State.forgetCopies (s : State) (path : List VID) : State :=
  path.foldl (fun (t : State) u => t.modVersion u fun x => { x with copies := [] }) s

/-- Commits versions, one stamp each in the order given, and moves the domain's floor to the last (R393, R407). -/
def State.commitAll (s : State) (d : Nat) (path : List VID) : State :=
  let s0 := s.drainPubs
  let s1 := path.foldl (fun (t : State) u =>
    let st := t.mem.stamp + 1
    let t1 := t.modVersion u fun x => { x with state := .committed, stamp := st }
    let t2 : State := { t1 with mem := { t1.mem with stamp := st, complete := st } }
    let cs := (t2.mem.frames.filter fun f => decide (f.kind = .spec) && decide (f.vid = u)).foldl (fun acc f => Memory.overlay acc f.cells) []
    (t2.notePublished (linesOf cs)).clobber (s.overlapsWord 0 cs)) s0
  if path = [] then s1 else (s1.settleGrids path false).modDomain d fun x => { x with floor := s1.mem.stamp }

/-- The acceptance history after a RESOLVE (R393). -/
def nextAccept (old acc prop : Nat) : Nat := if prop = 0 then old else (7 * old + 256 * acc / prop) / 8

end Sys2Proof.Machine
end

