-- ==== Sys2Proof/Machine/Deliver.lean ====
section
/-! DEFINITION. What a front end writes (21 R487, R499 to R502): the fields of a queue descriptor, writes at physical addresses, delivery rings, and the report of a poisoned page (19 R474). -/

namespace Sys2Proof.Machine

/-! Descriptor fields (R487). -/

def State.qRing (s : State) (q : BitVec 8) : Nat := s.qField q 0 8
def State.qLog2h (s : State) (q : BitVec 8) : Nat := bits (s.qField q 8 1) 4 0
def State.qLog2f (s : State) (q : BitVec 8) : Nat := bits (s.qField q 9 1) 3 0
def State.qDomain (s : State) (q : BitVec 8) : Nat := bits (s.qField q 10 1) 7 4
def State.qDraft (s : State) (q : BitVec 8) : Bool := decide (bits (s.qField q 10 1) 2 2 = 1)
def State.qPrio (s : State) (q : BitVec 8) : Nat := bits (s.qField q 10 1) 1 0
def State.qPwait (s : State) (q : BitVec 8) : Nat := bits (s.qField q 11 1) 4 0
def State.qQuantum (s : State) (q : BitVec 8) : Nat := s.qField q 12 4
def State.qBudget (s : State) (q : BitVec 8) : Nat := s.qField q 34 2
def State.qRepmax (s : State) (q : BitVec 8) : Nat := s.qField q 36 1
def State.qMirror (s : State) (q : BitVec 8) : Nat := s.qField q 40 8
def State.qDring (s : State) (q : BitVec 8) : Nat := s.qField q 48 8
def State.qLog2d (s : State) (q : BitVec 8) : Nat := bits (s.qField q 56 1) 4 0
def State.qWbase (s : State) (q : BitVec 8) (w : Nat) : Nat := s.qField q (48 + 16 * w) 8
def State.qWsize (s : State) (q : BitVec 8) (w : Nat) : Nat := s.qField q (56 + 16 * w) 4
def State.qWwr (s : State) (q : BitVec 8) (w : Nat) : Nat := s.qField q (60 + 16 * w) 4

/-- Whether a physical address names memory that holds bytes. -/
def isMemory (pa : Nat) : Bool :=
  match regionOf pa with
  | .hbm _ => true
  | .cxl => true
  | .host => true
  | _ => false

/-- A write of a front end at physical addresses, which reaches host memory at once (R499, R500); one to a secure region from a queue that is not secure, or where no memory is, is dropped. -/
def State.frontWrite (s : State) (q : BitVec 8) (pa : Nat) (bs : List Byte) : State :=
  if !(isMemory pa) || (s.secureAt pa && !s.queueWorld q) then s
  else
    let s1 := s.physWrite pa bs
    if regionOf pa = .host then (s1.writeThrough (pa / 1024)).writeThrough ((pa + bs.length - 1) / 1024) else s1

/-! Delivery rings. -/

/-- The 256 bytes of a delivery entry (R502). -/
def Delivery.entry (d : Delivery) : List Byte :=
  [d.kind, d.status, d.flags, 0] ++ leBytes 4 d.count.toNat ++ leBytes 8 d.seq ++ leBytes 8 d.page.toNat ++ List.replicate 8 0 ++
    d.bytes.take 224 ++ List.replicate (224 - d.bytes.length) 0

/-- Whether a queue's delivery ring is full (R502). -/
def State.ringFull (s : State) (q : BitVec 8) : Bool := decide (((s.queue q).dwidx - (s.queue q).dridx).toNat = 2 ^ s.qLog2d q)

/-- Whether a queue stalls on its delivery ring (R502). -/
def State.ringStall (s : State) (q : BitVec 8) : Bool := decide ((s.queue q).due ≠ [])

/-- Writes an entry, which advances DWIDX. -/
def State.putEntry (s : State) (q : BitVec 8) (d : Delivery) : State :=
  let x := s.queue q
  (s.frontWrite q (s.qDring q + 256 * (x.dwidx.toNat % 2 ^ s.qLog2d q)) d.entry).modQueue q fun y => { y with dwidx := y.dwidx + 1 }

/-- An entry that arises: it is written, or waits for the host ahead of every RESULT entry (R502). -/
def State.offerEntry (s : State) (q : BitVec 8) (d : Delivery) : State :=
  if s.ringStall q || s.ringFull q then
    s.modQueue q fun y => { y with due := (y.due.filter fun e => decide (e.kind ≠ 1)) ++ d :: y.due.filter fun e => decide (e.kind = 1) }
  else s.putEntry q d

/-! Poison. -/

/-- Tells a grid's queue of a poisoned page on which the grid took POISON (R474, R501, R502): once for each page and queue. -/
def State.tellPoison (s : State) (grid : Nat) (addr : Nat) : State :=
  let g := s.grid grid
  let page := BitVec.ofNat 48 (addr / 65536 * 65536)
  let s1 := s.report grid { status := 7, code := BitVec.ofNat 8 Code.poison.num, addr := page.setWidth 64 }
  let x := s1.queue g.queue
  if x.told.contains page || (s.grid? grid).isNone then s1
  else
    let seq := match (x.flights.find? fun f => decide (f.id = g.packet)) with
      | some f => f.seq
      | none => 0
    (s1.modQueue g.queue fun y => { y with told := page :: y.told }).offerEntry g.queue { kind := 2, status := 7, seq := seq, page := page.setWidth 64 }

end Sys2Proof.Machine
end

