-- ==== Sys2Proof/Machine/Control.lean ====
section
/-! DEFINITION. Reads of the control space (23 R520, R521): which offsets a non-secure reader sees, the registers whose value the rest of the state tells, and the frame rings of the pressure blocks, whose reads pop (19 R459). Writes are events of their own. -/

namespace Sys2Proof.Machine

/-- Whether an offset lies in a block of R520 that the non-secure world reaches: the world block and the monitor mailbox are secure. -/
def ctlOpen (off : Nat) : Bool :=
  decide (off < 0x80) || (decide (0x10000 ≤ off) && decide (off < 0x20000)) || (decide (0x20000 ≤ off) && decide (off < 0x20400)) ||
  (decide (0x30000 ≤ off) && decide (off < 0x30098)) || (decide (0x31000 ≤ off) && decide (off < 0x31098)) ||
  (decide (0x40000 ≤ off) && decide (off < 0x40800)) || (decide (0x60000 ≤ off) && decide (off < 0x60020)) ||
  (decide (0x100000 ≤ off) && decide (off < 0x140000))

/-- Entries that a frame ring holds at most (R459). -/
def ringRoom : Nat := 2 ^ 24

/-- Pops a frame index from a die's free-frame ring, first in first out (R459). -/
def State.popFrame (s : State) (d : Nat) : Option Nat × State :=
  match (s.pressOf d).free with
  | [] => (none, s)
  | f :: r => (some f, s.modPress d fun p => { p with free := r })

/-- Pushes a frame index; a full ring drops it (R459). -/
def State.pushFrame (s : State) (d f : Nat) : State :=
  s.modPress d fun p => if p.free.length < ringRoom then { p with free := p.free ++ [f] } else p

def State.popCxl (s : State) (d : Nat) : Option Nat × State :=
  match (s.pressOf d).cxl with
  | [] => (none, s)
  | f :: r => (some f, s.modPress d fun p => { p with cxl := r })

def State.pushCxl (s : State) (d f : Nat) : State :=
  s.modPress d fun p => if p.cxl.length < ringRoom then { p with cxl := p.cxl ++ [f] } else p

/-- The 64-bit register at an aligned offset, where the rest of the state tells it: READY and FREE (R459), the step and the hottest junction (R528). A pop register or a write-only one reads 0 here. -/
def State.ctlReg (s : State) (off : Nat) : Nat :=
  if off = 0x30050 ∨ off = 0x31050 then
    let p := s.pressOf ((off - 0x30050) / 0x1000)
    p.ready.length * 2 ^ 32 + p.free.length
  else if off = 0x60010 then s.power.junction.toNat * 2 ^ 16 + s.power.step.toNat
  else if off = 0x60018 then s.power.low.toNat
  else s.ctlNat off 8

/-- The base of a die's HBM4E (R245). -/
def hbmBase (d : Nat) : Nat := if d = 0 then 0 else 0x8000000000

/-- Whether a turn is a write of the control space. -/
def Turn.isCtl (t : Turn) : Bool :=
  match t with
  | .event .controlRegisterWrite _ => true
  | .event _ _ => false
  | .issue _ _ _ _ => false
  | .queue _ => false

/-- A write of the control space by a fibre at level S: it takes effect in the turns that follow, in order, at most 8 bytes in each. -/
def State.pushCtl (s : State) (off : Nat) (bs : List Byte) : State :=
  let one := fun (o : Nat) (b : List Byte) => Turn.event .controlRegisterWrite (.control o b.length (BitVec.ofNat 64 (leNat b)))
  let new := if bs.length ≤ 8 then [one off bs] else [one off (bs.take 8), one (off + 8) (bs.drop 8)]
  { s with agenda := s.agenda.takeWhile Turn.isCtl ++ new ++ s.agenda.dropWhile Turn.isCtl }

/-- A read of the control space by a non-secure reader at level S. A read that starts at FRPOP or CXLPOP pops, and reads all ones when the ring is empty (R459). -/
def State.ctlRead (s : State) (off n : Nat) : State × List Byte :=
  if !(ctlOpen off) then (s, List.replicate n 0)
  else
    let pop := fun (r : Option Nat × State) => (r.2, (leBytes 8 (r.1.getD (2 ^ 64 - 1))).take n)
    if off = 0x30030 ∨ off = 0x31030 then pop (s.popFrame ((off - 0x30030) / 0x1000))
    else if off = 0x30040 ∨ off = 0x31040 then pop (s.popCxl ((off - 0x30040) / 0x1000))
    else
      let lo := leBytes 8 (s.ctlReg (off / 8 * 8))
      let hi := leBytes 8 (s.ctlReg (off / 8 * 8 + 8))
      (s, slice (lo ++ hi) (off % 8) n)

end Sys2Proof.Machine
end

