-- ==== Sys2Proof/Machine/Batch.lean ====
section
/-! DEFINITION. Batch entries and the overflow pool (08 R198 to R203), demotion (R208), helpers that follow their leaders (R204, R206), and the pc after an instruction (02 R37, R56). -/

namespace Sys2Proof.Machine

/-- Whether a fibre, live or helper, stands in the entry that issues (R198, R204). -/
def Fibre.inEntry (f : Fibre) (c : Issue) : Bool :=
  decide (f.run ≠ .ended) && decide (f.core = c.core) && decide (f.part = c.part) && decide (f.seat = .entry c.entry)

def Fibre.live (f : Fibre) : Bool := decide (f.run = .live)

/-- Whether a fibre is parked on a fault that the part resolves, or that waits to be taken (18 R434, R437): its entry does not issue. -/
def Fibre.held (f : Fibre) : Bool :=
  match f.wait.map Wait.why with
  | some (.hardware _ _ _) => true
  | some (.trap _ _) => true
  | _ => false

/-- Whether a fibre is parked on a fault that it is about to take (18 R434): it meets no other fibre before its handler starts. -/
def Fibre.entering (f : Fibre) : Bool :=
  match f.wait.map Wait.why with
  | some (.trap _ _) => true
  | _ => false

/-- An address as a PC, whose bit 0 is always 0 (R9). -/
def evenPc (a : BitVec 64) : VA := a.setWidth 48 &&& ~~~(1 : VA)

/-- The address of the word that holds the parcel at a pc (R37). -/
def wordAt (pc : VA) : VA := pc &&& ~~~(3 : VA)

/-- The pc after an instruction that transfers no control (R37), and REPSTATE after an iteration (R56). -/
def nextOf (c : Issue) (f : Fibre) : VA × Word :=
  if c.repeating then (if f.rep.toNat % 128 ≤ 1 then f.pc + 4 else f.pc, f.rep - 1)
  else (match c.form with | .full => f.pc + 4 | .high => f.pc + 2 | .low => f.pc + 2, f.rep)

/-- A fibre that has completed its instruction. -/
def Fibre.advance (f : Fibre) (c : Issue) : Fibre := { f with pc := (nextOf c f).1, rep := (nextOf c f).2, wait := none }

/-- Inserts a fibre by home column. -/
def byHome (f : Fibre) : List Fibre → List Fibre
  | [] => [f]
  | g :: r => if f.home.toNat < g.home.toNat then f :: g :: r else g :: byHome f r

/-- The fibres of the entry that issues, helpers included, in increasing home column. -/
def State.members (s : State) (c : Issue) : List Fibre := (s.fibres.filter fun f => f.inEntry c).foldr byHome []

/-- The live fibres of the entry, in increasing home column. -/
def State.liveMembers (s : State) (c : Issue) : List Fibre := (s.members c).filter Fibre.live

/-- Whether an entry of a partition holds a fibre. -/
def State.entryHeld (s : State) (core part i : Nat) : Bool :=
  s.fibres.any fun f => decide (f.run ≠ .ended) && decide (f.core = core) && decide (f.part = part) && decide (f.seat = .entry i)

/-- The lowest free index of a partition's batch table (R200). -/
def State.freeEntry (s : State) (core part : Nat) : Option Nat := (List.range 16).find? fun i => !(s.entryHeld core part i)

/-- An entry after others of its partition have issued or become free: it owes them no turn (R208). -/
def Entry.free (e : Entry) (gone : List Nat) : Entry :=
  let owes := e.owes.filter fun i => !(gone.contains i)
  { e with owes := owes, demoted := e.demoted && decide (owes ≠ []) }

/-- Moves fibres of a partition into the lowest free entry, or to the pool (R200). An index that was free is no entry's obligation any more (R208). -/
def State.seatClass (s : State) (core part : Nat) (sel : Fibre → Bool) : State :=
  let mine := fun (f : Fibre) => decide (f.core = core) && decide (f.part = part) && decide (f.run ≠ .ended) && sel f
  let n := s.order
  let s1 : State := { s with order := n + 1 }
  match s.freeEntry core part with
  | some i =>
    let s2 : State := { s1 with fibres := s1.fibres.map fun f => if mine f then { f with seat := .entry i } else f }
    s2.modCore core fun k =>
      { k with entries := ((k.entries.filter fun e => !(decide (e.part = part) && decide (e.index = i))).map fun e => if e.part = part then e.free [i] else e) ++
                 [{ part := part, index := i, order := n, last := s.clock }] }
  | none => { s1 with fibres := s1.fibres.map fun f => if mine f then { f with seat := .pool n s.clock } else f }

/-- The leader of a helper: the live fibre of its quad with the lowest LANE (R204). -/
def State.leader? (s : State) (f : Fibre) : Option Fibre :=
  ((List.range 4).map fun i => 4 * (f.lane / 4) + i).findSome? fun l =>
    s.fibres.find? fun g => decide (g.wg = f.wg) && decide (g.grp = f.grp) && decide (g.lane = l) && g.live

/-- Helpers stand where their leaders stand (R204, R206); one whose quad has no live fibre ends. -/
def State.mirror (s : State) : State :=
  { s with fibres := s.fibres.map fun f =>
      if f.run = .helper then
        match s.leader? f with
        | some l => { f with pc := l.pc, pl := l.pl, rep := l.rep, seat := l.seat, wait := none }
        | none => { f with run := .ended, wait := none }
      else f }

/-- Forgets the records of entries that hold no fibre; no entry owes them a turn any more (R208). -/
def State.pruneEntries (s : State) (core : Nat) : State :=
  s.modCore core fun k =>
    { k with entries := (k.entries.filter fun e => s.entryHeld core e.part e.index).map fun e => e.free (e.owes.filter fun i => !(s.entryHeld core e.part i)) }

/-- Whether two fibres may stand in one entry: one grid, pc, PL and REPSTATE (R198, R202); one that is about to take a fault stands with others that are (R433). -/
def State.alike (s : State) (f g : Fibre) : Bool :=
  decide ((s.wg f.wg).grid = (s.wg g.wg).grid) && decide (f.pc = g.pc) && decide (f.pl = g.pl) && decide (f.rep = g.rep) && decide (f.entering = g.entering)

/-- The oldest pooled live fibre of a partition. -/
def State.oldestPooled (s : State) (core part : Nat) : Option (Nat × Fibre) :=
  s.fibres.foldl (fun acc f => match f.seat with
    | .entry _ => acc
    | .saved => acc
    | .pool n _ =>
      if f.live && decide (f.core = core) && decide (f.part = part) then
        match acc with
        | some (m, _) => if n < m then some (n, f) else acc
        | none => some (n, f)
      else acc) none

/-- The pooled fibres that go with one, each in a column that none before it takes (R203). -/
def pickColumns : List Fibre → List (BitVec 6) → List FibreKey
  | [], _ => []
  | f :: r, used => if used.contains f.home then pickColumns r used else f.key :: pickColumns r (f.home :: used)

/-- Inserts a pooled fibre by its order. -/
def byPool (f : Fibre) : List Fibre → List Fibre
  | [] => [f]
  | g :: r => match f.seat, g.seat with
    | .pool a _, .pool b _ => if a < b ∨ (a = b ∧ f.home.toNat < g.home.toNat) then f :: g :: r else g :: byPool f r
    | _, _ => f :: g :: r

/-- The pooled live fibres of a partition, oldest first. -/
def State.pooled (s : State) (core part : Nat) : List Fibre :=
  (s.fibres.filter fun f => f.live && decide (f.core = core) && decide (f.part = part) &&
    (match f.seat with | .pool _ _ => true | .entry _ => false | .saved => false)).foldr byPool []

/-- Gives a free entry to the oldest pooled fibre and those that go with it (R203). -/
def State.refill (s : State) (core part : Nat) : State :=
  match s.freeEntry core part, s.pooled core part with
  | some _, f :: r =>
    let keys := pickColumns ((f :: r).filter fun g => s.alike f g) []
    (s.seatClass core part fun g => keys.contains g.key).mirror
  | _, _ => s

/-- Splits what does not keep its entry into classes of equal pc, PL and REPSTATE, in increasing order of lowest column (R200, R201, R433). -/
def State.splitOff : Nat → State → Issue → List FibreKey → State
  | 0, s, _, _ => s
  | n + 1, s, c, keep =>
    match (s.liveMembers c).find? fun f => !(keep.contains f.key) with
    | none => s
    | some f =>
      let sel := fun (g : Fibre) => g.inEntry c && g.live && !(keep.contains g.key) && decide (g.pc = f.pc) && decide (g.pl = f.pl) && decide (g.rep = f.rep)
      State.splitOff n (s.seatClass c.core c.part sel) c keep

/-- Settles an entry after its fibres have parted: `keep` names the fibres that keep it. -/
def State.settle (s : State) (c : Issue) (keep : List FibreKey) : State :=
  let s1 := (State.splitOff 64 s c keep).mirror
  (s1.pruneEntries c.core).refill c.core c.part

/-- Of some fibres, those with the target of the lowest column keep the entry (R200). -/
def State.keepLowest (s : State) (c : Issue) (keys : List FibreKey) : List FibreKey :=
  match (s.liveMembers c).filter fun f => keys.contains f.key with
  | [] => []
  | f :: r => ((f :: r).filter fun g => decide (g.pc = f.pc) && decide (g.pl = f.pl) && decide (g.rep = f.rep)).map Fibre.key

/-- Demotes the entry that issues: it owes a turn to the other entries of its partition that hold fibres of its groups (R208). -/
def State.demote (s : State) (c : Issue) : State :=
  let groups := (s.members c).map fun f => (f.wg, f.grp)
  let owes := (List.range 16).filter fun i => decide (i ≠ c.entry) && s.fibres.any fun f =>
    decide (f.run ≠ .ended) && decide (f.core = c.core) && decide (f.part = c.part) && decide (f.seat = .entry i) && groups.contains (f.wg, f.grp)
  s.modCore c.core fun k => { k with entries := k.entries.map fun e =>
    if e.part = c.part ∧ e.index = c.entry then { e with demoted := decide (owes ≠ []), owes := owes } else e }

/-- Notes that an entry issues (R207, R208): no other entry owes it a turn any more. -/
def State.noteIssue (s : State) (c : Issue) : State :=
  s.modCore c.core fun k => { k with entries := k.entries.map fun e =>
    if e.part ≠ c.part then e else if e.index = c.entry then { e with last := s.clock } else e.free [c.entry] }

/-- Merges one pair of entries of a partition that meet R202, or absorbs pooled fibres into an entry; the answer says whether something changed. -/
def State.mergeOnce (s : State) (core part : Nat) : Option State :=
  let es := (s.core core).entries.filter fun e => decide (e.part = part)
  let held := fun (i : Nat) => s.fibres.filter fun f => decide (f.run ≠ .ended) && decide (f.core = core) && decide (f.part = part) && decide (f.seat = .entry i)
  let heads := es.filterMap fun e => match (held e.index).filter Fibre.live with
    | [] => none
    | f :: r => some (e, f, f :: r)
  let pair := heads.findSome? fun a => (heads.find? fun b =>
      decide (a.1.order < b.1.order) && s.alike a.2.1 b.2.1 &&
      ((held a.1.index).all fun x => (held b.1.index).all fun y => decide (x.home ≠ y.home))).map fun b => (a.1, b.1)
  match pair with
  | some (a, b) =>
    let s1 : State := { s with fibres := s.fibres.map fun f =>
      if f.run ≠ .ended ∧ f.core = core ∧ f.part = part ∧ f.seat = .entry b.index then { f with seat := .entry a.index } else f }
    some (s1.modCore core fun k => { k with entries := (k.entries.filter fun e => !(decide (e.part = part) && decide (e.index = b.index))).map fun e =>
      if e.part = part ∧ e.index = a.index then
        ({ e with demoted := a.demoted || b.demoted, owes := a.owes ++ b.owes } : Entry).free [a.index, b.index] else if e.part = part then e.free [b.index] else e })
  | none =>
    heads.findSome? fun a =>
      let used := (held a.1.index).map (·.home)
      match (s.pooled core part).find? fun f => s.alike a.2.1 f && !(used.contains f.home) with
      | some f => some ((s.modFibre f.key fun g => { g with seat := .entry a.1.index }).mirror)
      | none => none

/-- The merges of a clock in one partition, to the end (R202). -/
def State.mergeAll : Nat → State → Nat → Nat → State
  | 0, s, _, _ => s
  | n + 1, s, core, part => match s.mergeOnce core part with
    | some t => State.mergeAll n t core part
    | none => (s.pruneEntries core).refill core part

end Sys2Proof.Machine
end

