-- ==== Sys2Proof/Machine/Access.lean ====
section
/-! DEFINITION. Accesses of fibres: loads (06 R149 to R158; 10 R260, R272; 11 R279, R286), stores (R153, R156, R280), atomics with their sync classes (R161 to R164; 11 R287, R290, R291), peer accesses (22 R510 to R512), effects of versions that cannot be versioned (15 R391, R392), and posts to a copy ring's notify word (14 R352). -/

namespace Sys2Proof.Machine

/-- How an instruction goes for one fibre, or for one group: it completes, it completes with the pc that it has set, it faults, or it waits. -/
inductive Seq where
  | done (s : State)
  | jumped (s : State)
  | trap (s : State) (t : Trap)
  | wait (s : State) (w : Why)

/-- A fault of an access, with the bits of TRAPINFO that describe the access (R430). -/
def Trap.of (t : Trap) (n : Need) : Trap := { t with info := faultInfo n 0 }

/-- The fault of an aperture check (R244). -/
def apertureTrap (va : Nat) (n : Need := {}) : Trap := { code := .illegalOperand, addr := BitVec.ofNat 64 va, info := faultInfo n 0 }

/-- POISON of a granule (R249). -/
def poisonTrap (va : Nat) (n : Need := {}) : Trap := { code := .poison, addr := BitVec.ofNat 64 va, info := faultInfo n 0 }

/-- What a store needs of its page (R151). -/
def storeNeed (spill : Bool) : Need := { write := true, read := false, spill := spill }

/-- The address pair's effective address, with an offset; its high 16 bits are ignored (R149). -/
def vaOf (base : DWord) (off : Int) : VA := (base + BitVec.ofInt 64 off).setWidth 48

/-- Pending requests of a fibre at peers that overlap some bytes (R512). -/
def State.peerPending (s : State) (f : FibreKey) (va : VA) (n : Nat) : Bool :=
  s.mem.peers.any fun r => decide (r.fib = f) && !r.waits && decide (r.va.toNat < va.toNat + n) && decide (va.toNat < r.va.toNat + 16)

/-- The checks of a peer page (R510); none when they pass. -/
def State.peerCheck (s : State) (w pa : Nat) (write atomic fadd : Bool) : Bool :=
  s.winFlag w 0 && decide (winOff pa < 65536 * s.winSize w) && (!write || s.winFlag w 1) && (!atomic || s.winFlag w 2) && !fadd

/-! Landing of stores. -/

/-- Lands a store of a core in its unpublished data, as its hint says (R272, R273). Only a root has private frames; other versions' data stays in the tile store until a boundary. -/
def State.landStore (s : State) (core : Nat) (v : VID) (va pa : Nat) (bs : List Byte) (hint : Nat) : State :=
  if s.isRoot v ∧ (hint = 2 ∨ (hint = 1 ∧ !((s.core core).lines.any (s.lineAt v va)))) then
    (s.cleanLine core (pa / 1024) (decide (hint = 2))).privatePut core (cellsAt pa bs)
  else s.dirtyPut core v va pa bs

/-- Lands a pending store (R168). -/
def State.landPending (s : State) (p : PStore) : State :=
  let s1 : State := { s with mem := { s.mem with stores := s.mem.stores.filter fun q => decide (q.n ≠ p.n) } }
  s1.landStore p.core p.vid p.va.toNat p.pa p.data p.hint

/-- Lands the pending stores of a fibre that `p` picks, in program order. -/
def State.landSome (s : State) (f : FibreKey) (p : PStore → Bool) : State :=
  (s.mem.stores.filter fun q => decide (q.fib = f) && p q).foldl (fun (t : State) q => t.landPending q) s

/-- Lands every pending store of a fibre, in program order. -/
def State.landAll (s : State) (f : FibreKey) : State := s.landSome f fun _ => true

/-! Loads. -/

/-- Writes a load's bytes into its destination: registers of the fibre's allocation, or a k register of its group. -/
def State.deliver (s : State) (f : FibreKey) (d : Dest) (bs : List Byte) : State :=
  match d with
  | .lanes regs => s.modFibre f fun x => x.setPhysBytes regs bs
  | .k r => s.modGroup f.wg f.grp fun g => { g with kregs := g.kregs.set r (leDWord bs) }
  | .record => s

/-- Whether a region holds data of the L2. -/
def Region.cached (r : Region) : Bool :=
  match r with
  | .hbm _ => true
  | .cxl => true
  | .host => true
  | .control => false
  | .peer _ => false
  | .none => false

/-- A fill (R260 step 4, R265): the sectors of the granule go into the oldest committed frame of the line, where neither it nor an older one holds them, or into a new one with stamp 0, for which a way is freed. What a committed version holds of the line is retagged first (R395; log 99). A poisoned line is not filled, nor one whose set offers no way (log 104). -/
def State.fill (s : State) (line sector : Nat) : State :=
  let pa := 1024 * line + 32 * sector
  if sector < 32 ∧ (regionOf pa).cached = true ∧ ¬ s.mem.poison.contains line = true then
    let n := s.fetchGranule pa
    let lo := pa / n * n
    let s0 : State := { s with mem := { s.mem with frames := s.trimFrames (s.retagLine s.mem.frames line) line } }
    let lacks := fun (t : BitVec 64) (a : Nat) =>
      !((s0.committed line).any fun x => decide (x.1.toNat ≤ t.toNat) && (sectorsOf x.2.cells).getLsbD (a / 32 % 32))
    let data := fun (t : BitVec 64) => (((List.range n).map (lo + ·)).filter (lacks t)).map fun a => (a, Memory.read s0.mem.dram a)
    match oldestFirst s0.mem.frames line with
    | [] =>
      if s0.noWay line then s0
      else
        let s1 := s0.freeWay line
        { s1 with mem := { s1.mem with frames := s1.mem.frames ++ [{ line := line, kind := .committed, cells := data 0, used := s.clock }] } }
    | (t, _) :: _ =>
      let add := fun (f : Frame) => { f with cells := Memory.overlay f.cells (data t), used := s.clock }
      { s0 with mem := { s0.mem with frames := s0.mem.frames.map fun f => if f.line = line ∧ f.kind = .committed ∧ f.stamp = t then add f else f } }
  else s

/-- Fills the granules of the sectors that some bytes lie in and that `p` says were missed (R265). -/
def State.fillWhere (s : State) (p : Nat → Bool) (pa n : Nat) : State :=
  ((((List.range n).map (pa + ·)).filter p).map fun a => a / 32).eraseDups.foldl (fun (t : State) k => t.fill (k / 32) (k % 32)) s

/-- Fills the granules of the sectors that a core-path read took from DRAM or from the tier (R260 step 4, R265). -/
def State.fillFor (s : State) (core : Nat) (v : VID) (seen : List (Nat × BitVec 64)) (pa n : Nat) : State :=
  s.fillWhere (s.reachesDram core v seen) pa n

/-- A read of the newest data of a line through the L2, of an engine, an atomic or a poll: the line is used, its overflowed frames come back (R263), and what it misses is filled (R265). -/
def State.l2Use (s : State) (v : VID) (pa n : Nat) : State :=
  let s1 := s.useLine (pa / 1024)
  s1.fillWhere (s1.missesNewest v) pa n

/-- The newest bytes of a version, read through the L2 (R286, R287, R292). -/
def State.l2Read (s : State) (v : VID) (pa n : Nat) : State × List Byte := (s.l2Use v pa n, s.newestBytes v pa n)

/-- The bytes that a core-path load reads below translation (R260, R271, R272, R279, R286): `hint` 3 is the poll hint. -/
def State.loadBytes (s : State) (core : Nat) (v : VID) (seen : List (Nat × BitVec 64)) (va pa n : Nat) (hint : Nat) : State × List Byte :=
  match regionOf pa with
  | .control => s.ctlRead (pa - 0x1000000000000) n
  | _ =>
    let s1 := if hint = 2 ∨ hint = 3 then s.cleanLine core (pa / 1024) false else s
    if hint = 3 then
      let s2 := if tiered pa then s1.writeThrough (pa / 1024) else s1.l2Use v pa n
      (s2, (List.range n).map fun i => s2.pollByte core v (pa + i))
    else
      let r := (s1.useLine (pa / 1024)).coreRead core v seen pa n
      let s2 := if hint = 1 then r.1 else r.1.fillFor core v seen pa n
      (if hint = 0 then s2.useTile core v va pa else s2, r.2)

/-- Whether a load fills lane registers. -/
def Dest.isLanes (d : Dest) : Bool :=
  match d with
  | .lanes _ => true
  | .k _ => false
  | .record => false

/-! Requests in flight. -/

/-- The requests that a core has outstanding (R275): the loads, stores and atomics of one issue of one entry are one. -/
def State.requests (s : State) (core : Nat) : List Nat :=
  (((s.mem.loads.filter fun l => decide (l.core = core)).map (·.since)) ++ ((s.mem.stores.filter fun p => decide (p.core = core)).map (·.since)) ++
    ((s.mem.atomics.filter fun p => decide (p.core = core)).map (·.since))).eraseDups

/-- Whether a request may be made: a core has at most 256 outstanding (R275). -/
def State.mayAsk (s : State) (core : Nat) : Bool := decide (((s.requests core).filter fun t => decide (t ≠ s.clock)).length < 256)

/-- Whether a load in flight cannot have its data yet: its line is fetched from the host anew (R473), or its sector finds no way in the L2 (R387). -/
def State.blocked (s : State) (l : PLoad) : Bool :=
  s.mem.refetch.contains (l.pa / 1024) || ((s.committed (l.pa / 1024)).isEmpty && s.noWay (l.pa / 1024))

/-- Returns the data of a pending load (R166). -/
def State.returnLoad (s : State) (l : PLoad) : State :=
  let s1 : State := { s with mem := { s.mem with loads := s.mem.loads.filter fun q => decide (q.n ≠ l.n) } }
  let seen := ((s.fibre? l.fib).map Fibre.seen).getD []
  let r := s1.loadBytes l.core l.vid seen l.va.toNat l.pa l.size l.hint
  (if l.hint = 3 then r.1.saw l.fib l.pa l.size else r.1).deliver l.fib l.dst r.2

/-- Returns the loads of a fibre that `p` picks and that can have their data, in program order. -/
def State.returnLoads (s : State) (f : FibreKey) (p : PLoad → Bool) : State :=
  (s.mem.loads.filter fun l => decide (l.fib = f) && p l).foldl (fun (t : State) l => if t.blocked l then t else t.returnLoad l) s

/-- Whether `n` bytes at `pa` overlap `m` bytes at `pb`. -/
def overlap (pa n pb m : Nat) : Bool := decide (pa < pb + m) && decide (pb < pa + n)

/-! Effects that wait in a buffer (R391). -/

/-- A byte as a fibre's own buffered effects leave it: the newest of them that covers it (R8, R165). -/
def effectByte (f : FibreKey) (pa : Nat) (b : Byte) (es : List Effect) : Byte :=
  es.foldl (fun x e => if e.fib = f ∧ e.pa ≤ pa ∧ pa < e.pa + e.data.length then e.data.getD (pa - e.pa) 0 else x) b

/-- Bytes read from a host page or a peer window, under what the reading fibre has stored there and the effect buffer still holds (R8, R165, R391). -/
def State.underEffects (s : State) (f : FibreKey) (v : VID) (pa : Nat) (bs : List Byte) : List Byte :=
  let es := (s.domain (vidDomain v)).effects.filter fun e => decide (e.fib = f)
  if es.isEmpty then bs else bs.mapIdx fun i b => effectByte f (pa + i) b es

/-! Sync classes. -/

/-- ORD and the observers of a sync-class byte (R290). -/
def syncOrd (b : Byte) : Nat := bits b.toNat 6 5
def syncObs (b : Byte) : BitVec 5 := b.setWidth 5

/-- Whether a sync-class byte makes an AST or an atomic a release (R291). -/
def releases (op : AtomicOp) (ord : Nat) : Bool := decide (op = .st) || decide (ord = 2) || decide (ord = 3)
def acquires (op : AtomicOp) (ord : Nat) : Bool := decide (op = .ld) || decide (ord = 1) || decide (ord = 3)

/-- What the observers of a release do on its core, after the fibre's earlier accesses (R291): the boundary of C, X, M and H, tensor lines for X and M, and the write-through for H. -/
def State.releaseObs (s : State) (core : Nat) (obs : BitVec 5) : State :=
  (if boundaryObs obs then s.publishCore core else s).observe obs

/-- The acquire side of R291 on a core. -/
def State.acquireSide (s : State) (core : Nat) (obs : BitVec 5) : State :=
  if obs = 0 then s
  else
    let s1 := if obs.getLsbD 4 then s.refetchHost else s
    s1.snapshot core

/-! Atomics at their home. -/

/-- The new memory value of an atomic, in `wide` or 32-bit width; none when nothing is written (R161 to R164). -/
def atomicNew (op : AtomicOp) (wide : Bool) (old b expect : DWord) : Option DWord :=
  let o := old.setWidth 32
  let x := b.setWidth 32
  let pick := fun (c : Bool) => some (if c then old else b)
  match op with
  | .add => some (if wide then old + b else (o + x).setWidth 64)
  | .and => some (old &&& b)
  | .or => some (old ||| b)
  | .xor => some (old ^^^ b)
  | .min => pick (if wide then old.slt b else o.slt x)
  | .max => pick (if wide then b.slt old else x.slt o)
  | .xch => some b
  | .cas => if (if wide then decide (old = expect) else decide (o = expect.setWidth 32)) then some b else none
  | .fadd =>
    if wide then some (BitVec.ofNat 64 (fp64.finish (exactAdd (fp64.value old.toNat) (fp64.value b.toNat))).1)
    else some (BitVec.ofNat 64 (fp32.finish (exactAdd (fp32.value o.toNat) (fp32.value x.toNat))).1)
  | .ld => none
  | .st => some b
  | .dec => if o = 0 then none else some ((o - 1).setWidth 64)

/-- Commits an access's own write: at the boundary's stamp when the release took one, else at a stamp of its own (R287, R291). -/
def State.commitOwn (s : State) (taken : Bool) (v : VID) (pa : Nat) (bs : List Byte) (gbar : Bool) : State :=
  if taken ∧ s.isRoot v then
    let cs := cellsAt pa bs
    let s1 := s.commitCells s.mem.stamp cs
    if gbar then s1 else s1.clobber (s.overlapsWord 0 cs)
  else s.writeNewest v (cellsAt pa bs) gbar

/-- Whether an atomic goes to the base die as one ATOMIC packet (R268): its page is G32 or G64, and no committed frame holds its sector. -/
def State.atBaseDie (s : State) (pa : Nat) : Bool :=
  (match regionOf pa with
    | .hbm d => decide (s.frameGran d pa ≤ 1)
    | _ => false) && !((s.committed (pa / 1024)).any fun x => (sectorsOf x.2.cells).getLsbD (pa / 32 % 32))

/-- Bytes that a base die writes for an atomic (R268): they have a stamp of their own, and no frame. -/
def State.baseWrite (s : State) (pa : Nat) (bs : List Byte) : State :=
  let t := s.mem.stamp + 1
  let s1 : State := { s with mem := { s.mem with stamp := t, complete := t, dram := Memory.writeN s.mem.dram pa bs, lastPub := notePub s.mem.lastPub t [pa / 1024] } }
  s1.clobber (s.overlapsWord 0 (cellsAt pa bs))

/-- An atomic on the newest data of a version (R268, R287, R385): every earlier publication is complete, the old value is read, and the new one is committed: at the base die where R268 says so and the write has a stamp of its own (log 105), else in an L2 frame after a fill. Answers the old value and whether a compare failed. -/
def State.atomicHome (s : State) (v : VID) (pa : Nat) (op : AtomicOp) (wide taken : Bool) (b e : DWord) : State × DWord × Bool :=
  let n := if wide then 8 else 4
  let s0 := s.drainPubs
  let base := s0.isRoot v && !taken && s0.atBaseDie pa
  let s1 := if base then s0 else s0.l2Use v pa n
  let old := leDWord (s1.newestBytes v pa n)
  match atomicNew op wide old b e with
  | none => (s1, old, decide (op = .cas))
  | some new => (if base then s1.baseWrite pa (leBytes n new.toNat) else s1.commitOwn taken v pa (leBytes n new.toNat) false, old, false)

/-- Performs a core's atomic at its home, given that the release side has been performed (R287, R291, R385): the core's unpublished bytes of the word are published immediately before it; with `thru` what it wrote goes through to the host. -/
def State.atomicAt (s : State) (core : Nat) (v : VID) (pa : Nat) (op : AtomicOp) (wide taken : Bool) (b e : DWord) (thru : Bool) : State × DWord × Bool :=
  let r := (s.publishBytes core v pa (if wide then 8 else 4)).atomicHome v pa op wide taken b e
  (if thru ∧ regionOf pa = .host then r.1.writeThrough (pa / 1024) else r.1, r.2)

/-! The effect buffer (R391). -/

/-- Issues one effect as the write that it records, with its observers (R391): the increment of a DONE word (R285), a host store, or a peer store. -/
def State.issueEffect (s : State) (e : Effect) : State :=
  let s1 := s.observe e.obs
  let thru := fun (t : State) => if e.obs.getLsbD 4 then t.writeThrough (e.pa / 1024) else t
  match regionOf e.pa with
  | .peer w => (s1.sendPeer e.fib w e.pa e.va (if e.data = [] then .atomic .add true 1 0 else .store e.data) (.lanes []) false).2
  | _ => if e.data = [] then thru (s1.atomicHome 0 e.pa .add true false 1 0).1 else thru (s1.physWrite e.pa e.data)

/-- Whether the observer P of an effect has peer stores of its fibre to wait for (R291, R391). -/
def State.effectHeld (s : State) (e : Effect) : Bool :=
  e.obs.getLsbD 3 && s.mem.peers.any fun r => decide (r.fib = e.fib) && !r.waits

/-- Issues the effects of committed versions in order, each after the one before it, as far as their observers let them. -/
def State.pushEffects : Nat → State → Nat → State
  | 0, s, _ => s
  | n + 1, s, d => match (s.domain d).effects.find? (·.go) with
    | none => s
    | some e =>
      if s.effectHeld e then s
      else State.pushEffects n ((s.modDomain d fun x => { x with effects := x.effects.erase e }).issueEffect e) d

/-- Issues, in order, the buffered effects of versions that commit (R391). -/
def State.issueEffects (s : State) (d : Nat) (path : List VID) : State :=
  State.pushEffects effectRoom (s.modDomain d fun x => { x with effects := x.effects.map fun e => if path.contains e.vid then { e with go := true } else e }) d

/-- Gives an atomic's old value to its fibre. -/
def State.giveOld (s : State) (f : FibreKey) (dst : List Nat) (old : DWord) : State :=
  s.modFibre f fun x => x.setPhysBytes dst (leBytes (4 * dst.length) old.toNat)

/-- A write of an atomic to the collective notify word (22 R516). -/
def State.postColl (s : State) (wg : Nat) (va : VA) (wide : Bool) (rel : Bool) (obs : BitVec 5) (new : DWord) : State :=
  if s.crLog2 ≠ 0 ∧ va.toNat = s.crNotify ∧ !wide ∧ rel ∧ obs.getLsbD 3 then
    { s with order := s.order + 1, coll := { s.coll with posts := s.coll.posts ++ [(new.setWidth 32, wg, s.order)] } }
  else s

/-- Performs a pending atomic at its home (R287, R291): as a release after the fibre's loads and stores, as an acquire before its later accesses. -/
def State.performPending (s : State) (p : PAtomic) : State :=
  let obs := syncObs p.sc
  let rel := releases p.op (syncOrd p.sc)
  let s1 : State := { s with mem := { s.mem with atomics := s.mem.atomics.filter fun q => decide (q.n ≠ p.n) } }
  let s2 := if rel then ((s1.returnLoads p.fib fun l => decide (l.n < p.n)).landSome p.fib fun q => decide (q.n < p.n)).releaseObs p.core obs else s1
  let r := s2.atomicAt p.core p.vid p.pa p.op p.wide (rel && boundaryObs obs) p.b p.expect (rel && obs.getLsbD 4)
  let s3 := (r.1.saw p.fib p.pa (if p.wide then 8 else 4)).giveOld p.fib p.dst r.2.1
  let s4 := match atomicNew p.op p.wide r.2.1 p.b p.expect with
    | some new => s3.postColl p.fib.wg p.va p.wide rel obs new
    | none => s3
  if acquires p.op (syncOrd p.sc) then s4.acquireSide p.core obs else s4

/-- Whether a FENCE of a workgroup that is not over yet holds back the reads of a command that was issued after it began, on the path of a bit of its after-set (R294). -/
def State.fenced (s : State) (wg order bit : Nat) : Bool :=
  s.fibres.any fun f => decide (f.wg = wg) && match f.wait.map Wait.why with
    | some (.fence o _ a) => decide (o ≤ order) && a.getLsbD bit
    | _ => false

/-! Fault records of engine commands. -/

/-- Records a fault of a group's engine command; a group holds one record, and a group with no live fibre none (R326, R364). -/
def State.recordFault (s : State) (wg grp : Nat) (r : EngFault) : State :=
  let lanes := (s.fibres.filter fun f => decide (f.wg = wg) && decide (f.grp = grp) && f.live).map (·.lane)
  if lanes = [] then s else s.modGroup wg grp fun g => { g with fault := some (g.fault.getD { r with left := lanes }) }

/-- The deferred fault that a fibre takes at a WAIT or a FEND, if one is due there (R326, R364), which a fibre in its handler does not take yet (R443): `matrix` says that it takes a matrix command's, and `mask` names the tokens whose copy commands it takes. -/
def State.dueFault (s : State) (f : Fibre) (matrix : Bool) (mask : BitVec 8) : Option Trap :=
  match (s.group f.wg f.grp).fault with
  | none => none
  | some r =>
    if f.pl ≠ .h ∧ r.left.contains f.lane ∧ (if r.ring then decide (mask ≠ 0) else if r.copy then mask.getLsbD r.token.toNat else matrix) = true then
      some { code := r.code, addr := r.addr, info := if r.copy then 0x80000000 ||| BitVec.ofNat 32 (r.token.toNat * 1024 + r.slot.toNat) else 0x80002000 }
    else none

/-- A fibre no longer has a group's record to take; a record that none has to take is gone (R326, R439). -/
def Group.faultTaken (g : Group) (lane : Nat) : Group :=
  { g with fault := match g.fault with
    | none => none
    | some r => if r.left.all (fun l => decide (l = lane)) then none else some { r with left := r.left.filter fun l => decide (l ≠ lane) } }

def State.faultTaken (s : State) (f : Fibre) : State := s.modGroup f.wg f.grp fun g => g.faultTaken f.lane

/-! Posts to a notify word. -/

/-- A qualifying write has landed in a notify word (R352): commands are exposed and their tokens rise, or an overrun is recorded against the writer's group. -/
def State.notifyPost (s : State) (wg grp : Nat) (new : BitVec 32) : State :=
  let w := s.wg wg
  let l := s.launch wg
  let n := l.ringSize
  if n < (new - w.ringC).toNat then
    let rec_ : EngFault := { code := .copyCommand, addr := BitVec.ofNat 64 (ownAperture + l.notifyOff), copy := true, ring := true, token := 0, slot := BitVec.ofNat 10 (w.pOld.toNat % max n 1) }
    s.recordFault wg grp rec_
  else
    let fresh := (List.range (new - w.pOld).toNat).map fun k =>
      let i := w.pOld + BitVec.ofNat 32 k
      let first := leNat (s.padRead wg (l.ringOff + 32 * (i.toNat % max n 1)) 4)
      ({ idx := i, grp := grp, token := BitVec.ofNat 3 (bits first 8 6), vid := s.carries wg grp, order := s.order + k, at_ := s.clock } : Exposed)
    let s1 : State := { s with order := s.order + fresh.length }
    s1.modWg wg fun x =>
      { x with pOld := new, exposed := x.exposed ++ fresh, tokens := fresh.foldl (fun ts e => ts.modify e.token.toNat (· + 1)) x.tokens }

/-- Whether an atomic of a fibre writes its workgroup's notify word as a qualifying write (R352). -/
def State.qualifies (s : State) (f : Fibre) (wg off : Nat) (wide rel : Bool) (obs : BitVec 5) : Bool :=
  let l := s.launch wg
  decide (wg = f.wg) && decide (l.ringLog2 ≠ 0) && decide (off = l.notifyOff) && !wide && rel && obs.getLsbD 1

/-- A write of an atomic to a scratchpad word that may be a notify word: the commands that it exposes and their tokens come with the write, in the same clock (R352). -/
def State.postPad (s : State) (f : Fibre) (wg off : Nat) (wide : Bool) (rel : Bool) (obs : BitVec 5) (new : DWord) : State :=
  if s.qualifies f wg off wide rel obs then s.notifyPost f.wg f.grp (new.setWidth 32) else s

/-- An atomic on a scratchpad word (R164, R287): the old value goes to its fibre; a write that qualifies posts (R352). `failed` is applied after a failed ACAS. -/
def State.atomicPad (s : State) (f : Fibre) (wg off : Nat) (op : AtomicOp) (wide : Bool) (b e : DWord) (rel : Bool) (obs : BitVec 5) (dst : List Nat) (failed : State → State) : State :=
  let n := if wide then 8 else 4
  let old := leDWord (s.padRead wg off n)
  match atomicNew op wide old b e with
  | none => (if op = .cas then failed s else s).giveOld f.key dst old
  | some new => ((s.padWrite wg off (leBytes n new.toNat)).postPad f wg off wide rel obs new).giveOld f.key dst old

/-- A qualifying write lands (R352): what its atomic does, at this moment. -/
def State.landPost (s : State) (p : Post) : State :=
  let s1 : State := { s with mem := { s.mem with posts := s.mem.posts.filter fun q => decide (q.n ≠ p.n) } }
  match s1.fibre? p.fib with
  | none => s1
  | some f =>
    let obs := syncObs p.sc
    let s2 := s1.atomicPad f p.fib.wg (s1.launch p.fib.wg).notifyOff p.op false p.b p.expect true obs p.dst id
    if acquires p.op (syncOrd p.sc) then s2.acquireSide f.core obs else s2

/-- Lands the qualifying writes of a fibre, in program order. -/
def State.landPosts (s : State) (f : FibreKey) : State :=
  (s.mem.posts.filter fun p => decide (p.fib = f)).foldl (fun (t : State) p => t.landPost p) s

/-! Accesses in flight come to their end. -/

/-- Whether an atomic must await an earlier access of its fibre: an atomic on the same bytes (R165) or one that is an acquire; and, if it is a release, every earlier atomic and load (R291). -/
def State.heldBack (s : State) (p : PAtomic) : Bool :=
  let rel := releases p.op (syncOrd p.sc)
  let size := fun (q : PAtomic) => if q.wide then 8 else 4
  (s.mem.atomics.any fun q => decide (q.fib = p.fib) && decide (q.n < p.n) && (rel || acquires q.op (syncOrd q.sc) || overlap q.pa (size q) p.pa (size p))) ||
    (rel && s.mem.loads.any fun l => decide (l.fib = p.fib) && decide (l.n < p.n) && s.blocked l)

/-- Performs the atomics of a fibre that `p` picks, in program order, as far as they may be performed. -/
def State.performAll (s : State) (f : FibreKey) (p : PAtomic → Bool) : State :=
  (s.mem.atomics.filter fun q => decide (q.fib = f) && p q).foldl (fun (t : State) q => if t.heldBack q then t else t.performPending q) s

/-- A fibre's atomics, loads and posts in flight come to their end, as far as their data can be had (R8, R166). -/
def State.drainLoads (s : State) (f : FibreKey) : State := ((s.performAll f fun _ => true).returnLoads f fun _ => true).landPosts f

/-- Brings a fibre's accesses in flight to their end (R165, R291). -/
def State.drainFibre (s : State) (f : FibreKey) : State := (s.drainLoads f).landAll f

/-- What must have taken effect before an access of a fibre to some bytes (R165, R289, R291): its posts, its acquires, and its loads and atomics in flight that overlap the bytes. -/
def State.settleOver (s : State) (f : FibreKey) (pa n : Nat) : State :=
  let s1 := (s.landPosts f).performAll f fun q => acquires q.op (syncOrd q.sc) || overlap q.pa (if q.wide then 8 else 4) pa n
  s1.returnLoads f fun l => overlap l.pa l.size pa n

/-- The release side of R291 for a fibre: its earlier accesses are performed, and the observers have their effects. A load whose data cannot be had yet, and a wait of observer P, end it early. -/
def State.releaseSide (s : State) (f : Fibre) (obs : BitVec 5) : State × Option Why :=
  let s1 := s.drainFibre f.key
  if s1.mem.loads.any (fun l => decide (l.fib = f.key)) then (s1, some .data)
  else if obs.getLsbD 3 ∧ s1.mem.peers.any (fun r => decide (r.fib = f.key)) then (s1, some .acks)
  else (s1.releaseObs f.core obs, none)

/-! Global accesses. -/

/-- The fibres for which one of a group's acts (R107): the live ones of its group that stand where it stands. -/
def State.together (s : State) (f : Fibre) : List FibreKey :=
  (s.fibres.filter fun g => decide (g.wg = f.wg) && decide (g.grp = f.grp) && decide (g.part = f.part) && decide (g.seat = f.seat) && g.live).map Fibre.key

/-- Sends a load to a peer (R511): it is answered once the fibre's earlier stores to the same bytes are (R512). -/
def State.askPeer (s : State) (f : Fibre) (w pa : Nat) (va : VA) (op : PeerOp) (d : Dest) (acq : BitVec 5) : State :=
  let r := s.sendPeer f.key w pa va op d true
  let all := if d.isLanes then [] else s.together f
  { r.2 with mem := { r.2.mem with peers := r.2.mem.peers.map fun q => if q.n = r.1 then { q with acq := acq, with_ := all } else q } }

/-- A global load of a fibre. Its data returns now, or later where accesses are left in flight, where the line is being fetched from the host, or where it comes from a peer (R166, R473, R511). -/
def State.loadGlobal (s : State) (f : Fibre) (va : VA) (n : Nat) (hint : Nat) (d : Dest) : Seq :=
  let need : Need := {}
  match s.translate (s.who f) va need with
  | (s1, .fault t) => .trap s1 t
  | (s1, .ok pa vid _ _) =>
    match regionOf pa with
    | .peer w =>
      if !(s1.peerCheck w pa false false false) then .trap s1 (memTrap .pageProtection va need 0)
      else .done ((s1.settleOver f.key pa n).askPeer f w pa va (.load n) d 0)
    | _ =>
      if !(s1.mayAsk f.core) && !(s1.quiet f) then .wait s1 .data
      else
        let s2 := s1.settleOver f.key pa n
        let l : PLoad := { n := s2.ids, fib := f.key, core := f.core, vid := vid, va := va, pa := pa, size := n, dst := d, hint := hint, since := s2.clock }
        let apart := s2.mem.stores.all fun p => !(decide (p.fib = f.key) && overlap p.pa p.data.length pa n)
        if s2.blocked l || (s2.late && d.isLanes && apart) then
          .done { s2 with ids := s2.ids + 1, mem := { s2.mem with loads := s2.mem.loads ++ [l] } }
        else
          let r := (s2.landAll f.key).loadBytes f.core vid f.seen va.toNat pa n hint
          .done ((if hint = 3 then r.1.saw f.key pa n else r.1).deliver f.key d (r.1.underEffects f.key (s.fibreVid f) pa r.2))

/-- A load of any address (R152, R155, R157). A helper's load that would fault, or whose .W does not hold, writes 0 (R205). -/
def State.load (s : State) (f : Fibre) (hint : Nat) (wform : Bool) (n : Nat) (d : Dest) (va : VA) (next : VA × Word) : Seq :=
  let a := va.toNat
  let zero := s.deliver f.key d (List.replicate n 0)
  let quiet := s.quiet f
  match s.target f.wg a with
  | .bad => if quiet then .done zero else .trap s (apertureTrap a)
  | .glob =>
    if wform then (if quiet then .done zero else .trap s operandTrap)
    else if a % n ≠ 0 then (if quiet then .done zero else .trap s (misalignedTrap a))
    else match s.loadGlobal f va n hint d with
      | .done s1 => .done s1
      | .jumped s1 => .done s1
      | .trap s1 t => if quiet then .done (s1.deliver f.key d (List.replicate n 0)) else .trap s1 t
      | .wait s1 w => .wait s1 w
  | .pad wg off =>
    if a % n ≠ 0 then (if quiet then .done zero else .trap s (misalignedTrap a))
    else if !wform then .done (s.deliver f.key d (s.padRead wg off n))
    else
      let g := off / 1024
      let regs := match d with | .lanes r => r | .k _ => [] | .record => []
      if s.tagMeets wg g (s.fibreVid f) .full then .done (s.deliver f.key d (s.padRead wg off n))
      else if quiet then .done zero
      else if (s.wg wg).tag g = .poisoned then .trap s (poisonTrap a)
      else .wait s (.access { wg := wg, off := off, va := va, need := .full, store := false, sf := false, size := n, data := [], dst := regs, pc := next.1, rep := next.2 })

/-! Records that the part reads for an instruction (09 R237, R240; 14 R372; 15 R401). -/

/-- What became of such a read. -/
inductive Got where
  | bytes (bs : List Byte)
  | trap (t : Trap)
  | wait (w : Why)

/-- Asks a peer for an instruction that needs the answer before it can go on: it waits for the reply, which stays with the request until the instruction is over. -/
def State.askRecord (s : State) (f : Fibre) (w pa : Nat) (va : VA) (op : PeerOp) : State × Got :=
  match s.mem.peers.find? fun r => decide (r.fib = f.key) && decide (r.va = va) && decide (r.dst = .record) with
  | some r => match r.got with
    | some bs => (s, .bytes bs)
    | none => (s, .wait (.peer r.n))
  | none =>
    let r := s.sendPeer f.key w pa va op .record true
    (r.2, .wait (.peer r.1))

/-- Reads a record as a core-path load of a fibre. -/
def State.readRecord (s : State) (f : Fibre) (va : VA) (n : Nat) (spill : Bool := false) : State × Got :=
  let need : Need := { spill := spill }
  match s.target f.wg va.toNat with
  | .bad => (s, .trap (apertureTrap va.toNat need))
  | .pad wg off => (s, .bytes (s.padRead wg off n))
  | .glob =>
    match (s.drainFibre f.key).translate (s.who f) va need with
    | (s1, .fault t) => (s1, .trap t)
    | (s1, .ok pa vid _ _) =>
      match regionOf pa with
      | .peer w =>
        if !(s1.peerCheck w pa false false false) then (s1, .trap (memTrap .pageProtection va need 0)) else s1.askRecord f w pa va (.load n)
      | _ =>
        if s1.mem.refetch.contains (pa / 1024) then (s1, .wait .data)
        else
          let r := s1.loadBytes f.core vid f.seen va.toNat pa n 0
          (r.1, .bytes (r.1.underEffects f.key (s.fibreVid f) pa r.2))

/-! Stores. -/

/-- Whether a non-root version's write to a physical address goes through its domain's effect buffer (R391). -/
def State.buffered (s : State) (v : VID) (pa : Nat) : Bool :=
  !(s.isRoot v) && match regionOf pa with
    | .host => true
    | .peer _ => true
    | _ => false

/-- Puts a write into the effect buffer; none when it is full (R391). -/
def State.bufferEffect (s : State) (v : VID) (f : FibreKey) (pa : Nat) (va : VA) (bs : List Byte) (obs : BitVec 5) : Option State :=
  let d := vidDomain v
  if (s.domain d).effects.length < effectRoom then
    some (s.modDomain d fun x => { x with effects := x.effects ++ [{ vid := v, pa := pa, data := bs, obs := obs, fib := f, va := va }] })
  else none

/-- Whether a store finds neither its line in the L2 nor a way or a victim for it: it waits (R387). -/
def State.noRoom (s : State) (v : VID) (core pa : Nat) : Bool :=
  s.noWay (pa / 1024) && !((s.ways (pa / 1024)).any fun f => decide (f.line = pa / 1024) &&
    (match f.kind with
      | .committed => s.isRoot v
      | .priv => s.isRoot v && decide (f.core = core)
      | .spec => decide (f.vid = s.actual v)))

/-- A global store of a fibre (R153, R168, R280, R391, R510): it lands in program order after the fibre's earlier stores (R288). -/
def State.storeGlobal (s : State) (f : Fibre) (va : VA) (bs : List Byte) (hint : Nat) (spill : Bool := false) : Seq :=
  let need := storeNeed spill
  match s.translate (s.who f) va need with
  | (s1, .fault t) => .trap s1 t
  | (s1, .ok pa vid _ _) =>
    if s1.buffered vid pa then
      match (match regionOf pa with | .peer w => s1.peerCheck w pa true false false | _ => true) with
      | false => .trap s1 (memTrap .pageProtection va need 0)
      | true => match s1.bufferEffect vid f.key pa va bs 0 with
        | some s2 => .done s2
        | none => .wait s1 .stall
    else match regionOf pa with
      | .peer w =>
        if !(s1.peerCheck w pa true false false) then .trap s1 (memTrap .pageProtection va need 0)
        else .done (s1.sendPeer f.key w pa va (.store bs) (.lanes []) false).2
      | .control =>
        .done (s1.pushCtl (pa - 0x1000000000000) bs)
      | _ =>
        if s1.mem.refetch.contains (pa / 1024) || !(s1.mayAsk f.core) then .wait s1 .data
        else if s1.noRoom vid f.core pa then .wait s1 .stall
        else
          let s2 := s1.settleOver f.key pa bs.length
          if s2.late then
            let p : PStore := { n := s2.ids, fib := f.key, core := f.core, vid := vid, va := va, pa := pa, data := bs, hint := hint, since := s2.clock }
            .done { s2 with ids := s2.ids + 1, mem := { s2.mem with stores := s2.mem.stores ++ [p] } }
          else .done ((s2.landAll f.key).landStore f.core vid va.toNat pa bs hint)

/-- A store of a live fibre to any address (R155 to R157, R405). -/
def State.store (s : State) (f : Fibre) (hint : Nat) (wform : Bool) (va : VA) (bs : List Byte) (next : VA × Word) (spill : Bool := false) : Seq :=
  let a := va.toNat
  let sf := decide (hint = 3)
  let need := storeNeed spill
  match s.target f.wg a with
  | .bad => .trap s (apertureTrap a need)
  | .glob =>
    if wform || sf then .trap s (operandTrap.of need)
    else if a % bs.length ≠ 0 then .trap s ((misalignedTrap a).of need)
    else s.storeGlobal f va bs hint spill
  | .pad wg off =>
    if a % bs.length ≠ 0 then .trap s ((misalignedTrap a).of need)
    else
      let g := off / 1024
      let v := s.fibreVid f
      let tag := if wform then TagNeed.empty else .free
      if wform ∧ (s.wg wg).tag g = .poisoned then .trap s (poisonTrap a need)
      else if (!wform && !sf) || (s.tagMeets wg g v tag && !(wform && (s.wg wg).heldWe g)) then
        .done (if sf then s.landFull wg off bs v else s.padWrite wg off bs)
      else .wait s (.access { wg := wg, off := off, va := va, need := tag, store := true, sf := sf, size := bs.length, data := bs, dst := [], pc := next.1, rep := next.2 })

/-- A waiting access whose granule is now as awaited (R250): what it does to memory and registers. -/
def State.performAccess (s : State) (f : Fibre) (a : WaitAcc) : State :=
  if a.store then (if a.sf then s.landFull a.wg a.off a.data (s.fibreVid f) else s.padWrite a.wg a.off a.data)
  else s.deliver f.key (.lanes a.dst) (s.padRead a.wg a.off a.size)

/-- Whether a waiting access may proceed (R250, R363). -/
def State.accessReady (s : State) (f : Fibre) (a : WaitAcc) : Bool :=
  s.tagMeets a.wg (a.off / 1024) (s.fibreVid f) a.need &&
    !(decide (a.need = .empty) && (s.wg a.wg).heldWe (a.off / 1024))

/-! Atomics. -/

/-- What an atomic needs of its page (R151). -/
def atomicNeed (op : AtomicOp) : Need :=
  match op with
  | .ld => { read := true }
  | .st => { read := false, write := true }
  | _ => { read := true, write := true }

/-- An atomic of a live fibre (R161 to R164, R287, R291): release side, the access, acquire side. `failed` is applied after a failed ACAS. -/
def State.atomic (s : State) (f : Fibre) (op : AtomicOp) (wide : Bool) (sc : Byte) (va : VA) (b e : DWord) (dst : List Nat) (failed : State → State) : Seq :=
  let a := va.toNat
  let n := if wide then 8 else 4
  let need := atomicNeed op
  let obs := syncObs sc
  let rel := releases op (syncOrd sc)
  let acq := acquires op (syncOrd sc)
  let before := fun (t : State) => if rel then t.releaseSide f obs else (t.drainFibre f.key, none)
  let after := fun (t : State) => if acq then t.acquireSide f.core obs else t
  match s.target f.wg a with
  | .bad => .trap s (apertureTrap a need)
  | .pad wg off =>
    if a % n ≠ 0 then .trap s ((misalignedTrap a).of need)
    else match before s with
      | (s1, some w) => .wait s1 w
      | (s1, none) =>
        if s1.late && decide (op ≠ .cas) && s1.qualifies f wg off wide rel obs then
          let p : Post := { n := s1.ids, fib := f.key, op := op, b := b, expect := e, sc := sc, dst := dst }
          .done { s1 with ids := s1.ids + 1, mem := { s1.mem with posts := s1.mem.posts ++ [p] } }
        else .done (after (s1.atomicPad f wg off op wide b e rel obs dst failed))
  | .glob =>
    if a % n ≠ 0 then .trap s ((misalignedTrap a).of need)
    else
      match s.translate (s.who f) va need with
      | (s1, .fault t) => .trap s1 t
      | (s1, .ok pa vid _ _) =>
        if s1.buffered vid pa then
          if op ≠ .st then .trap s1 operandTrap
          else match (match regionOf pa with | .peer w => s1.peerCheck w pa true false false | _ => true) with
            | false => .trap s1 (memTrap .pageProtection va need 0)
            | true => match before s1 with
              | (s2, some w) => .wait s2 w
              | (s2, none) => match s2.bufferEffect vid f.key pa va (leBytes n b.toNat) obs with
                | some s3 => .done (after s3)
                | none => .wait s2 .stall
        else match regionOf pa with
          | .peer w =>
            let isAtomic := decide (op ≠ .ld) && decide (op ≠ .st)
            if !(s1.peerCheck w pa (decide (op ≠ .ld)) isAtomic (decide (op = .fadd))) then .trap s1 (memTrap .pageProtection va need 0)
            else match before s1 with
              | (s2, some y) => .wait s2 y
              | (s2, none) =>
                let ask := match op with
                  | .ld => PeerOp.load n
                  | .st => PeerOp.store (leBytes n b.toNat)
                  | _ => PeerOp.atomic op wide b e
                if op = .st then .done (after (s2.sendPeer f.key w pa va ask (.lanes []) false).2)
                else .done (s2.askPeer f w pa va ask (.lanes dst) (if acq then obs else 0))
          | .control =>
            match before s1 with
            | (s2, some y) => .wait s2 y
            | (s2, none) =>
              let r := s2.ctlRead (pa - 0x1000000000000) n
              let t := r.1.giveOld f.key dst (leDWord r.2)
              match atomicNew op wide (leDWord r.2) b e with
              | none => .done (after (if op = .cas then failed t else t))
              | some new => .done (after (t.pushCtl (pa - 0x1000000000000) (leBytes n new.toNat)))
          | _ =>
            if s1.mem.refetch.contains (pa / 1024) || !(s1.mayAsk f.core) then .wait s1 .data
            else if s1.noRoom vid f.core pa then .wait s1 .stall
            else if s1.late && !(rel && obs.getLsbD 3) && decide (op ≠ .cas) then
              let s2 := (s1.settleOver f.key pa n).landAll f.key
              let s3 := if rel then s2.performAll f.key fun _ => true else s2
              let p : PAtomic := { n := s3.ids, fib := f.key, core := f.core, vid := vid, va := va, pa := pa, op := op, wide := wide, b := b, expect := e, sc := sc, dst := dst, since := s3.clock }
              .done { s3 with ids := s3.ids + 1, mem := { s3.mem with atomics := s3.mem.atomics ++ [p] } }
            else match before s1 with
              | (s2, some w) => .wait s2 w
              | (s2, none) =>
                let r := s2.atomicAt f.core vid pa op wide (rel && boundaryObs obs) b e (rel && obs.getLsbD 4)
                let s3 := (r.1.saw f.key pa n).giveOld f.key dst r.2.1
                let s4 := if r.2.2 then failed s3 else match atomicNew op wide r.2.1 b e with
                  | some new => s3.postColl f.wg va wide rel obs new
                  | none => s3
                .done (after s4)

end Sys2Proof.Machine
end

