-- ==== Sys2Proof/Machine/Resolve.lean ====
section
/-! DEFINITION. What the part does to pages by itself: the frame table (19 R460, R461), the compression zone and expansion (R464, R465), copies of versioned pages (15 R388), and global accesses of engines, which wait for what the part resolves (11 R292; 13 R341; 14 R364; 18 R437). -/

namespace Sys2Proof.Machine

/-! The frame table. -/

/-- The die and index of an HBM frame (R460). -/
def frameIndex (pa : Nat) : Option (Nat × Nat) :=
  match regionOf pa with
  | .hbm d => some (d, (pa - hbmBase d) / 65536)
  | _ => none

/-- The physical address of frame `f` of a die. -/
def framePa (d f : Nat) : Nat := hbmBase d + 65536 * f

/-- The physical address of a frame's table entry. -/
def State.ftAddr (s : State) (d f : Nat) : Nat := s.pressReg d 0x08 + 32 * f

/-- Bytes 8 to 15 of a frame's entry. -/
def State.ftWord (s : State) (d f : Nat) : Nat := leNat (s.physRead (s.ftAddr d f + 8) 8)

/-- The states of a frame, as R460 numbers them. -/
def ftFree : Nat := 0
def ftInuse : Nat := 1
def ftCold : Nat := 2
def ftWindow : Nat := 3
def ftPinned : Nat := 4
def ftQuarantined : Nat := 5
def ftRetired : Nat := 6

def ftState (w : Nat) : Nat := bits w 63 61
def ftGran (w : Nat) : Nat := bits w 60 58
def ftAge (w : Nat) : Nat := bits w 57 56
def ftRf (w : Nat) : Bool := decide (bits w 54 54 = 1)

/-- A word of the table with another STATE and AGE. -/
def ftWith (w st age : Nat) : Nat := st * 2 ^ 61 + ftGran w * 2 ^ 58 + age * 2 ^ 56 + w % 2 ^ 56

def State.setFt (s : State) (d f w : Nat) : State := s.physWrite (s.ftAddr d f + 8) (leBytes 8 w)

/-- PTEPA and HBPA of an entry. -/
def State.ftPte (s : State) (d f : Nat) : Nat := bits (leNat (s.physRead (s.ftAddr d f) 8)) 49 3 * 8
def State.ftHbpa (s : State) (d f : Nat) : Nat := bits (leNat (s.physRead (s.ftAddr d f + 16) 8)) 49 16 * 65536

/-- Writes a leaf, and removes its translations as TLBI does (R451). -/
def State.putLeaf (s : State) (leafPa : Nat) (leaf : BitVec 64) : State :=
  (s.physWrite leafPa (leBytes 8 leaf.toNat)).sweepLeaf leafPa

/-! Whole pages. -/

/-- The 64 KiB of a page as the newest committed data holds it. -/
def State.pageCells (s : State) (pa : Nat) : Cells :=
  (List.range 65536).filterMap fun i => if s.newestByte (pa + i) = 0 then none else some (i, s.newestByte (pa + i))

/-- Fills a frame that nothing maps with a page's bytes: what the L2 held of it goes. -/
def State.installPage (s : State) (pa : Nat) (page : Cells) : State :=
  { s with mem := { s.mem with
      dram := Memory.writeAll (Memory.clear s.mem.dram pa 65536) (page.map fun c => (pa + c.1, c.2))
      frames := s.mem.frames.filter fun f => !(decide (pa / 1024 ≤ f.line) && decide (f.line < pa / 1024 + 64)) } }

/-! Expansion. -/

/-- The die and record that a compressed leaf names: FRAME holds the record's index, with the zone's die in its top bit (R464). -/
def State.zoneRec (s : State) (leaf : BitVec 64) : Option (Nat × ZoneRec) :=
  let d := leafFrame leaf / 2 ^ 33
  ((s.pressOf d).zone.find? fun r => decide (r.index = leafFrame leaf % 2 ^ 33)).map fun r => (d, r)

/-- The newest stamps of a page's lines in the L2, by line of the page. -/
def State.pageStamps (s : State) (pa : Nat) : List (Nat × BitVec 64) :=
  (List.range 64).filterMap fun i => match s.committed (pa / 1024 + i) with
    | [] => none
    | x :: _ => some (i, x.1)

/-- Gives the lines of a page that has moved their newest stamps: a core whose σ is older is still caught up when it next reads them (R261, R283, R464; log 115). -/
def State.stampPage (s : State) (pa : Nat) (stamps : List (Nat × BitVec 64)) : State :=
  stamps.foldl (fun (t : State) x =>
    let line := pa / 1024 + x.1
    let u := t.freeWay line
    { u with mem := { u.mem with frames := u.mem.frames ++ [{ line := line, kind := .committed, stamp := x.2, used := s.clock, cells := (List.range 1024).map fun i => (1024 * line + i, Memory.read u.mem.dram (1024 * line + i)) }] } }) s

/-- What an expansion comes to: it has begun, or is over; it waits for a frame; or its record is gone. -/
inductive Expanded where
  | done (s : State)
  | begun (s : State)
  | waits
  | gone

/-- The expansion of a leaf that runs, with its die (R465). -/
def State.expansionOf (s : State) (leafPa : Nat) : Option (Nat × Expansion) :=
  [0, 1].findSome? fun d => ((s.pressOf d).expanding.find? fun e => decide (e.leafPa = leafPa)).map fun e => (d, e)

/-- Begins the expansion of a compressed leaf (R465): its record is decompressed into a free frame of the zone's die. It waits for a frame; a record that is gone, or is being expanded for another leaf, gives PAGE_PROTECTION (R464). -/
def State.beginExpansion (s : State) (leafPa : Nat) : Expanded :=
  let pz := s.readEntry leafPa
  if !(leafV pz && leafZ pz) then .done s
  else match s.zoneRec pz with
    | none => .gone
    | some (d, r) =>
      if (s.pressOf d).expanding.any fun e => decide (e.record = r.index) then .gone
      else match s.popFrame d with
        | (none, _) => .waits
        | (some nf, s1) =>
          let s2 := (s1.installPage (framePa d nf) r.cells).stampPage (framePa d nf) r.stamps
          let s3 := s2.physWrite (s2.ftAddr d nf) (leBytes 8 (leafPa / 8 * 8))
          let s4 := s3.setFt d nf (ftInuse * 2 ^ 61 + r.gran.toNat * 2 ^ 58 + s3.ftWord d nf % 2 ^ 56)
          .begun (s4.modPress d fun p => { p with expanding := p.expanding ++ [⟨leafPa, pz, nf, r.index⟩] })

/-- Ends an expansion (R465): where the leaf still is as it was, it takes the frame; else the frame goes back. The record is free. -/
def State.endExpansion (s : State) (d : Nat) (e : Expansion) : State :=
  let s1 := s.modPress d fun p => { p with expanding := p.expanding.filter fun x => decide (x.leafPa ≠ e.leafPa), zone := p.zone.filter fun x => decide (x.index ≠ e.record) }
  if s.readEntry e.leafPa = e.pz then
    (s1.putLeaf e.leafPa (setFrame (e.pz &&& ~~~(1#64 <<< 57)) (framePa d e.frame))).moveBarriers e.leafPa (fun _ => true) (GbarWait.inFrame (framePa d e.frame))
  else
    let s2 := s1.setFt d e.frame (ftWith (s1.ftWord d e.frame) ftFree 0)
    s2.pushFrame d e.frame

/-- Takes the expansion of a page on: it begins, or the one that runs ends (R465). -/
def State.expandPage (s : State) (leafPa : Nat) : Expanded :=
  match s.expansionOf leafPa with
  | some x => .done (s.endExpansion x.1 x.2)
  | none => s.beginExpansion leafPa

/-! Copies of versioned pages. -/

/-- A byte of a versioned page as a version reads it (R383, R388): through a core's stores where a core is given, else as an engine. -/
def State.pageByte (s : State) (core : Option Nat) (v : VID) (pa : Nat) : Byte :=
  match core with
  | some c => (s.coreByte c v [] pa).getD (s.newestFor v pa)
  | none => s.newestFor v pa

/-- Gives a version its copy frame of a versioned page (R388); none when the free list is empty. -/
def State.copyVersionPage (s : State) (core : Option Nat) (v : VID) (leafPa : Nat) : Option State :=
  let leaf := s.readEntry leafPa
  let d := vidDomain v
  match s.popPool d with
  | none => none
  | some (frame, s1) =>
    let src := (s.copyOf leafPa (s.chain 64 v)).getD (65536 * leafFrame leaf, v)
    let page := (List.range 65536).filterMap fun i =>
      let b := s.pageByte core src.2 (src.1 + i)
      if b = 0 then none else some (i, b)
    let s2 := s1.installPage frame page
    some (s2.modVersion v fun x => { x with copies := x.copies ++ [(leafPa, frame)] })

/-! Engine accesses. -/

/-- How an engine's access goes: it has its bytes, a fault stops its command, or it waits for the part. -/
inductive Eng (α : Type) where
  | ok (s : State) (x : α)
  | stop (s : State) (t : Trap)
  | wait (s : State)

/-- The leaf that maps an address, where it stands. -/
def State.leafAt (s : State) (va : Nat) : Option Nat :=
  match s.walk va with
  | .leaf _ pa _ => some pa
  | .absent _ => none
  | .bad => none

/-- Whether some bytes lie in a line that is fetched from the host anew (R473). -/
def State.refetching (s : State) (pa n : Nat) : Bool := s.mem.refetch.any fun l => overlap (1024 * l) 1024 pa n

/-- Translates an engine's access of `len` bytes, none past its page; what the part resolves is resolved on the spot, or waited for (R437, R473). -/
def State.engineTranslate (s : State) (w : Who) (va : VA) (n : Need) (len : Nat) : Nat → Eng (Nat × VID)
  | 0 => .wait s
  | fuel + 1 =>
    match s.translate w va n with
    | (s1, .ok pa vid _ _) =>
      match regionOf pa with
      | .peer w => if s1.peerCheck w pa n.write false false then .ok s1 (pa, vid) else .stop s1 (memTrap .pageProtection va n 0)
      | _ => if s1.refetching pa len then .wait s1 else .ok s1 (pa, vid)
    | (s1, .fault t) =>
      match t.code, s1.leafAt va.toNat with
      | .compressedPage, some leaf =>
        match s1.expandPage leaf with
        | .done s2 => State.engineTranslate s2 w va n len fuel
        | .begun s2 => State.engineTranslate s2 w va n len fuel
        | .waits => .wait s1
        | .gone => .stop s1 (memTrap .pageProtection va n 0)
      | .versionPage, some leaf =>
        match s1.copyVersionPage none w.vid leaf with
        | some s2 => State.engineTranslate s2 w va n len fuel
        | none => .stop s1 (memTrap .versionPoolEmpty va n 0)
      | .writeProtectWindow, _ => .wait s1
      | _, _ => .stop s1 t

/-- The key under which a command of an engine sends requests to peers. -/
def engineKey (wg grp n : Nat) : FibreKey := ⟨wg, grp, 64 + n⟩

/-- Reads bytes of a peer page for an engine: a request, and later its answer (22 R511). -/
def State.peerFetch (s : State) (key : FibreKey) (w pa : Nat) (va : VA) (n : Nat) : Eng (List Byte) :=
  match s.mem.peers.find? fun r => decide (r.fib = key) && decide (r.va = va) && decide (r.dst = .record) with
  | some r => match r.bad, r.got with
    | some c, _ => .stop s (memTrap c va {} 0)
    | none, some bs => .ok s bs
    | none, none => .wait s
  | none => .wait (s.sendPeer key w pa va (.load n) .record true).2

/-- A read of the newest committed data through the L2, line by line (R265, R292). -/
def State.l2Span (s : State) (v : VID) (pa n : Nat) : State × List Byte :=
  let lines := (List.range ((pa + n + 1023) / 1024 - pa / 1024)).map (pa / 1024 + ·)
  (lines.foldl (fun (t : State) l => t.l2Use v (max pa (1024 * l)) (min (pa + n) (1024 * (l + 1)) - max pa (1024 * l))) s, s.newestBytes v pa n)

/-- Reads bytes of a scratchpad aperture for an engine command of a workgroup (R244); an engine that no workgroup commands finds none there. -/
def State.apertureRead (s : State) (src : Option Nat) (va n : Nat) : Eng (List Byte) :=
  match src with
  | none => .stop s (apertureTrap va)
  | some wg =>
    match s.target wg va with
    | .pad w off =>
      match s.target wg (va + n - 1) with
      | .pad _ _ => .ok s (s.padRead w off n)
      | _ => .stop s (apertureTrap (va + (s.launch wg).padBytes - off))
    | _ => .stop s (apertureTrap va)

/-- Reads bytes of the virtual space for an engine at the newest committed data, page by page (R292); an address in an aperture is that of the workgroup `src` (R244). -/
def State.engineFetch (key : FibreKey) (src : Option Nat) : Nat → State → Who → VA → Nat → Eng (List Byte)
  | 0, s, _, _, _ => .ok s []
  | fuel + 1, s, w, va, n =>
    if n = 0 then .ok s []
    else
      let k := min n (65536 - va.toNat % 65536)
      let part := if ownAperture ≤ va.toNat then s.apertureRead src va.toNat k
        else match s.engineTranslate w va {} k 4 with
        | .wait s1 => .wait s1
        | .stop s1 t => .stop s1 t
        | .ok s1 (pa, vid) =>
          match regionOf pa with
          | .control => Eng.ok s1 (List.replicate k 0)
          | .peer p => s1.peerFetch key p pa va k
          | _ => .ok (s1.l2Span vid pa k).1 (s1.l2Span vid pa k).2
      match part with
      | .wait s2 => .wait s2
      | .stop s2 t => .stop s2 t
      | .ok s2 bs =>
        match State.engineFetch key src fuel s2 w (va + BitVec.ofNat 48 k) (n - k) with
        | .ok s3 r => .ok s3 (bs ++ r)
        | x => x

/-- Forgets the answers that a command has used. -/
def State.dropReplies (s : State) (key : FibreKey) : State :=
  { s with mem := { s.mem with peers := s.mem.peers.filter fun r => decide (r.fib ≠ key) || !r.waits } }

end Sys2Proof.Machine
end

