-- ==== Sys2Proof/Machine/Matrix.lean ====
section
/-! DEFINITION. How matrix commands are built at a clasp's release (13 R315, R318, R321 to R326, R328 to R331): operand descriptors, shape records, the checks of R325 and R329, the bands of R330, and the places of the core's queues; with the tensor table (10 R254) and engine reads of global memory (11 R292). -/

namespace Sys2Proof.Machine

/-- The k-step length for an element width (R315). -/
def kstep (width : Nat) : Nat :=
  match width with
  | 64 => 16 | 32 => 32 | 16 => 64 | 4 => 256 | _ => 128

/-- Bytes of one operand row in a k-step (R315). -/
def rowBytes (width : Nat) : Nat := if width = 6 then 96 else 128

/-- Bytes of an accumulator element: FP64 has 8 (R318). -/
def accSize (slot : Word) : Nat := if slotAcc slot = 1 then 8 else 4

/-- The elements of a scale block (R77, R78). -/
def scaleBlock (code : Nat) : Nat := if scaleOf code = .shift then 32 else 128

/-- Scale blocks in a k-step (R324). -/
def scaleBlocks (code : Nat) : Nat := kstep (elemOf code).width / scaleBlock code

/-- Bytes of one step's scale array for R rows or columns, as they stand and rounded up (R324). -/
def scaleBytes (code rows : Nat) : Nat :=
  match scaleOf code with
  | .none => 0
  | .shift => scaleBlocks code * rows
  | .vector => 4 * scaleBlocks code * rows
  | .tile => 4 * ((rows + 127) / 128)

def scaleStep (code rows : Nat) : Nat :=
  match scaleOf code with
  | .tile => 32
  | _ => (scaleBytes code rows + 31) / 32 * 32

/-! The tensor table. -/

/-- An entry of the tensor table (R254). -/
structure Tensor where
  base : VA
  rows : Nat
  rbytes : Nat
  pitch : Nat
deriving DecidableEq, Repr

/-- The fields of an entry of a tensor table, if it keeps the rules of R254. -/
def tensorEntry (e : List Byte) : Option Tensor :=
  let rows := field e 8 4
  let rb := field e 12 4
  let pitch := field e 16 4
  let good := decide (field e 20 1 = 1) && (e.drop 21).all (fun b => decide (b = 0)) && decide (field e 6 2 = 0) &&
    decide (1 ≤ rows) && decide (rows ≤ 2 ^ 24) && decide (1 ≤ rb) && decide (rb ≤ 2 ^ 24) && decide (pitch % 64 = 0) && decide (rb ≤ pitch)
  if good then some ⟨BitVec.ofNat 48 (field e 0 6), rows, rb, pitch⟩ else none

/-- Entry `t` of a tensor table, if the identifier is valid (R254). The table is read as an engine reads: what the part resolves is waited for, and an address in an aperture is that of the workgroup `src`; a table that cannot be read stops the reader. -/
def State.tensor (s : State) (key : FibreKey) (src : Option Nat) (w : Who) (table : BitVec 64) (t : Nat) : Eng (Option Tensor) :=
  if table = 0 then .ok s none
  else
    match State.engineFetch key src 3 s w (table.setWidth 48) 32 with
    | .wait s1 => .wait s1
    | .stop s1 e => .stop s1 e
    | .ok s1 h =>
      let num := field h 0 2
      if num = 0 ∨ 4095 < num ∨ t = 0 ∨ num < t ∨ (h.drop 2).any (fun b => decide (b ≠ 0)) then .ok s1 none
      else match State.engineFetch key src 3 s1 w (table.setWidth 48 + BitVec.ofNat 48 (32 * t)) 32 with
        | .wait s2 => .wait s2
        | .stop s2 e => .stop s2 e
        | .ok s2 e => .ok s2 (tensorEntry e)

/-! Operand blocks. -/

/-- A parsed operand: where it stands, and whether its descriptor breaks a zero field, names SPACE 11, or breaks an alignment or a rank. -/
structure OpDesc where
  op : Operand
  zero : Bool
  align : Bool
  rank : Bool
  pad : Bool

/-- An operand descriptor of MMA (R322). -/
def operandDesc (d : DWord) (cluster : Nat) : OpDesc :=
  let n := d.toNat
  let off := bits n 22 0
  match bits n 63 62 with
  | 0 => ⟨.pad none off, decide (bits n 61 23 ≠ 0), decide (off % 32 ≠ 0), false, true⟩
  | 1 => ⟨.pad (some (bits n 61 60)) off, decide (bits n 59 23 ≠ 0), decide (off % 32 ≠ 0), decide (cluster ≤ bits n 61 60), true⟩
  | 2 => ⟨.tensor (bits n 59 48) (bits n 47 24) (bits n 23 0), decide (bits n 61 60 ≠ 0), decide (bits n 23 0 % 32 ≠ 0), false, false⟩
  | _ => ⟨.pad none 0, true, false, false, true⟩

/-- What a matrix word asks for: shape, operands and the fields of R321 or R329. -/
structure MReq where
  rowsA : Nat
  rowsB : Nat
  a : OpDesc
  b : OpDesc
  zero : Bool
  acct : Nat
  ks : Nat
  ksB : Nat
  strA : Nat
  strB : Nat
  ktail : Nat
  ca : Bool
  cb : Bool
  sa : Nat
  sb : Nat

/-- The fourth register of both blocks (R321). -/
def blockTail (x : DWord) : Bool × Nat × Bool × Bool × Nat × Nat :=
  let n := x.toNat
  (decide (bits n 63 59 ≠ 0 ∨ bits n 47 47 ≠ 0 ∨ bits n 23 23 ≠ 0), bits n 58 50, x.getLsbD 49, x.getLsbD 48, bits n 46 24, bits n 22 0)

/-- The block of an MMA with M rows and N columns (R321). -/
def mmaReq (k : Nat → DWord) (m n cluster : Nat) : MReq :=
  let z := (k 2).toNat
  let t := blockTail (k 3)
  { rowsA := m, rowsB := n, a := operandDesc (k 0) cluster, b := operandDesc (k 1) cluster
    zero := decide (bits z 63 62 ≠ 0) || t.1, acct := bits z 61 52, ks := bits z 51 40 + 1, ksB := bits z 51 40 + 1
    strA := bits z 19 0, strB := bits z 39 20, ktail := t.2.1, cb := t.2.2.1, ca := t.2.2.2.1, sb := t.2.2.2.2.1, sa := t.2.2.2.2.2 }

/-- A shape record (R329). -/
def shapeDesc (d : DWord) (cluster : Nat) : OpDesc :=
  let n := d.toNat
  let off := bits n 22 0
  match bits n 63 62 with
  | 0 => ⟨.pad none off, decide (bits n 61 60 ≠ 0), decide (off % 32 ≠ 0), false, true⟩
  | 1 => ⟨.pad (some (bits n 61 60)) off, false, decide (off % 32 ≠ 0), decide (cluster ≤ bits n 61 60), true⟩
  | _ => ⟨.pad none off, true, false, false, true⟩

/-- The block of an MMC (R328). -/
def mmcReq (k : Nat → DWord) (cluster : Nat) : MReq :=
  let z := (k 2).toNat
  let t := blockTail (k 3)
  { rowsA := bits (k 0).toNat 59 52 + 1, rowsB := bits (k 1).toNat 59 52 + 1, a := shapeDesc (k 0) cluster, b := shapeDesc (k 1) cluster
    zero := decide (bits z 63 62 ≠ 0 ∨ bits z 51 0 ≠ 0) || t.1, acct := bits z 61 52, ks := bits (k 0).toNat 51 40 + 1, ksB := bits (k 1).toNat 51 40 + 1
    strA := bits (k 0).toNat 39 23, strB := bits (k 1).toNat 39 23, ktail := t.2.1, cb := t.2.2.1, ca := t.2.2.2.1, sb := t.2.2.2.2.1, sa := t.2.2.2.2.2 }

/-- What an MMA or MMC asks for, by the block that its word names (R321, R328). -/
def matrixReq (kregs : List DWord) (ms : MSign) (cluster : Nat) : MReq :=
  let k := fun (j : Nat) => kregs.getD (ms.kd.toNat + j) 0
  match ms.shape with
  | some (m, n) => mmaReq k m n cluster
  | none => mmcReq k cluster

/-- Whether a scratchpad operand, or a scale array, runs past the workgroup's granules (R325). -/
def operandOver (o : Operand) (str ks rows rb pad : Nat) : Bool :=
  match o with
  | .pad _ off => decide (pad < off + 32 * str * (ks - 1) + rb * rows)
  | .tensor _ _ _ => false

def scalesOver (code rows off ks pad : Nat) : Bool :=
  decide (scaleOf code ≠ .none) && decide (pad < off + scaleStep code rows * (ks - 1) + scaleBytes code rows)

/-- Whether a tensor operand's identifier is valid; the table may be read, and one that cannot be read has no valid identifier (R254, R325). -/
def State.tensorOk (s : State) (key : FibreKey) (src : Nat) (w : Who) (table : BitVec 64) (o : Operand) : Eng Bool :=
  match o with
  | .pad _ _ => .ok s true
  | .tensor t _ _ => match s.tensor key (some src) w table t with
    | .ok s1 x => .ok s1 x.isSome
    | .stop s1 _ => .ok s1 false
    | .wait s1 => .wait s1

/-- Parts of a result: the core, workgroup, first row and rows of each command (R330); none when no workgroup can hold it. -/
def State.bands (s : State) (w : Workgroup) (l : Launch) (es m n acct : Nat) (mmc : Bool) : Option (List (Workgroup × Nat × Nat)) :=
  if 1024 * acct + es * m * n ≤ l.accBytes then some [(w, 0, m)]
  else if !mmc || decide (l.cluster < 2) then none
  else
    let h := (m + l.cluster - 1) / l.cluster
    let parts := (List.range l.cluster).filterMap fun r =>
      if h * r < m then (s.peerWg w r).map fun x => (x, h * r, min m (h * (r + 1)) - h * r) else none
    if parts.all fun p => decide (1024 * acct + es * p.2.2 * n ≤ l.accBytes) then some parts else none

/-- The commands that a release issues, or the code that refuses them (R325, R329, R330), with what the table says of the tensor operands; nothing is enqueued yet. -/
def State.matrixChecked (s1 : State) (wg : Nat) (ms : MSign) (signers : List FibreKey) (valid : Bool) : Except Code (List (Nat × MCmd)) :=
  let w := s1.wg wg
  let l := s1.launch wg
  let g := s1.group wg ms.grp
  let slot := l.slot ms.slot
  let q := matrixReq g.kregs ms l.cluster
  let ca := slotA slot
  let cb := slotB slot
  let width := (elemOf ca).width
  let ks := kstep width
  let es := accSize slot
  let six := decide (width = 6) && (!q.a.pad || !q.b.pad)
  let ok := fun (parts : List (Workgroup × Nat × Nat)) =>
    let total := q.ks * ks - ks + (if q.ktail = 0 then ks else q.ktail)
    let base := s1.order
    let mk := fun (i : Nat) (p : Workgroup × Nat × Nat) =>
      (p.1.core, ({ seq := base + i, whole := base, wg := p.1.id, src := wg, grp := ms.grp, vid := s1.carries wg ms.grp,
                    kind := .mul ⟨q.a.op, q.b.op, p.2.2, q.rowsB, q.ks, total, q.strA, q.strB, q.sa, q.sb, q.ca, q.cb, p.2.1, q.rowsA⟩,
                    slot := slot, mode := ms.mode, lo := 1024 * q.acct, len := es * p.2.2 * q.rowsB, prio := l.prio, age := 0, since := s1.clock, pc := ms.pc, signers := signers } : MCmd))
    let out : Except Code (List (Nat × MCmd)) := .ok ((List.range parts.length).zipWith mk parts)
    out
  let bad := fun (c : Code) => (Except.error c : Except Code (List (Nat × MCmd)))
  if six then bad .matrixFormat
  else if q.zero || q.a.zero || q.b.zero || decide (ks ≤ q.ktail) then bad .illegalOperand
  else if q.a.align || q.b.align || (decide (scaleOf ca ≠ .none) && decide (q.sa % 32 ≠ 0)) || (decide (scaleOf cb ≠ .none) && decide (q.sb % 32 ≠ 0)) then bad .illegalOperand
  else if q.a.rank || q.b.rank then bad .illegalOperand
  else if operandOver q.a.op q.strA q.ks q.rowsA (rowBytes width) l.padBytes || operandOver q.b.op q.strB q.ksB q.rowsB (rowBytes width) l.padBytes ||
      scalesOver ca q.rowsA q.sa q.ks l.padBytes || scalesOver cb q.rowsB q.sb q.ksB l.padBytes then bad .illegalOperand
  else if !valid then bad .illegalOperand
  else if q.ks ≠ q.ksB then bad .matrixShape
  else match s1.bands w l es q.rowsA q.rowsB q.acct ms.shape.isNone with
    | none => bad .illegalOperand
    | some parts => ok parts

/-- Whether the tensor operands of a release's command have valid identifiers (R325); the release waits while the part resolves the table's page (R437). -/
def State.matrixTensors (s : State) (wg : Nat) (ms : MSign) : Eng Bool :=
  let l := s.launch wg
  let q := matrixReq (s.group wg ms.grp).kregs ms l.cluster
  let who := s.whoEngine (s.wg wg).core (s.carries wg ms.grp)
  let key := engineKey wg ms.grp (2 ^ 50)
  match s.tensorOk key wg who l.tensors q.a.op with
  | .wait s1 => .wait s1
  | .stop s1 t => .stop s1 t
  | .ok s1 a =>
    match s1.tensorOk key wg who l.tensors q.b.op with
    | .wait s2 => .wait s2
    | .stop s2 t => .stop s2 t
    | .ok s2 b => .ok (s2.dropReplies key) (a && b)

/-- Places taken in a core's queue of one priority (R331): those of matrix commands. -/
def Core.queued (c : Core) (prio : Nat) : Nat :=
  (c.mcmds.filter fun m => decide (m.prio = prio) && (match m.kind with | .mul _ => true | _ => false)).length

/-- What becomes of a release's command (R214, R326, R331): it is refused with a record, or enters its queues; none when a queue is full and it may not go beyond (`force`). -/
def State.enterMatrix (s1 : State) (wg : Nat) (ms : MSign) (signers : List FibreKey) (valid force : Bool) : Option State :=
  match s1.matrixChecked wg ms signers valid with
  | .error c => some (s1.recordFault wg ms.grp { code := c, addr := ms.pc.setWidth 64, copy := false, token := 0, slot := 0 })
  | .ok cmds =>
    if force || cmds.all fun x => decide ((s1.core x.1).queued x.2.prio < 32) then
      let s2 : State := { s1 with order := s1.order + cmds.length + 1 }
      some (cmds.foldl (fun (t : State) x => t.modCore x.1 fun c => { c with mcmds := c.mcmds ++ [x.2] }) s2)
    else none

/-- Issues the command of a release (R214, R331, R437); none when a queue is full, or the tensor table cannot be read yet. -/
def State.issueMatrix (s : State) (wg : Nat) (ms : MSign) (signers : List FibreKey) : Option State :=
  match s.matrixTensors wg ms with
  | .ok s1 valid => s1.enterMatrix wg ms signers valid false
  | .stop s1 _ => s1.enterMatrix wg ms signers false false
  | .wait _ => none

/-! Order on a core. -/

/-- Whether a command reads registers out of the accumulators, and so holds back no later command (R334). -/
def MCmd.isLd (m : MCmd) : Bool :=
  match m.kind with
  | .ld _ _ _ => true
  | _ => false

/-- Whether two commands' accumulator ranges overlap (R318, R334). -/
def MCmd.overlaps (m n : MCmd) : Bool := decide (m.wg = n.wg) && decide (m.lo < n.lo + n.len) && decide (n.lo < m.lo + m.len)

/-- Whether a command's accumulator range is clear of earlier ones (R334, R346). -/
def Core.rangeClear (c : Core) (m : MCmd) : Bool :=
  !(c.mcmds.any fun n => decide (n.seq < m.seq) && n.overlaps m && (m.isLd || !n.isLd))

/-- A command that is over leaves its core. -/
def State.dropCmd (s : State) (core seq : Nat) : State :=
  s.modCore core fun c => { c with mcmds := c.mcmds.filter fun m => decide (m.seq ≠ seq) }

/-- Delivers a MACC LD (R346): the accumulator's words go into the registers that it named. -/
def State.deliverLd (s : State) (core : Nat) (m : MCmd) : State :=
  match m.kind with
  | .ld fib dst off => (s.dropCmd core m.seq).modFibre fib fun f => f.setPhysBytes dst (Memory.readN (s.wg m.wg).acc off (4 * dst.length))
  | _ => s

/-- Delivers what a fibre's MACC LDs can deliver now, in order. -/
def State.drainLds (s : State) (f : Fibre) : State :=
  ((s.core f.core).mcmds.filter fun m => m.isLd && m.signers.contains f.key).foldl (fun (t : State) m =>
    if (t.core f.core).rangeClear m then t.deliverLd f.core m else t) s

/-- The physical registers that a fibre's MACC LDs have still to write. -/
def State.owedLds (s : State) (f : Fibre) : List Nat :=
  (s.core f.core).mcmds.flatMap fun m => if m.signers.contains f.key then (match m.kind with | .ld _ dst _ => dst | _ => []) else []

/-! Clasps. -/

/-- The live fibres of a workgroup (R211). -/
def State.liveCount (s : State) (wg : Nat) : Nat := (s.fibres.filter fun f => decide (f.wg = wg) && f.live).length

def State.clasp (s : State) (wg : Nat) (i : BitVec 4) : Clasp := (s.wg wg).clasps.getD i.toNat {}

def State.modClasp (s : State) (wg : Nat) (i : BitVec 4) (h : Clasp → Clasp) : State :=
  s.modWg wg fun w => { w with clasps := w.clasps.modify i.toNat h }

/-- The release condition (R212). -/
def Clasp.due (c : Clasp) (live : Nat) : Bool :=
  if c.live then decide (c.s = live) && decide (0 < live) else decide (c.n ≤ c.s)

/-- Checks for a release and performs it with the command that it issues (R212, R214); none when the command's queue is full (R331). -/
def State.claspCheck (s : State) (wg : Nat) (i : BitVec 4) : Option State :=
  let c := s.clasp wg i
  if !(c.due (s.liveCount wg)) then some s
  else
    let s1 := s.modClasp wg i fun x => { x with gen := !x.gen, s := 0, matrix := none, signers := [] }
    let s2 : State := { s1 with fibres := s1.fibres.map fun f => if f.wg = wg then { f with signed := f.signed &&& ~~~(1#16 <<< i.toNat) } else f }
    match c.matrix with
    | none => some s2
    | some m => s2.issueMatrix wg m c.signers

/-- As `claspCheck`, for an event that cannot wait: a full queue then takes the command beyond its places, and a tensor table that cannot be read yet is checked by the command's first step (log 16). -/
def State.claspForce (s : State) (wg : Nat) (i : BitVec 4) : State :=
  match s.claspCheck wg i with
  | some t => t
  | none =>
    let c := s.clasp wg i
    let s1 := s.modClasp wg i fun x => { x with gen := !x.gen, s := 0, matrix := none, signers := [] }
    let s2 : State := { s1 with fibres := s1.fibres.map fun f => if f.wg = wg then { f with signed := f.signed &&& ~~~(1#16 <<< i.toNat) } else f }
    match c.matrix with
    | none => s2
    | some m => match s2.matrixTensors wg m with
      | .ok s3 valid => (s3.enterMatrix wg m c.signers valid true).getD s3
      | .stop s3 _ => (s3.enterMatrix wg m c.signers false true).getD s3
      | .wait s3 => (s3.enterMatrix wg m c.signers true true).getD s3

/-- The sign event of one entry on a clasp of one workgroup (R212, R235): every fibre named that has not signed signs, a matrix word is kept for the release, and the release is checked; none when it must wait (R331). -/
def State.claspSign (s : State) (wg : Nat) (i : BitVec 4) (keys : List FibreKey) (m : Option MSign) : Option State :=
  let fresh := s.fibres.filter fun f => keys.contains f.key && !(f.signed.getLsbD i.toNat)
  let s1 : State := { s with fibres := s.fibres.map fun f => if keys.contains f.key then { f with signed := f.signed ||| (1#16 <<< i.toNat) } else f }
  let s2 := s1.modClasp wg i fun c =>
    { c with s := c.s + fresh.length
             matrix := match m with | some x => some x | none => c.matrix
             signers := c.signers ++ keys.filter (fun k => !(c.signers.contains k)) }
  s2.claspCheck wg i

/-- Tile operations of a fibre that are outstanding (R300, R342, R349): generations that it signed and that carry a matrix word (log 111), commands, WDQ answers and TOPKs. -/
def State.tileOps (s : State) (f : FibreKey) : Nat :=
  let signs := ((s.wg f.wg).clasps.filter fun c => c.matrix.isSome && c.signers.contains f).length
  let cmds := ((s.cores.foldl (fun acc c => acc ++ (c.mcmds.filter fun m => m.signers.contains f).map (·.whole)) []).eraseDups).length
  signs + cmds + (s.mem.wdq.filter fun q => q.fibs.contains f).length + (s.mem.topk.filter fun t => t.fibs.contains f).length

end Sys2Proof.Machine
end

