-- ==== Sys2Proof/Machine/Ops.lean ====
section
/-! DEFINITION. The operations that every instruction shares: the end of a fibre (08 R204, R212, R219), taking a trap and its outcomes (18 R429 to R437), returning from one (R439), fault reports (21 R501), and the three ways in which a word issues: for each fibre on its own, for each fibre in turn over the shared state, and once for each group (08 R198; 09 R224). -/

namespace Sys2Proof.Machine

/-- What executing an instruction answers. -/
abbrev Out := Host.Outcome State Fault Refusal

/-! Reports. -/

/-- The report of a fibre's fault (R435, R436). -/
def State.reportFault (s : State) (f : Fibre) (t : Trap) : State :=
  s.report (s.wg f.wg).grid { status := 4, code := BitVec.ofNat 8 t.code.num, pc := f.pc }

/-- A fault at level S: the monitor reports FAULT on every queue and stops the device (23 R523). -/
def State.monitorStop (s : State) (t : Trap) : State :=
  let s1 : State := { s with front := { s.front with queues := s.front.queues.map fun q =>
    { q with flights := q.flights.map fun x => { x with report := some (x.report.getD { status := 4, code := BitVec.ofNat 8 t.code.num }) } } } }
  { s1 with stopped := some .supervisor }

/-! The end of fibres. -/

/-- A workgroup whose last fibre has ended makes its implicit PHASE, unless its version is squashed (R219, R295). -/
def State.lastPhase (s : State) (wg : Nat) : State :=
  if 0 < s.liveCount wg then s
  else
    let squashed : Bool := match s.version? (s.launch wg).version with
      | some v => decide (v.state = .squashed)
      | none => false
    if squashed = true then s
    else ((s.publishCore (s.wg wg).core).dropTensors).snapshot (s.wg wg).core

/-- Frees the running tasks of groups whose last fibre has ended, with no decrement (14 R369). -/
def State.freeOrphans (s : State) (wgs : List Nat) : State :=
  let ended := fun (g : Group) => wgs.contains g.wg && !(s.fibres.any fun f => decide (f.wg = g.wg) && decide (f.grp = g.grp) && f.live)
  let gone := (s.groups.filter ended).filterMap fun g => g.task.map fun i => (g.wg, i)
  if gone = [] then s
  else
    let s1 := gone.foldl (fun (t : State) x => (t.modCore (t.wg x.1).core fun c => { c with tasks := c.tasks.filter fun y => decide (y.index ≠ x.2) }).modWg x.1 fun w => w.release (.task x.2)) s
    { s1 with groups := s1.groups.map fun g => if ended g then { g with task := none, carried := none } else g }

/-- Ends fibres in one event (R118, R204, R212): each becomes a helper while its quad has a live fibre, else it ends with the quad's helpers; its signs on live clasps go, every clasp is checked, and what they had still to take of a fault record goes. -/
def State.endFibres (s : State) (keys : List FibreKey) : State :=
  let gone := fun (f : Fibre) => keys.contains f.key && f.live
  let wgs := (keys.map (·.wg)).eraseDups
  let s0 := keys.foldl (fun (t : State) k => t.landAll k) s
  let left := fun (f : Fibre) => s0.fibres.any fun g => decide (g.wg = f.wg) && decide (g.grp = f.grp) && decide (g.lane / 4 = f.lane / 4) && g.live && !(keys.contains g.key)
  let lost := fun (wg i : Nat) => (s0.fibres.filter fun f => decide (f.wg = wg) && gone f && f.signed.getLsbD i).length
  let endOne := fun (f : Fibre) =>
    if gone f then { f with run := if left f then .helper else .ended, wait := none, gbar := none }
    else if f.run = .helper ∧ !(left f) then { f with run := .ended } else f
  let unsign := fun (w : Workgroup) =>
    if wgs.contains w.id then { w with clasps := (List.range w.clasps.length).zipWith (fun i c => if c.live then { c with s := c.s - lost w.id i } else c) w.clasps } else w
  let s1 : State := { s0 with
    fibres := s0.fibres.map endOne
    wgs := s0.wgs.map unsign
    cores := s0.cores.map fun c => { c with mcmds := c.mcmds.filter fun m => !(m.isLd && m.signers.any keys.contains) }
    mem := { s0.mem with loads := s0.mem.loads.filter fun l => !(keys.contains l.fib) } }
  let forget := fun (g : Group) => (keys.filter fun k => decide (k.wg = g.wg) && decide (k.grp = g.grp)).foldl (fun (t : Group) k => t.faultTaken k.lane) g
  let s2 : State := { s1 with groups := s1.groups.map forget }
  let s3 := wgs.foldl (fun (t : State) w => (List.range 16).foldl (fun (u : State) i => u.claspForce w (BitVec.ofNat 4 i)) t) s2
  (wgs.foldl (fun (t : State) w => t.lastPhase w) (s3.freeOrphans wgs)).mirror

/-! Traps. -/

/-- The number of a fibre's trap save record (R434). -/
def Fibre.slot (f : Fibre) : Nat :=
  98304 * (f.core / 24) + 4096 * (f.core % 24) + 1024 * f.part + 16 * f.home.toNat + f.colSlot.toNat

/-- The physical address of a fibre's trap save record (R434). -/
def State.saveRec (s : State) (f : Fibre) : Nat := s.tsave + 128 * f.slot

/-- The 128 bytes of a trap save record (R434). -/
def Fibre.saveBytes (f : Fibre) : List Byte :=
  f.regBytes 0 16 ++ leBytes 4 f.pword.toNat ++ List.replicate 60 0

/-- The TRAP registers of a fault (R430). -/
def trapRegs (t : Trap) (pc : VA) (lanes : Word) : TrapRegs :=
  { cause := BitVec.ofNat 32 t.code.num, pcLo := pc.setWidth 32, pcHi := BitVec.ofNat 32 (pc.toNat / 2 ^ 32)
    addrLo := t.addr.setWidth 32, addrHi := BitVec.ofNat 32 (t.addr.toNat / 2 ^ 32 % 65536), info := t.info, lanes := lanes }

/-- Taking an exception (R434): the record is saved, the TRAP registers are set, and the fibre enters the handler at level H. `faultPc` is the faulting pc. -/
def State.enterTrap (s : State) (k : FibreKey) (t : Trap) (faultPc : VA) (lanes : Word) : State :=
  let s1 := s.drainLoads k
  match s1.fibre? k with
  | none => s1
  | some f =>
    let s2 := s1.physWrite (s1.saveRec f) f.saveBytes
    s2.modFibre k fun x => { x with trap := trapRegs t faultPc lanes, pl := .h, pc := evenPc (s.launch k.wg).traph, wait := none }

/-- The lanes of a fibre's group among those that one issue parks, as TRAPLANES shows them (R430). TRAPLANES has 32 bits and a group may have 64 lanes; the manual does not say what shows the lanes from 32 on, and here nothing does (DESIGN CHOICE, log 107). -/
def lanesOf (k : FibreKey) (parked : List FibreKey) : Word :=
  parked.foldl (fun w p => if p.wg = k.wg ∧ p.grp = k.grp then w ||| (1#32 <<< p.lane) else w) 0

/-- What becomes of one fibre's fault, beside those that end (R434 to R437): it waits for the part, it is parked, or it enters the handler. -/
def State.parkOne (s : State) (k : FibreKey) (t : Trap) (faultPc : VA) (lanes : Word) : State :=
  if t.code.hardware then
    s.modFibre k fun x => { x with wait := some { why := .hardware t.code (t.addr.setWidth 48) (t.info.getLsbD 12), since := s.clock } }
  else if s.late || decide ((s.fibre? k).map s.owedLds ≠ some []) then s.modFibre k fun x => { x with pc := faultPc, wait := some { why := .trap t lanes, since := s.clock } }
  else s.enterTrap k t faultPc lanes

/-- Takes the faults of one issue (R433 to R437, R474, R523): a poisoned page is reported to its queue; at S the device stops; at H, and without a handler, the fibre ends and its fault is reported; the rest are parked. -/
def State.takeTraps (s : State) (c : Issue) (ts : List (FibreKey × Trap)) : State :=
  let parked := (ts.filter fun x => !(x.2.code.hardware)).map (·.1)
  let find := fun (x : FibreKey × Trap) => (s.fibre? x.1).map fun f => (f, x.2)
  let all := ts.filterMap find
  let sup := all.filter fun x => decide (x.1.pl = .s)
  let kills := all.filter fun x => decide (x.1.pl ≠ .s) && !(x.2.code.hardware) && (decide (x.1.pl = .h) || decide ((s.launch x.1.wg).traph = 0))
  let parks := all.filter fun x => decide (x.1.pl = .u) && (x.2.code.hardware || decide ((s.launch x.1.wg).traph ≠ 0)) || decide (x.1.pl = .h) && x.2.code.hardware
  let told := all.filter fun x => decide (x.2.code = .poison) && decide (x.2.addr.toNat < ownAperture)
  let s0 := told.foldl (fun (t : State) x => t.tellPoison (t.wg x.1.wg).grid x.2.addr.toNat) s
  let s1 := sup.foldl (fun (t : State) x => t.monitorStop x.2) s0
  let at_ := fun (x : Fibre × Trap) => if x.2.next then (nextOf c x.1).1 else x.1.pc
  let s2 := kills.foldl (fun (t : State) x => t.reportFault { x.1 with pc := at_ x } x.2) s1
  let s3 := if kills = [] then s2 else s2.endFibres (kills.map fun x => x.1.key)
  parks.foldl (fun (t : State) x => t.parkOne x.1.key x.2 (at_ x) (lanesOf x.1.key parked)) s3

/-- Takes the faults of an issue, after which the faulting fibres leave their entry together (R431, R433). -/
def State.afterTraps (s : State) (c : Issue) (ts : List (FibreKey × Trap)) : State :=
  let s1 := s.takeTraps c ts
  let names := ts.map (·.1)
  s1.settle c (((s1.liveMembers c).filter fun f => !(names.contains f.key)).map Fibre.key)

/-! Each fibre on its own. -/

/-- What a word does to one fibre without touching anything shared but FPSTAT: the fibre as it leaves it, and the flags that it raises. -/
structure Lane where
  f : Fibre
  flags : FFlags := 0
  /-- The clocks until the result may be read, and the flags are raised (R147, R148). -/
  lat : Nat := 4
  /-- The result, for a word that may raise flags: registers of the allocation, or a predicate (R148). -/
  dst : List Nat := []
  pred : Bool := false

/-- The faults of an issue, by fibre in increasing home column. -/
def State.laneTraps (s : State) (c : Issue) (op : State → Issue → Fibre → Except Trap Lane) : List (FibreKey × Trap) :=
  (s.members c).filterMap fun f => match op s c f with
    | .ok _ => none
    | .error t => if s.quiet f then none else some (f.key, t)

/-- Whether a fibre executes the word of the issue: a helper does as its leader, which may fault (R204). -/
def State.follows (s : State) (c : Issue) (op : State → Issue → Fibre → Except Trap Lane) (f : Fibre) : Bool :=
  f.live || !((s.laneTraps c op).any fun x => decide ((s.leader? f).map Fibre.key = some x.1))

/-- A fibre after a word that issues for each fibre on its own; a suppressed fault lets it go on unchanged (R205). -/
def State.laneStep (s : State) (c : Issue) (op : State → Issue → Fibre → Except Trap Lane) (f : Fibre) : Fibre :=
  if f.inEntry c && s.follows c op f then
    match op s c f with
    | .ok r => r.f.advance c
    | .error _ => if s.quiet f then f.advance c else f
  else f

/-- The flags that an issue raises in a group (R35): those of its fibres that are not quiet (R205). -/
def State.laneFlags (s : State) (c : Issue) (op : State → Issue → Fibre → Except Trap Lane) (g : Group) : FFlags :=
  s.fibres.foldl (fun acc f =>
    if f.inEntry c && g.is f.wg f.grp && !(s.quiet f) then
      match op s c f with
      | .ok r => acc ||| r.flags
      | .error _ => acc
    else acc) 0

/-- The lanes of a group in an issue. -/
def State.laneNames (s : State) (c : Issue) (g : Group) : List Nat :=
  (s.fibres.filter fun f => f.inEntry c && g.is f.wg f.grp).map Fibre.lane

/-- What the lanes of a group in an issue do. -/
def State.laneDone (s : State) (c : Issue) (op : State → Issue → Fibre → Except Trap Lane) (g : Group) : List (Nat × Lane) :=
  s.fibres.filterMap fun f =>
    if f.inEntry c && g.is f.wg f.grp && s.follows c op f then
      match op s c f with
      | .ok r => some (f.lane, r)
      | .error _ => none
    else none

/-- The flags that an issue sends to a group, and when (R35, R147). -/
def State.laneSend (s : State) (c : Issue) (op : State → Issue → Fibre → Except Trap Lane) (g : Group) : FlagDue :=
  let done := s.laneDone c op g
  { due := s.clock + done.foldl (fun n x => max n x.2.lat) 0, lanes := done.map (·.1)
    regs := done.flatMap fun x => x.2.dst.map fun n => (x.1, n)
    pred := done.any fun x => x.2.pred, flags := s.laneFlags c op g }

/-- A word that issues for each fibre of the entry on its own. -/
def State.issueLane (s : State) (op : State → Issue → Fibre → Except Trap Lane) : State :=
  match s.cur with
  | none => s
  | some c =>
    let s1 : State := { s with
      fibres := s.fibres.map (s.laneStep c op)
      groups := s.groups.map fun g => g.send (s.laneSend c op g) }
    match s.laneTraps c op with
    | [] => s1
    | ts => s1.afterTraps c ts

/-- A fibre after a transfer of control: where it goes is its own. -/
def State.jumpStep (s : State) (c : Issue) (op : State → Issue → Fibre → Except Trap Fibre) (f : Fibre) : Fibre :=
  if f.inEntry c && f.live then
    match op s c f with
    | .ok g => { g with wait := none }
    | .error _ => if s.quiet f then f.advance c else f
  else f

/-- A transfer of control without memory (R112, R113): each fibre gets its pc from `op`; those that `keeps` names, or else those with the lowest column's target, keep the entry (R200). -/
def State.issueJump (s : State) (op : State → Issue → Fibre → Except Trap Fibre) (keeps : Option (Fibre → Bool)) : State :=
  match s.cur with
  | none => s
  | some c =>
    let ts := (s.liveMembers c).filterMap fun f => match op s c f with
      | .ok _ => none
      | .error t => if s.quiet f then none else some (f.key, t)
    let names := ts.map (·.1)
    let s1 : State := { s with fibres := s.fibres.map (s.jumpStep c op) }
    let s2 := s1.takeTraps c ts
    let went := (s1.liveMembers c).filter fun f => !(names.contains f.key)
    let lead := match keeps with
      | some p => if (s.liveMembers c).any p then ((s.liveMembers c).filter p).map Fibre.key else went.map Fibre.key
      | none => match went with
        | [] => []
        | f :: _ => (went.filter fun (g : Fibre) => decide (g.pc = f.pc)).map Fibre.key
    s2.settle c (lead.filter fun k => !(names.contains k))

/-! Each fibre in turn. -/

/-- How each fibre of an issue went. -/
inductive Went where
  | done | jumped | trap (t : Trap) | wait
deriving DecidableEq, Repr

/-- Marks a fibre as waiting; a wait that goes on keeps its beginning (R444). -/
def Fibre.waiting (f : Fibre) (w : Why) (clock : Nat) : Fibre :=
  match f.wait with
  | some old => { f with wait := some { why := w, since := old.since } }
  | none => { f with wait := some { why := w, since := clock } }

/-- Whether a fibre waits for what only an event of its own brings: its granules (R250, R302), a task (R373), or a peer's reply (R511). -/
def Fibre.stuck (f : Fibre) : Bool :=
  match f.wait.map Wait.why with
  | some (.access _) => true
  | some (.cons _ _ _) => true
  | some (.trun _ _ _) => true
  | some (.peer _) => true
  | _ => false

/-- Runs a word for one fibre over the shared state. -/
def State.runOne (s : State) (c : Issue) (op : State → Issue → Fibre → Seq) (k : FibreKey) : State × Went :=
  match s.fibre? k with
  | none => (s, .done)
  | some f =>
    if f.stuck then (s, .wait)
    else match op s c f with
    | .done t => (t.modFibre k fun x => x.advance c, .done)
    | .jumped t => (t.modFibre k fun x => { x with wait := none }, .jumped)
    | .trap t e => if s.quiet f then (t.modFibre k fun x => x.advance c, .done) else (t, .trap e)
    | .wait t w => if s.quiet f then (t.modFibre k fun x => x.advance c, .done) else (t.modFibre k fun x => x.waiting w s.clock, .wait)

/-- Runs a word for fibres in turn. -/
def State.runAll : State → Issue → (State → Issue → Fibre → Seq) → List FibreKey → State × List (FibreKey × Went)
  | s, _, _, [] => (s, [])
  | s, c, op, k :: r =>
    let x := s.runOne c op k
    let y := State.runAll x.1 c op r
    (y.1, (k, x.2) :: y.2)

/-- The faults among what went. -/
def trapsOf (went : List (FibreKey × Went)) : List (FibreKey × Trap) :=
  went.filterMap fun x => match x.2 with
    | .trap t => some (x.1, t)
    | .done => none
    | .jumped => none
    | .wait => none

/-- Ends an issue in which fibres may have parted: those that wait keep the entry, those that completed move on, those that fault leave it (R201, R433). -/
def State.finish (s : State) (c : Issue) (went : List (FibreKey × Went)) : State :=
  if went.all fun x => decide (x.2 = .done) then s
  else
    let ts := trapsOf went
    let s1 := s.takeTraps c ts
    let named := fun (w : Went) => (went.filter fun x => decide (x.2 = w)).map (·.1)
    let waits := named .wait
    let keep := if waits ≠ [] then waits else if named .jumped ≠ [] then s1.keepLowest c (named .jumped) else named .done
    s1.settle c (keep.filter fun k => !((ts.map (·.1)).contains k))

/-- The helpers of an entry whose leaders have completed a word: they execute it too (R204). -/
def State.followers (s : State) (c : Issue) (went : List (FibreKey × Went)) : List FibreKey :=
  ((s.members c).filter fun h => !h.live && went.any fun x =>
    decide ((s.leader? h).map Fibre.key = some x.1) && (decide (x.2 = .done) || decide (x.2 = .jumped))).map Fibre.key

/-- A word that issues for each live fibre of the entry in turn, in increasing home column, over the shared state, then for the helpers that follow. -/
def State.issueSeq (s : State) (op : State → Issue → Fibre → Seq) : State :=
  match s.cur with
  | none => s
  | some c =>
    let r := s.runAll c op ((s.liveMembers c).map Fibre.key)
    (r.1.runAll c op (s.followers c r.2)).1.finish c r.2

/-! Once for each group. -/

/-- The groups with a live fibre in the entry, in increasing (workgroup index, GROUP) (R224). -/
def State.groupsOf (s : State) (c : Issue) : List (Nat × Nat) :=
  let all := ((s.liveMembers c).map fun f => (f.wg, f.grp)).eraseDups
  all.foldr (fun x acc =>
    let rec ins : List (Nat × Nat) → List (Nat × Nat)
      | [] => [x]
      | y :: r => if (s.wg x.1).k2.toNat < (s.wg y.1).k2.toNat ∨ ((s.wg x.1).k2 = (s.wg y.1).k2 ∧ x.2 ≤ y.2) then x :: y :: r else y :: ins r
    ins acc) []

/-- The live fibres of one group in the entry, in increasing home column. -/
def State.share (s : State) (c : Issue) (g : Nat × Nat) : List Fibre :=
  (s.liveMembers c).filter fun f => decide (f.wg = g.1) && decide (f.grp = g.2)

/-- The fibre of the lowest lane (R107). -/
def lowestLane : List Fibre → Option Fibre
  | [] => none
  | f :: r => match lowestLane r with
    | none => some f
    | some g => if g.lane < f.lane then some g else some f

/-- Runs a per-group word for one group (R224): all its live fibres in the entry go the same way, but for those whose effects are suppressed (R411, R440). -/
def State.runGroup (s : State) (c : Issue) (op : State → Issue → Nat × Nat → List Fibre → Seq) (g : Nat × Nat) : State × List (FibreKey × Went) :=
  let fs := (s.share c g).filter fun f => !f.muted
  let keys := (s.share c g).map Fibre.key
  let mine := fun (f : Fibre) => f.inEntry c && decide (f.wg = g.1) && decide (f.grp = g.2)
  let on := fun (t : State) => { t with fibres := t.fibres.map fun f => if mine f then f.advance c else f }
  let off := fun (t : State) => { t with fibres := t.fibres.map fun f => if mine f && f.muted then f.advance c else f }
  let went := fun (w : Went) => (s.share c g).map fun f => (f.key, if f.muted then Went.done else w)
  if fs = [] then (on s, keys.map fun k => (k, .done))
  else if fs.any Fibre.stuck then (off s, went .wait)
  else match op s c g fs with
    | .done t => (on t, keys.map fun k => (k, .done))
    | .jumped t => (on t, keys.map fun k => (k, .done))
    | .trap t e => (off t, went (.trap e))
    | .wait t w => (off { t with fibres := t.fibres.map fun f => if mine f && f.live && !f.muted then f.waiting w s.clock else f }, went .wait)

/-- Runs a per-group word for groups in turn. -/
def State.runGroups : State → Issue → (State → Issue → Nat × Nat → List Fibre → Seq) → List (Nat × Nat) → State × List (FibreKey × Went)
  | s, _, _, [] => (s, [])
  | s, c, op, g :: r =>
    let x := s.runGroup c op g
    let y := State.runGroups x.1 c op r
    (y.1, x.2 ++ y.2)

/-- A word that acts once for each group of the entry (R107, R224). -/
def State.issueGroups (s : State) (op : State → Issue → Nat × Nat → List Fibre → Seq) : State :=
  match s.cur with
  | none => s
  | some c =>
    let r := s.runGroups c op (s.groupsOf c)
    r.1.finish c r.2

/-! Returning from a trap. -/

/-- Reads an instruction word as a fetch at a level, with the fault that it may take (R439, R447). What a fetch reads after a store to its address the manual leaves open (R167 promises no change before the next launch): here it is the newest committed data, and never what a core has stored and not published (DESIGN CHOICE, log 108). -/
def State.fetchAt (s : State) (f : Fibre) (level : Level) (va : VA) : State × Except Trap Word :=
  let need : Need := { exec := true, read := false }
  if ownAperture ≤ va.toNat then (s, .error (apertureTrap va.toNat need))
  else
    match s.translate { s.who f with level := level } va need with
    | (s1, .fault t) => (s1, .error t)
    | (s1, .ok pa vid _ _) =>
      match regionOf pa with
      | .peer _ => (s1, .error (memTrap .pageProtection va need 0))
      | .control => (s1, .ok 0)
      | _ => (s1, .ok (leWord (s1.newestBytes vid pa 4)))

/-- The next pc of the parcel at a pc, its word being known (R37, R47): a full word and a low parcel end at the word after, a high parcel at its low one. -/
def parcelNext (pc : VA) (w : Word) : VA :=
  if pc.getLsbD 1 then pc + 2 else if w.getLsbD 31 then pc + 2 else pc + 4

/-- What RETT leaves of a fibre's saved registers (R439). -/
def State.restoreSaved (s : State) (f : Fibre) : Fibre :=
  let bs := s.physRead (s.saveRec f) 68
  let f1 := (List.range 16).foldl (fun (x : Fibre) j => x.setV j (BitVec.ofNat 32 (field bs (4 * j) 4))) f
  f1.setPword (BitVec.ofNat 32 (field bs 64 4))

/-- TRAPPC as the handler left it (R439). -/
def Fibre.trapPc (f : Fibre) : VA := BitVec.ofNat 48 (f.trap.pcHi.toNat % 65536 * 2 ^ 32 + f.trap.pcLo.toNat)

/-- A double fault of RETT ends the fibre (R436). -/
def State.doubleFault (s : State) (f : Fibre) (t : Trap) : State := (s.reportFault f t).endFibres [f.key]

/-- The return of one fibre from its handler (R439): its registers and PWORD come back, PL becomes U, and the pc goes where RESUME or SKIP says. A suppressed or faulting return is a double fault. -/
def State.rettOne (s : State) (f : Fibre) (skip : Bool) : State :=
  let f1 := s.restoreSaved f
  let tpc := f.trapPc
  let remain := f.rep.toNat % 128
  if tpc.getLsbD 0 then s.doubleFault f (misalignedTrap tpc.toNat)
  else if !skip then s.modFibre f.key fun _ => { f1 with pl := .u, pc := tpc, wait := none }
  else if 1 < remain then s.modFibre f.key fun _ => { f1 with pl := .u, pc := tpc, rep := f.rep - 1, wait := none, gbar := none }
  else if remain = 1 then s.modFibre f.key fun _ => { f1 with pl := .u, pc := tpc + 4, rep := f.rep - 1, wait := none, gbar := none }
  else
    match s.fetchAt f .h (wordAt tpc) with
    | (s1, .error t) => s1.doubleFault f t
    | (s1, .ok w) => s1.modFibre f.key fun _ => { f1 with pl := .u, pc := parcelNext tpc w, wait := none, gbar := none }

/-! The clocks of results. -/

/-- The lane registers that a word reads and those that it writes, by its fields: each field with how many registers from it on (R14, R36, R42 to R45, R153). `n` is the number of elements of a CVTN or CVTW (R139, R140). A dictionary parcel names none before it expands; what a call spills and a return fills is not told by the word. -/
def wordRegs (n : Nat) (w : Word) : List (Nat × Nat) × List (Nat × Nat) :=
  let m := (fld w 24 7).toNat
  let d := (fld w 14 7).toNat
  let a := (fld w 7 7).toNat
  let b := (fld w 0 7).toNat
  let p := 2 * (fld w 8 6).toNat
  let k := if bit w 7 then 2 else 1
  let k21 := if bit w 21 then 2 else 1
  let top := (fld w 21 3).toNat
  let x := (fld w 2 5).toNat
  if bit w 31 then ([], [])
  else if [0x05, 0x12, 0x32, 0x38].contains m then ([(a, 1), (b, 1), (d, 1)], [(d, 1)])
  else if m = 0x0F then ([(a, k21)], [(d, k21)])
  else if [0x13, 0x14, 0x17, 0x18].contains m then ([(a, 2), (b, 1)], [(d, 2)])
  else if m = 0x3B then ([(a, 2), (b, 2), (d, 2)], [(d, 2)])
  else if [0x15, 0x16, 0x39, 0x3A, 0x3D, 0x3E].contains m then ([(a, 2), (b, 2)], [(d, 2)])
  else if (0x01 ≤ m ∧ m ≤ 0x12) ∨ m = 0x19 ∨ (0x30 ≤ m ∧ m ≤ 0x33) ∨ (0x35 ≤ m ∧ m ≤ 0x37) ∨ m = 0x72 then ([(a, 1), (b, 1)], [(d, 1)])
  else if (0x1A ≤ m ∧ m ≤ 0x1F) ∨ m = 0x34 then ([(a, 1)], [(d, 1)])
  else if m = 0x20 ∨ m = 0x42 ∨ m = 0x4E then ([], [(d, 1)])
  else if m = 0x21 then ([(d, 1)], [(d, 1)])
  else if m = 0x22 then ([(a, 2)], [(d, 2)])
  else if m = 0x23 ∨ m = 0x26 then ([(a, 1), (b, 1)], [])
  else if m = 0x24 ∨ m = 0x49 ∨ m = 0x4F then ([(a, 1)], [])
  else if m = 0x25 ∨ m = 0x27 ∨ m = 0x43 then ([(a, 2), (b, 2)], [])
  else if m = 0x29 then (if bit w 21 then ([(a, 1)], []) else ([], [(d, 1)]))
  else if m = 0x2C then (if bit w 21 then ([], [(d, 2)]) else ([(a, 2)], []))
  else if m = 0x3C then ([(a, 2)], [(d, if b = 14 then 1 else 2)])
  else if m = 0x3F then
    ((a, if [0, 10, 11, 14, 15].contains x then 2 else 1) :: (if x = 2 ∨ x = 4 then [(d, 1)] else []),
      [(d, if [1, 12, 13, 14, 15].contains x then 2 else 1)])
  else if m = 0x40 then ([(a, n), (b, 1)], [(d, 1)])
  else if m = 0x41 then ([(a, 1), (b, 1)], [(d, n)])
  else if m = 0x45 ∨ m = 0x47 ∨ m = 0x5A ∨ m = 0x5B then ([(a, 2)], [])
  else if m = 0x48 then ([(126, 2)], [])
  else if m = 0x4C then ([], [(0, 16)])
  else if 0x50 ≤ m ∧ m ≤ 0x54 then ([(a, 2)], [(d, if m = 0x54 then 4 else if m = 0x53 then 2 else 1)])
  else if 0x55 ≤ m ∧ m ≤ 0x59 then ([(a, 2), (d, if m = 0x59 then 4 else if m = 0x58 then 2 else 1)], [])
  else if m = 0x67 then ([(p, 2), (b, k), (d, k)], [(d, k)])
  else if 0x60 ≤ m ∧ m ≤ 0x68 then ([(p, 2), (b, k)], [(d, k)])
  else if m = 0x69 then ([(p, 2)], [(d, k)])
  else if m = 0x6A then ([(p, 2), (b, k)], [])
  else if m = 0x6E then ([(a, 2)], if top = 3 then [(d, 1)] else [])
  else if m = 0x6F then ([(p, 2), (b, 1)], [(d, 1)])
  else if m = 0x70 then ([(a, 2), (b, 1)], [(d, 1)])
  else if m = 0x71 then ([], if top = 4 then [(d, 2)] else [])
  else if m = 0x73 then ([(a, k21)], [(d, k21)])
  else if m = 0x74 then (let q := if fld w 3 4 = 11#4 then 2 else 1; ([(a, q)], [(d, q)]))
  else if m = 0x75 then ([], if top = 4 then [(d, 1)] else [])
  else if m = 0x79 ∧ top = 1 then ([(a, 1)], [(d, b + 1)])
  else if m = 0x7A ∧ top = 0 then ([(a, 2)], [(d, 1)])
  else if m = 0x7B then (if top = 0 then ([(a, 1), (b, 1)], [(d, 1)]) else if top = 1 then ([(a, 2)], []) else ([(a, 1)], [(d, 2)]))
  else if m = 0x7E ∧ top = 0 then ([(a, 2)], [])
  else ([], [])

/-- The elements of a CVTN or CVTW, by its slot (R139, R140). -/
def State.slotElems (s : State) (f : Fibre) (w : Word) : Nat := perRegister (elemOf (slotA ((s.launch f.wg).slot (fld w 21 3)))).width

/-- Registers of a fibre's allocation, from the fields of a word. -/
def Fibre.physAll (f : Fibre) (xs : List (Nat × Nat)) : List Nat := xs.flatMap fun x => (List.range x.2).map fun i => f.phys (x.1 + i)

/-- The registers of its allocation that a word reads in a fibre (R8, R148). -/
def State.regsRead (s : State) (f : Fibre) (w : Word) : List Nat := f.physAll (wordRegs (s.slotElems f w) w).1

/-- What a call or a return moves besides its fields (R24, R25, R114, R115): a call reads v0, writes v0 and the link words of the new window, and reads the blocks that it spills; a return writes the blocks that it fills. -/
def Fibre.windowRegs (f : Fibre) (w : Word) : List Nat :=
  let m := (fld w 24 7).toNat
  if bit w 31 then []
  else if m = 0x46 ∨ m = 0x47 then
    let n := 8 * (fld w 20 4).toNat
    f.physAll [(0, 1), (n, 1), (n + 126, 2)] ++
      (List.range ((f.outer + n + 128 - f.alloc.toNat + 7) / 8 * 8)).map fun (j : Nat) => (((f.wb.toNat : Int) - f.outer + j) % f.alloc.toNat).toNat
  else if m = 0x48 then
    let n := 8 * bits (f.v 127).toNat 19 16
    (List.range ((n - f.outer + 7) / 8 * 8)).map fun (j : Nat) => (((f.wb.toNat : Int) - n + j) % f.alloc.toNat).toNat
  else []

/-- Whether a word names, to read or to write, one of some registers of a fibre's allocation. -/
def State.namesAny (s : State) (f : Fibre) (w : Word) (regs : List Nat) : Bool :=
  decide (regs ≠ []) && (s.regsRead f w ++ f.physAll (wordRegs (s.slotElems f w) w).2 ++ f.windowRegs w).any regs.contains

/-- Whether a word must await a fibre's MACC LDs (R346). -/
def State.awaitsLd (s : State) (f : Fibre) (w : Word) : Bool :=
  (decide (f.wait = none) || decide (f.wait.map Wait.why = some .acc)) && s.namesAny f w (s.owedLds f)

/-- Whether a word waits for a result whose flags are on their way (R147, R148): it reads the register, or it is no SWR and the result is a predicate. -/
def State.dueHolds (s : State) (x : FlagDue) (f : Fibre) (w : Word) : Bool :=
  x.lanes.contains f.lane && ((x.pred && !(w.getLsbD 31) && decide (fld w 24 7 ≠ 0x4F#7)) || (s.regsRead f w).any fun n => x.regs.contains (f.lane, n))

/-- The clock at which a word may issue: not before the results that it reads may be read (R8, R148). -/
def State.holdFor (s : State) (fs : List Fibre) (w : Word) : State :=
  let dues := s.groups.flatMap fun g => (g.flying.filter fun x => fs.any fun f => g.is f.wg f.grp && s.dueHolds x f w).map FlagDue.due
  { s with clock := dues.foldl max s.clock }

end Sys2Proof.Machine
end

