-- ==== Sys2Proof/Machine/Integer.lean ====
section
/-! DEFINITION. Integer instructions on lane registers and pairs (04 R94 to R100; 01 R30, R31). The hold bits of a word change no value (log 3), so its meaning does not read them. -/

namespace Sys2Proof.Machine

/-! Results. -/

/-- sat(i, INT32) (R95). -/
def satS32 (i : Int) : Word := BitVec.ofInt 32 (max (-(2 ^ 31)) (min (2 ^ 31 - 1) i))

def addResult (m : Bool) (a b : Word) : Word := if m then satS32 (a.toInt + b.toInt) else a + b
def subResult (m : Bool) (a b : Word) : Word := if m then satS32 (a.toInt - b.toInt) else a - b

/-- Bits [63:32] of the product (R95). -/
def mulhResult (m : Bool) (a b : Word) : Word :=
  if m then (a.signExtend 64 * b.signExtend 64).extractLsb' 32 32 else (a.setWidth 64 * b.setWidth 64).extractLsb' 32 32

/-- The quotient, truncated toward zero, with the edge cases of R31. -/
def divResult (m : Bool) (a b : Word) : Word :=
  if b = 0 then BitVec.allOnes 32 else if m then a.sdiv b else a.udiv b

/-- The remainder, with the sign of the dividend and the edge cases of R31. -/
def remResult (m : Bool) (a b : Word) : Word :=
  if b = 0 then a else if m then a.srem b else a.umod b

/-- A left shift, 0 from the full width on (R95). -/
def shlResult {w : Nat} (a : BitVec w) (n : Nat) : BitVec w := if n < w then a <<< n else 0

/-- A right shift, logical or arithmetic, for any amount (R95). -/
def shrResult {w : Nat} (arith : Bool) (a : BitVec w) (n : Nat) : BitVec w :=
  if arith then a.sshiftRight (min n (w - 1)) else if n < w then a >>> n else 0

def minResult (m : Bool) (a b : Word) : Word := if (if m then b.slt a else b.ult a) then b else a
def maxResult (m : Bool) (a b : Word) : Word := if (if m then a.slt b else a.ult b) then b else a

/-- A rotation by b mod 32, left or right (R95). -/
def rotResult (right : Bool) (a : Word) (n : Nat) : Word := if right then a.rotateRight (n % 32) else a.rotateLeft (n % 32)

/-- The effective width of a field whose position and width b gives (R96). -/
def fieldWidth (b : Word) : Nat := min (bits b.toNat 13 8) (32 - bits b.toNat 4 0)

/-- BFX: the field, zero-extended or sign-extended from its top bit (R96). -/
def bfxResult (m : Bool) (a b : Word) : Word :=
  let e := fieldWidth b
  let x := a.toNat / 2 ^ bits b.toNat 4 0 % 2 ^ e
  if m ∧ e ≠ 0 ∧ 2 ^ (e - 1) ≤ x then BitVec.ofInt 32 (x - 2 ^ e) else BitVec.ofNat 32 x

/-- BFI: bits [pos + e − 1 : pos] of d are replaced by a[e − 1:0] (R96). -/
def bfiResult (d a b : Word) : Word :=
  let mask : Word := BitVec.ofNat 32 ((2 ^ fieldWidth b - 1) * 2 ^ bits b.toNat 4 0)
  (d &&& ~~~mask) ||| ((a <<< bits b.toNat 4 0) &&& mask)

/-- A 32-bit offset, sign- or zero-extended to 64 bits (R95). -/
def extOffset (u : Bool) (b : Word) : DWord := if u then b.setWidth 64 else b.signExtend 64

/-- Leading zero bits (R97). -/
def clz {w : Nat} (x : BitVec w) : Nat := ((List.range w).takeWhile fun i => !x.getLsbD (w - 1 - i)).length

/-- Trailing zero bits (R97). -/
def ctz {w : Nat} (x : BitVec w) : Nat := ((List.range w).takeWhile fun i => !x.getLsbD i).length

/-- One bits (R97). -/
def popc {w : Nat} (x : BitVec w) : Nat := ((List.range w).filter fun i => x.getLsbD i).length

/-- The bits in reverse order (R97). -/
def brev {w : Nat} (x : BitVec w) : BitVec w := BitVec.ofNat w ((List.range w).foldl (fun acc i => acc + (x.getLsbD (w - 1 - i)).toNat * 2 ^ i) 0)

/-- The bytes in reverse order (R97). -/
def bswap {w : Nat} (x : BitVec w) : BitVec w := BitVec.ofNat w (leNat (leBytes (w / 8) x.toNat).reverse)

/-- Two's-complement absolute value, wrapping (R97). -/
def absResult {w : Nat} (x : BitVec w) : BitVec w := if x.msb then -x else x

/-- SHI's four kinds (R99). -/
def shiResult (k : BitVec 2) (a : Word) (n : Nat) : Word :=
  match k.toNat with
  | 0 => shlResult a n
  | 1 => shrResult false a n
  | 2 => shrResult true a n
  | _ => rotResult false a n

/-! What a word does in one fibre (R94). -/

/-- A word with registers d, a and b of 32 bits: `op` gets the old d, a and b. -/
def lane3 (d a b : BitVec 7) (op : Word → Word → Word → Word) : State → Issue → Fibre → Except Trap Lane := fun _ _ f =>
  if f.may d.toNat && f.may a.toNat && f.may b.toNat then
    .ok { f := f.setV d.toNat (op (f.v d.toNat) (f.v a.toNat) (f.v b.toNat)) }
  else .error operandTrap

/-- A word with pairs d and a and a 32-bit b. -/
def laneMixed (d a b : BitVec 7) (op : DWord → Word → DWord) : State → Issue → Fibre → Except Trap Lane := fun _ _ f =>
  if f.mayPair d.toNat && f.mayPair a.toNat && f.may b.toNat then
    .ok { f := f.setPair d.toNat (op (f.pair a.toNat) (f.v b.toNat)) }
  else .error operandTrap

/-- A word with pairs d, a and b. -/
def lanePairs (d a b : BitVec 7) (op : DWord → DWord → DWord) : State → Issue → Fibre → Except Trap Lane := fun _ _ f =>
  if f.mayPair d.toNat && f.mayPair a.toNat && f.mayPair b.toNat then
    .ok { f := f.setPair d.toNat (op (f.pair a.toNat) (f.pair b.toNat)) }
  else .error operandTrap

/-- A word with registers d and a of 32 bits. -/
def lane2 (d a : BitVec 7) (op : Word → Word) : State → Issue → Fibre → Except Trap Lane := fun _ _ f =>
  if f.may d.toNat && f.may a.toNat then .ok { f := f.setV d.toNat (op (f.v a.toNat)) } else .error operandTrap

/-- A word with pairs d and a. -/
def lanePair2 (d a : BitVec 7) (op : DWord → DWord) : State → Issue → Fibre → Except Trap Lane := fun _ _ f =>
  if f.mayPair d.toNat && f.mayPair a.toNat then .ok { f := f.setPair d.toNat (op (f.pair a.toNat)) } else .error operandTrap

/-- An IUN word, over registers or, for M = 1, over pairs (R97). -/
def laneIun (m : Bool) (d a : BitVec 7) (op32 : Word → Word) (op64 : DWord → DWord) : State → Issue → Fibre → Except Trap Lane :=
  if m then lanePair2 d a op64 else lane2 d a op32

/-- A word that changes d alone. -/
def lane1 (d : BitVec 7) (op : Word → Word) : State → Issue → Fibre → Except Trap Lane := fun _ _ f =>
  if f.may d.toNat then .ok { f := f.setV d.toNat (op (f.v d.toNat)) } else .error operandTrap

/-! The instructions. -/

/-- ADD and ADD.S (R95). -/
def execAdd (_h _g m : Bool) (d a b : BitVec 7) (s : State) : Out := .next (s.issueLane (lane3 d a b fun _ x y => addResult m x y))

/-- SUB and SUB.S (R95). -/
def execSub (_h _g m : Bool) (d a b : BitVec 7) (s : State) : Out := .next (s.issueLane (lane3 d a b fun _ x y => subResult m x y))

/-- MUL (R95). -/
def execMul (_h _g : Bool) (d a b : BitVec 7) (s : State) : Out := .next (s.issueLane (lane3 d a b fun _ x y => x * y))

/-- MULH and MULH.S (R95). -/
def execMulh (_h _g m : Bool) (d a b : BitVec 7) (s : State) : Out := .next (s.issueLane (lane3 d a b fun _ x y => mulhResult m x y))

/-- IMAD and IMAD.N (R95). -/
def execImad (_h _g m : Bool) (d a b : BitVec 7) (s : State) : Out := .next (s.issueLane (lane3 d a b fun z x y => if m then z - x * y else z + x * y))

/-- DIV and DIV.S (R95, R31). -/
def execDiv (_h _g m : Bool) (d a b : BitVec 7) (s : State) : Out := .next (s.issueLane (lane3 d a b fun _ x y => divResult m x y))

/-- REM and REM.S (R95, R31). -/
def execRem (_h _g m : Bool) (d a b : BitVec 7) (s : State) : Out := .next (s.issueLane (lane3 d a b fun _ x y => remResult m x y))

/-- AND and AND.N (R95). -/
def execAnd (_h _g m : Bool) (d a b : BitVec 7) (s : State) : Out := .next (s.issueLane (lane3 d a b fun _ x y => x &&& (if m then ~~~y else y)))

/-- OR and OR.N (R95). -/
def execOr (_h _g m : Bool) (d a b : BitVec 7) (s : State) : Out := .next (s.issueLane (lane3 d a b fun _ x y => x ||| (if m then ~~~y else y)))

/-- XOR and XOR.N (R95). -/
def execXor (_h _g m : Bool) (d a b : BitVec 7) (s : State) : Out := .next (s.issueLane (lane3 d a b fun _ x y => x ^^^ (if m then ~~~y else y)))

/-- SHL (R95). -/
def execShl (_h _g : Bool) (d a b : BitVec 7) (s : State) : Out := .next (s.issueLane (lane3 d a b fun _ x y => shlResult x y.toNat))

/-- SHR and SHR.A (R95). -/
def execShr (_h _g m : Bool) (d a b : BitVec 7) (s : State) : Out := .next (s.issueLane (lane3 d a b fun _ x y => shrResult m x y.toNat))

/-- MIN and MIN.S (R95). -/
def execMin (_h _g m : Bool) (d a b : BitVec 7) (s : State) : Out := .next (s.issueLane (lane3 d a b fun _ x y => minResult m x y))

/-- MAX and MAX.S (R95). -/
def execMax (_h _g m : Bool) (d a b : BitVec 7) (s : State) : Out := .next (s.issueLane (lane3 d a b fun _ x y => maxResult m x y))

/-- MOV (R97). -/
def execIunMov (_h m : Bool) (d a : BitVec 7) (s : State) : Out := .next (s.issueLane (laneIun m d a (fun x => x) (fun x => x)))

/-- NOT (R97). -/
def execIunNot (_h m : Bool) (d a : BitVec 7) (s : State) : Out := .next (s.issueLane (laneIun m d a (fun x => ~~~x) (fun x => ~~~x)))

/-- NEG (R97). -/
def execIunNeg (_h m : Bool) (d a : BitVec 7) (s : State) : Out := .next (s.issueLane (laneIun m d a (fun x => -x) (fun x => -x)))

/-- ABS (R97). -/
def execIunAbs (_h m : Bool) (d a : BitVec 7) (s : State) : Out := .next (s.issueLane (laneIun m d a (absResult) (absResult)))

/-- CLZ (R97). -/
def execIunClz (_h m : Bool) (d a : BitVec 7) (s : State) : Out := .next (s.issueLane (laneIun m d a (fun x => BitVec.ofNat 32 (clz x)) (fun x => BitVec.ofNat 64 (clz x))))

/-- CTZ (R97). -/
def execIunCtz (_h m : Bool) (d a : BitVec 7) (s : State) : Out := .next (s.issueLane (laneIun m d a (fun x => BitVec.ofNat 32 (ctz x)) (fun x => BitVec.ofNat 64 (ctz x))))

/-- POPC (R97). -/
def execIunPopc (_h m : Bool) (d a : BitVec 7) (s : State) : Out := .next (s.issueLane (laneIun m d a (fun x => BitVec.ofNat 32 (popc x)) (fun x => BitVec.ofNat 64 (popc x))))

/-- BREV (R97). -/
def execIunBrev (_h m : Bool) (d a : BitVec 7) (s : State) : Out := .next (s.issueLane (laneIun m d a (brev) (brev)))

/-- BSWAP (R97). -/
def execIunBswap (_h m : Bool) (d a : BitVec 7) (s : State) : Out := .next (s.issueLane (laneIun m d a (bswap) (bswap)))

/-- SEXTB (R97). -/
def execIunSextb (_h : Bool) (d a : BitVec 7) (s : State) : Out := .next (s.issueLane (lane2 d a fun x => (x.setWidth 8).signExtend 32))

/-- SEXTH (R97). -/
def execIunSexth (_h : Bool) (d a : BitVec 7) (s : State) : Out := .next (s.issueLane (lane2 d a fun x => (x.setWidth 16).signExtend 32))

/-- ZEXTB (R97). -/
def execIunZextb (_h : Bool) (d a : BitVec 7) (s : State) : Out := .next (s.issueLane (lane2 d a fun x => (x.setWidth 8).setWidth 32))

/-- ZEXTH (R97). -/
def execIunZexth (_h : Bool) (d a : BitVec 7) (s : State) : Out := .next (s.issueLane (lane2 d a fun x => (x.setWidth 16).setWidth 32))

/-- ROT and ROT.R (R95). -/
def execRot (_h _g m : Bool) (d a b : BitVec 7) (s : State) : Out := .next (s.issueLane (lane3 d a b fun _ x y => rotResult m x y.toNat))

/-- BFX and BFX.S (R96). -/
def execBfx (_h _g m : Bool) (d a b : BitVec 7) (s : State) : Out := .next (s.issueLane (lane3 d a b fun _ x y => bfxResult m x y))

/-- BFI (R96). -/
def execBfi (_h _g : Bool) (d a b : BitVec 7) (s : State) : Out := .next (s.issueLane (lane3 d a b fun z x y => bfiResult z x y))

/-- LEA and LEA.U (R95). -/
def execLea (_h _g m : Bool) (d a b : BitVec 7) (s : State) : Out := .next (s.issueLane (laneMixed d a b fun x y => x + extOffset m y))

/-- LEAW and LEAW.U (R95). -/
def execLeaw (_h _g m : Bool) (d a b : BitVec 7) (s : State) : Out := .next (s.issueLane (laneMixed d a b fun x y => x + 4 * extOffset m y))

/-- ADDW and ADDW.N (R95). -/
def execAddw (_h _g m : Bool) (d a b : BitVec 7) (s : State) : Out := .next (s.issueLane (lanePairs d a b fun x y => if m then x - y else x + y))

/-- MULW (R95). -/
def execMulw (_h _g : Bool) (d a b : BitVec 7) (s : State) : Out := .next (s.issueLane (lanePairs d a b fun x y => x * y))

/-- SHLW (R95). -/
def execShlw (_h _g : Bool) (d a b : BitVec 7) (s : State) : Out := .next (s.issueLane (laneMixed d a b fun x y => shlResult x y.toNat))

/-- SHRW and SHRW.A (R95). -/
def execShrw (_h _g m : Bool) (d a b : BitVec 7) (s : State) : Out := .next (s.issueLane (laneMixed d a b fun x y => shrResult m x y.toNat))

/-- ADDI (R98). -/
def execAddi (i : BitVec 10) (d a : BitVec 7) (s : State) : Out := .next (s.issueLane (lane2 d a fun x => x + i.signExtend 32))

/-- ANDI (R98). -/
def execAndi (i : BitVec 10) (d a : BitVec 7) (s : State) : Out := .next (s.issueLane (lane2 d a fun x => x &&& i.signExtend 32))

/-- ORI (R98). -/
def execOri (i : BitVec 10) (d a : BitVec 7) (s : State) : Out := .next (s.issueLane (lane2 d a fun x => x ||| i.signExtend 32))

/-- XORI (R98). -/
def execXori (i : BitVec 10) (d a : BitVec 7) (s : State) : Out := .next (s.issueLane (lane2 d a fun x => x ^^^ i.signExtend 32))

/-- SHI in its four kinds (R99). -/
def execShi (k : BitVec 2) (d a : BitVec 7) (n : BitVec 5) (s : State) : Out := .next (s.issueLane (lane2 d a fun x => shiResult k x n.toNat))

/-- MULI (R98). -/
def execMuli (i : BitVec 10) (d a : BitVec 7) (s : State) : Out := .next (s.issueLane (lane2 d a fun x => x * i.signExtend 32))

/-- LI (R100). -/
def execLi (i : BitVec 17) (d : BitVec 7) (s : State) : Out := .next (s.issueLane (lane1 d fun _ => i.signExtend 32))

/-- LIH (R100). -/
def execLih (i : BitVec 17) (d : BitVec 7) (s : State) : Out := .next (s.issueLane (lane1 d fun x => i ++ x.setWidth 15))

/-- ADDIW (R98). -/
def execAddiw (i : BitVec 10) (d a : BitVec 7) (s : State) : Out := .next (s.issueLane (lanePair2 d a fun x => x + i.signExtend 64))

end Sys2Proof.Machine
end

