-- ==== Sys2Proof/Machine/Tasks.lean ====
section
/-! DEFINITION. Tile tasks (14 R368 to R374) and predicted tiles (15 R402 to R404, R410): the dependency table's entries, which of them are eligible, the decrement of a successor's count, and the TASK words. -/

namespace Sys2Proof.Machine

/-! Task records. -/

/-- The granules that a range word names (R368); a CNT of 0 leaves the range unused. -/
def rangeGranules (w : Nat) : List Nat := (List.range (bits w 20 13)).map (bits w 12 0 + ·)

def Task.inputs (t : Task) : List Nat := rangeGranules (field t.record 40 4) ++ rangeGranules (field t.record 44 4)
def Task.outputs (t : Task) : List Nat := rangeGranules (field t.record 48 4) ++ rangeGranules (field t.record 52 4)
def Task.succ (t : Task) : Nat := field t.record 24 8
def Task.prio (t : Task) : Nat := bits (field t.record 36 1) 3 2
def Task.width (t : Task) : Nat := bits (field t.record 36 1) 1 0

/-- Whether a used range lies in the scratchpad. -/
def rangeFits (w gran : Nat) : Bool := decide (bits w 20 13 = 0) || decide (bits w 12 0 + bits w 20 13 ≤ gran)

/-- The checks of TQ on a record (R372). -/
def recordOk (rec_ : List Byte) (l : Launch) : Bool :=
  decide (bits (field rec_ 22 2) 15 10 = 0) && decide (bits (field rec_ 36 1) 7 4 = 0) && decide (field rec_ 37 3 = 0) && decide (field rec_ 56 8 = 0) &&
    [40, 44, 48, 52].all (fun o => decide (bits (field rec_ o 4) 31 21 = 0) && rangeFits (field rec_ o 4) l.gran.toNat) &&
    decide (field rec_ 24 8 % 64 = 0) && decide (bits (field rec_ 22 2) 9 0 = l.version.toNat)

/-- The key of a record's address (R369). -/
def State.taskKey (s : State) (f : Fibre) (va : VA) : State × Except Trap Place :=
  match s.target f.wg va.toNat with
  | .pad wg off => (s, .ok (.pad wg off))
  | .bad => (s, .error (apertureTrap va.toNat))
  | .glob =>
    match s.translate (s.who f) va {} with
    | (s1, .fault t) => (s1, .error t)
    | (s1, .ok pa _ _ _) => (s1, .ok (.pa pa))

/-- The earliest enqueued of some entries. -/
def earliest : List Task → Option Task
  | [] => none
  | t :: r => match earliest r with
    | none => some t
    | some u => if u.order < t.order then some u else some t

/-- Changes an entry of a core's dependency table. -/
def State.modTask (s : State) (core index : Nat) (h : Task → Task) : State :=
  s.modCore core fun c => { c with tasks := c.tasks.map fun t => if t.index = index then h t else t }

/-- A decrement's count in memory, at a translated address, as an atomic (R370, R287): it finds 0, or the word goes down by 1. -/
def State.decrementWord (s : State) (f : Fibre) (va : VA) (pa : Nat) (vid : VID) : State × Got × Bool :=
  if s.buffered vid pa then (s, .trap operandTrap, false)
  else match regionOf pa with
    | .peer w =>
      if !(s.peerCheck w pa true true false) then (s, .trap (memTrap .pageProtection va (atomicNeed .dec) 0), false)
      else match s.askRecord f w pa va (.atomic .dec false 0 0) with
        | (s1, .bytes bs) => (s1, .bytes [], decide (leNat bs = 0))
        | (s1, g) => (s1, g, false)
    | .control =>
      let r := s.ctlRead (pa - 0x1000000000000) 4
      if leNat r.2 = 0 then (r.1, .bytes [], true)
      else (r.1.pushCtl (pa - 0x1000000000000) (leBytes 4 (leNat r.2 - 1)), .bytes [], false)
    | _ =>
      let r := s.atomicAt f.core vid pa .dec false false 0 0 false
      (r.1, .bytes [], decide (r.2.1 = 0))

/-- The decrement of a successor's count (R370): an entry of the group's own core with that key, or else the count word in memory. Also answers whether the count was found at 0. SUCC is an address, so its high 16 bits are ignored (R149). -/
def State.decrement (s : State) (f : Fibre) (succ : Nat) : State × Got × Bool :=
  let va : VA := BitVec.ofNat 48 succ
  let word := va + 32
  match s.taskKey f va with
  | (s1, .error t) => (s1, .trap t, false)
  | (s1, .ok key) =>
    let mine := (s1.core f.core).tasks.filter fun t => decide (t.key = key)
    match earliest (mine.filter fun t => decide (0 < t.count)) with
    | some t => (s1.modTask f.core t.index fun x => { x with count := x.count - 1, state := if x.count = 1 ∧ x.state = .counting then .tiles else x.state }, .bytes [], false)
    | none =>
      if mine ≠ [] then (s1, .bytes [], true)
      else match s1.target f.wg word.toNat with
        | .bad => (s1, .trap (apertureTrap word.toNat (atomicNeed .dec)), false)
        | .pad wg off =>
          let old := leNat (s1.padRead wg off 4)
          if old = 0 then (s1, .bytes [], true) else (s1.padWrite wg off (leBytes 4 (old - 1)), .bytes [], false)
        | .glob =>
          match s1.translate (s1.who f) word (atomicNeed .dec) with
          | (s2, .fault t) => (s2, .trap t, false)
          | (s2, .ok pa vid _ _) => s2.decrementWord f word pa vid

/-- Frees an entry and the output granules that it reserved. -/
def State.freeTask (s : State) (core : Nat) (t : Task) : State :=
  (s.modCore core fun c => { c with tasks := c.tasks.filter fun x => decide (x.index ≠ t.index) }).modWg t.wg fun w => w.release (.task t.index)

/-- Puts an entry into a state in which it reserves nothing. -/
def State.parkTask (s : State) (core : Nat) (t : Task) (st : TState) (pred : Option VID) : State :=
  (s.modTask core t.index fun x => { x with state := st, pred := pred }).modWg t.wg fun w => w.release (.task t.index)

/-- The current task of a group, with the core that it stands on. -/
def State.currentTask (s : State) (wg grp : Nat) : Option Task :=
  (s.group wg grp).task.bind fun i => (s.core (s.wg wg).core).tasks.find? fun t => decide (t.index = i)

/-- A group that holds no task, and carries its grid's version again (R382). -/
def State.dropTask (s : State) (wg grp : Nat) : State := s.modGroup wg grp fun g => { g with task := none, carried := none }

/-! Eligibility. -/

/-- Whether a task's outputs are free (R369). -/
def State.outputsFree (s : State) (t : Task) : Bool :=
  let w := s.wg t.wg
  t.outputs.all fun g => decide (w.tag g = .empty) && !(w.reserved.any fun r => decide (r.1 = g) && (match r.2 with | .matrix _ => false | .copy _ => true | .task _ => true))

/-- Whether an entry is eligible (R369). -/
def State.eligible (s : State) (t : Task) : Bool :=
  decide (t.state = .tiles) && decide (t.count = 0) && (t.inputs.all fun g => decide ((s.wg t.wg).tag g = .full)) && s.outputsFree t

/-- The declared range that holds a granule. -/
def Workgroup.rangeAt (w : Workgroup) (g : Nat) : Option PRange := w.ranges.find? fun p => decide (p.first ≤ g) && decide (g < p.first + p.cnt)

/-- History slots (R402), by domain, slot and offset. -/
def State.histAt (s : State) (d slot off : Nat) : Nat := s.histBase d + 131072 * slot + off

def State.hcount (s : State) (d slot : Nat) : Nat := leNat (s.physRead (s.histAt d slot 0x10000) 4)

/-- Whether a range is ready to predict (R403). -/
def State.rangeReady (s : State) (wg : Nat) (p : PRange) : Bool :=
  let d := vidDomain (s.launch wg).version
  let w := s.wg wg
  decide (p.warm ≤ s.hcount d p.hslot) && decide (p.backoff = 0) &&
    ((List.range p.cnt).all fun i => decide (w.tag (p.first + i) = .empty) && !(w.reserved.any fun r => decide (r.1 = p.first + i))) &&
    s.domEnabled d && (s.freeSlot d).isSome

/-- Whether an entry is predict-eligible (R403), and on which version it would ride: none means a new prediction. -/
def State.predictable (s : State) (t : Task) : Option (Option VID) :=
  if t.state = .tiles ∧ t.count = 0 ∧ s.outputsFree t = true then
    let w := s.wg t.wg
    let rest := t.inputs.filter fun g => decide (w.tag g ≠ .full)
    let ready := fun (g : Nat) => match w.rangeAt g with
      | some p => s.rangeReady t.wg p
      | none => false
    let owners := (rest.map fun g => (w.tagRec g).owner).eraseDups
    if rest = [] then none
    else if rest.all fun g => decide (w.tag g = .predicted) then
      match owners with
      | [v] => some (some v)
      | _ => none
    else if rest.all ready then some none
    else none
  else none

/-- The element format of a predictable range (R401). -/
def rangeFmt (ty : BitVec 2) : Fmt :=
  match ty.toNat with
  | 0 => fp32
  | 1 => bf16
  | _ => fp16

/-- The prediction of a range's bytes from the two arrivals before (R404). -/
def predictBytes (p : PRange) (h1 h2 : List Byte) : List Byte :=
  if p.linear then
    let f := rangeFmt p.ty
    let n := if p.ty = 0 then 4 else 2
    (List.range (h1.length / n)).flatMap fun i =>
      let a := f.value (field h1 (n * i) n)
      let b := f.value (field h2 (n * i) n)
      let twice := (exactAdd a a).v
      leBytes n (f.convert .rne false (exactAdd twice b.neg).v).1
  else h1

/-- Writes the prediction of a range and sets its granules PREDICTED (R404). -/
def State.predictRange (s : State) (wg : Nat) (c : VID) (p : PRange) : State :=
  let d := vidDomain c
  let n := 1024 * p.cnt
  let bs := predictBytes p (s.physRead (s.histAt d p.hslot 0) n) (s.physRead (s.histAt d p.hslot 0x4000) n)
  let s1 := (s.physWrite (s.histAt d p.hslot 0x8000) bs).padWrite wg (1024 * p.first) bs
  let s2 := (List.range p.cnt).foldl (fun (t : State) i => t.putTag wg (p.first + i) { tag := .predicted, owner := c, out := false }) s1
  s2.modWg wg fun w =>
    { w with
      ranges := w.ranges.map fun q => if q.first = p.first then { q with owner := some c, arrived := [], done := false, pending := false } else q
      diverted := w.diverted.filter fun x => !(decide (p.first ≤ x.1) && decide (x.1 < p.first + p.cnt)) }

/-- The version of a new prediction: the lowest free slot becomes a LIVE child of the root (R404). -/
def State.newPrediction (s : State) (t : Task) : Option (State × VID) :=
  let d := vidDomain (s.launch t.wg).version
  (s.freeSlot d).map fun c =>
    let w := s.wg t.wg
    let need := (t.inputs.filter fun g => decide (w.tag g ≠ .full)).filterMap w.rangeAt
    let s1 : State := { s with versions := s.versions ++ [{ vid := c, state := .live, parent := 0, pred := true }] }
    (need.eraseDups.foldl (fun (u : State) p => u.predictRange t.wg c p) s1, c)

/-! TASK TQ. -/

/-- The lowest FREE index of a core's dependency table (R372). -/
def Core.freeTaskIndex (c : Core) : Option Nat := (List.range 256).find? fun i => !(c.tasks.any fun t => decide (t.index = i))

/-- COUNT of a record, read as an atomic (R370, R372, R287), the record's other bytes having been read. -/
def State.readCount (s : State) (f : Fibre) (key : Place) (old : List Byte) : State × List Byte :=
  match key with
  | .pad _ _ => (s, old)
  | .gone => (s, old)
  | .pa pa => if isMemory pa then
      let r := s.atomicAt f.core (s.actual (s.fibreVid f)) (pa + 32) .ld false false 0 0 false
      (r.1.saw f.key (pa + 32) 4, leBytes 4 r.2.1.toNat)
    else (s, old)

/-- What TQ does in a fibre (R372); in a helper it writes 0 (R371). -/
def seqTq (d a : BitVec 7) : State → Issue → Fibre → Seq := fun s _ f =>
  if !(f.may d.toNat && f.mayPair a.toNat) then .trap s operandTrap
  else if s.quiet f then .done (s.modFibre f.key fun x => x.setV d.toNat 0)
  else
    let va := vaOf (f.pair a.toNat) 0
    if va.toNat % 64 ≠ 0 then .trap s (misalignedTrap va.toNat)
    else match s.readRecord f va 64 with
      | (s1, .trap t) => .trap s1 t
      | (s1, .wait w) => .wait s1 w
      | (s1, .bytes bs0) =>
        match s1.taskKey f va with
        | (s2, .error t) => .trap s2 t
        | (s2, .ok key) =>
          let r := s2.readCount f key (slice bs0 32 4)
          let s2 := r.1
          let bs := splice bs0 32 r.2
          if !(recordOk bs (s2.launch f.wg)) then .trap s2 operandTrap
          else match (s2.core f.core).freeTaskIndex with
            | none => .done (s2.modFibre f.key fun x => x.setV d.toNat 0xFFFFFFFF)
            | some i =>
              let n := field bs 32 4
              let t : Task := { index := i, wg := f.wg, key := key, record := bs, count := n, state := if n = 0 then .tiles else .counting, order := s2.order }
              let s3 : State := { s2 with order := s2.order + 1 }
              .done ((s3.modCore f.core fun c => { c with tasks := c.tasks ++ [t] }).modFibre f.key fun x => x.setV d.toNat (BitVec.ofNat 32 i))

/-- TASK TQ (R372). -/
def execTaskTq (d a : BitVec 7) (s : State) : Out := .next (s.issueSeq (seqTq d a))

/-! TASK TRUN. -/

/-- Whether every live fibre of a group stands among some fibres (R371). -/
def State.wholeGroup (s : State) (g : Nat × Nat) (fs : List Fibre) : Bool :=
  s.fibres.all fun f => !(decide (f.wg = g.1) && decide (f.grp = g.2) && f.live) || (fs.map Fibre.key).contains f.key

/-- The entry that TRUN selects: the highest PRIO, then the earliest TQ (R373). -/
def pickTask : List Task → Option Task
  | [] => none
  | t :: r => match pickTask r with
    | none => some t
    | some u => if t.prio < u.prio ∨ (t.prio = u.prio ∧ u.order < t.order) then some u else some t

/-- A group that has selected an entry (R373, R404). -/
def State.startTask (s : State) (c : Issue) (g : Nat × Nat) (p : BitVec 4) (t : Task) (v : Option VID) : State :=
  let core := (s.wg g.1).core
  let rec_ := splice t.record 32 [0, 0, 0, 0]
  let s1 := s.modTask core t.index fun x => { x with state := .running, pred := v }
  let s2 := s1.modWg t.wg fun w => { w with reserved := w.reserved ++ t.outputs.map fun o => (o, .task t.index) }
  let ks := (List.range 8).map fun j => BitVec.ofNat 64 (field rec_ (8 * j) 8)
  let s3 := s2.modGroup g.1 g.2 fun x => { x with task := some t.index, carried := v, kregs := ks ++ x.kregs.drop 8 }
  let s4 := s3.snapshot core
  { s4 with fibres := s4.fibres.map fun f => if f.inEntry c && f.live && decide (f.wg = g.1) && decide (f.grp = g.2) then f.setP p.toNat true else f }

/-- What TRUN does in a group (R373, R404). -/
def groupTrun (p : BitVec 4) : State → Issue → Nat × Nat → List Fibre → Seq := fun s c g fs =>
  let again := Why.trun p ((fs.head?.map fun f => (nextOf c f).1).getD 0) ((fs.head?.map fun f => (nextOf c f).2).getD 0)
  if !(s.wholeGroup g fs) ∨ (s.group g.1 g.2).task ≠ none then .trap s operandTrap
  else
    let mine := (s.core (s.wg g.1).core).tasks.filter fun t => decide (t.wg = g.1)
    let fits := mine.filter fun t => decide (t.width = (s.launch g.1).widthCode)
    match pickTask (fits.filter s.eligible) with
    | some t => .done (s.startTask c g p t none)
    | none =>
      match pickTask (fits.filter fun t => (s.predictable t).isSome) with
      | some t =>
        match s.predictable t with
        | some (some v) => .done (s.startTask c g p t (some v))
        | _ => match s.newPrediction t with
          | some (s1, v) => .done (s1.startTask c g p t (some v))
          | none => .wait s again
      | none =>
        if mine.any fun t => decide (t.state ≠ .verify) then .wait s again
        else .done { s with fibres := s.fibres.map fun f => if f.inEntry c && f.live && decide (f.wg = g.1) && decide (f.grp = g.2) then f.setP p.toNat false else f }

/-- TASK TRUN (R373). -/
def execTaskTrun (p : BitVec 4) (s : State) : Out := .next (s.issueGroups (groupTrun p))

/-! TASK TEND. -/

/-- The publishing boundary of TEND and of RETT, performed for some fibres of one core (R281, R374). -/
def State.boundaryFor (s : State) (core : Nat) (fs : List Fibre) : State :=
  ((fs.foldl (fun (t : State) f => t.drainFibre f.key) s).publishCore core).dropTensors

/-- What TEND does in a group that runs a task (R374, R410); one whose decrement faults has no effect. -/
def groupTend : State → Issue → Nat × Nat → List Fibre → Seq := fun s c g fs =>
  if !(s.wholeGroup g fs) then .trap s operandTrap
  else match s.currentTask g.1 g.2, lowestLane fs with
    | some t, some f =>
      let s1 := s.boundaryFor c.core fs
      match t.pred.filter s1.isPred with
      | some v => .done ((s1.parkTask c.core t .verify (some v)).dropTask g.1 g.2)
      | none =>
        if t.succ = 0 then .done ((s1.freeTask c.core t).dropTask g.1 g.2)
        else match s1.decrement f t.succ with
          | (_, .trap e, _) => .trap s e
          | (s2, .wait w, _) => .wait s2 w
          | (s2, .bytes _, zero) =>
            let s3 := (s2.freeTask c.core t).dropTask g.1 g.2
            if zero then .trap s3 { code := .taskUnderflow, addr := BitVec.ofNat 64 (t.succ + 32), next := true } else .done s3
    | _, _ => .trap s operandTrap

/-- Some fibres whose effects were suppressed act again as fibres of their grid's version (R411, R440). -/
def State.unmute (s : State) (keys : List FibreKey) : State :=
  let mine := fun (g : Group) => keys.any fun k => g.is k.wg k.grp
  { s with
    fibres := s.fibres.map fun f => if keys.contains f.key then { f with muted := false } else f
    groups := s.groups.map fun g => if mine g ∧ g.task = none then { g with carried := none } else g }

/-- TASK TEND (R374). -/
def execTaskTend (s : State) : Out :=
  match s.cur with
  | none => .next s
  | some c => .next ((s.issueGroups groupTend).unmute (((s.members c).filter Fibre.muted).map Fibre.key))

end Sys2Proof.Machine
end

