-- ==== Sys2Proof/Machine/Jumps.lean ====
section
/-! DEFINITION. Transfers of control (04 R112 to R116), calls with the register stack (01 R22 to R29), repeats (02 R54 to R56), TRAP and BRK (R121), the six returns from a handler (18 R438 to R440), and the end of a fibre (R118). -/

namespace Sys2Proof.Machine

/-! Branches. -/

/-- The target of a word offset, from the word that holds the parcel (R112, R114). -/
def relative (pc : VA) (off : Int) : VA := wordAt pc + BitVec.ofInt 48 (4 * off)

/-- Whether BRA is taken in a fibre (R112). -/
def Fibre.taken (f : Fibre) (sense : Bool) (p : BitVec 4) : Bool := f.p p.toNat != sense

/-- What BRA does in a fibre (R112). -/
def jumpBra (sense : Bool) (p : BitVec 4) (o : BitVec 19) : State → Issue → Fibre → Except Trap Fibre := fun _ c f =>
  .ok { f with pc := if f.taken sense p then relative f.pc o.toInt else (nextOf c f).1 }

/-- BRA (R112); the fibres that do not take it keep the entry (R200). -/
def execBra (s : Bool) (p : BitVec 4) (o : BitVec 19) (t : State) : Out :=
  .next (t.issueJump (jumpBra s p o) (some fun f => !(f.taken s p)))

/-- What BRX does in a fibre (R113). -/
def jumpBrx (a : BitVec 7) : State → Issue → Fibre → Except Trap Fibre := fun _ _ f =>
  if !(f.mayPair a.toNat) then .error operandTrap
  else
    let t : VA := (f.pair a.toNat).setWidth 48
    if t.getLsbD 0 then .error (misalignedTrap t.toNat) else .ok { f with pc := t }

/-- BRX (R113). -/
def execBrx (_h _g : Bool) (a : BitVec 7) (s : State) : Out := .next (s.issueJump (jumpBrx a) none)

/-! Calls. -/

/-- Writes one word of a spilled block, as an ordinary-hint store of the fibre (R24, R27). -/
def State.spillStore (s : State) (f : Fibre) (va : VA) (w : Word) (next : VA × Word) : Seq := s.store f 0 false va (leBytes 4 w.toNat) next true

/-- Writes the words of one block (R24). -/
def State.spillWords : List Nat → State → Fibre → Nat → VA × Word → Seq
  | [], s, _, _, _ => .done s
  | j :: r, s, f, blk, next =>
    match s.spillStore f (f.rstk + BitVec.ofNat 48 (4 * j)) (f.regs.getD ((blk + j) % f.alloc.toNat) 0) next with
    | .done t => State.spillWords r t f blk next
    | x => x

/-- The spills of a call, the window having moved (R24): a helper's write nothing (R205). The fibre comes back with its WB, D and RSTK. -/
def State.spill : Nat → State → Fibre → VA × Word → Seq × Fibre
  | 0, s, f, _ => (.done s, f)
  | n + 1, s, f, next =>
    if f.outer + 128 ≤ f.alloc.toNat then (.done s, f)
    else
      let blk := (((f.wb.toNat : Int) - f.outer) % f.alloc.toNat).toNat
      let after : Fibre := { f with rstk := f.rstk + 32, outer := f.outer - 8 }
      if s.quiet f then State.spill n s after next
      else match State.spillWords (List.range 8) s f blk next with
        | .done t => State.spill n t after next
        | x => (x, f)

/-- A call to a target (R114). -/
def State.call (s : State) (c : Issue) (f : Fibre) (slide : BitVec 4) (tgt : VA) : Seq :=
  let n := 8 * slide.toNat
  let sp := f.v 0
  let ret := (nextOf c f).1
  let moved : Fibre := { f with wb := BitVec.ofNat 10 ((f.wb.toNat + n) % f.alloc.toNat), outer := f.outer + n }
  match State.spill 16 s moved (nextOf c f) with
  | (.done t, g) =>
    .jumped (t.modFibre f.key fun x =>
      { ((({ x with wb := g.wb, outer := g.outer, rstk := g.rstk }).setV 0 sp).setV 126 (ret.setWidth 32)).setV 127
          ((ret.extractLsb' 32 16).setWidth 32 + BitVec.ofNat 32 (slide.toNat * 2 ^ 16)) with pc := tgt })
  | (x, _) => x

/-- What CALL does in a fibre (R114). -/
def seqCall (slide : BitVec 4) (o : BitVec 20) : State → Issue → Fibre → Seq := fun s c f =>
  if f.alloc.toNat < 128 then .trap s illegalTrap else s.call c f slide (relative f.pc o.toInt)

/-- CALL (R114). -/
def execCall (s : BitVec 4) (o : BitVec 20) (t : State) : Out := .next (t.issueSeq (seqCall s o))

/-- What CALLI does in a fibre (R114). -/
def seqCalli (slide : BitVec 4) (a : BitVec 7) : State → Issue → Fibre → Seq := fun s c f =>
  if f.alloc.toNat < 128 then .trap s illegalTrap
  else if !(f.mayPair a.toNat) then .trap s operandTrap
  else
    let t : VA := (f.pair a.toNat).setWidth 48
    if t.getLsbD 0 then .trap s (misalignedTrap t.toNat) else s.call c f slide t

/-- CALLI (R114). -/
def execCalli (s : BitVec 4) (a : BitVec 7) (t : State) : Out := .next (t.issueSeq (seqCalli s a))

/-- The fills of a return, the window having moved back and D having become `d` (R25): a helper's write 0 (R205). -/
def State.fillBack : Nat → State → Fibre → Int → State × Got × Fibre
  | 0, s, f, _ => (s, .bytes [], f)
  | n + 1, s, f, d =>
    if 0 ≤ d then (s, .bytes [], { f with outer := d.toNat })
    else
      let rstk := f.rstk - 32
      let blk := (((f.wb.toNat : Int) - d - 8) % f.alloc.toNat).toNat
      let regs := (List.range 8).map fun j => (blk + j) % f.alloc.toNat
      if s.quiet f then State.fillBack n s (({ f with rstk := rstk }).setPhysBytes regs (List.replicate 32 0)) (d + 8)
      else match s.readRecord f rstk 32 true with
        | (t, .bytes bs) => State.fillBack n t (({ f with rstk := rstk }).setPhysBytes regs bs) (d + 8)
        | (t, g) => (t, g, f)

/-- What RET does in a fibre (R115). -/
def seqRet : State → Issue → Fibre → Seq := fun s _ f =>
  if f.alloc.toNat < 128 then .trap s illegalTrap
  else
    let link := (f.v 127).toNat
    let n := 8 * bits link 19 16
    let ret : VA := BitVec.ofNat 48 (bits link 15 0 * 2 ^ 32 + (f.v 126).toNat)
    if n = 0 then .trap s operandTrap
    else if ret.getLsbD 0 then .trap s (misalignedTrap ret.toNat)
    else
      let moved : Fibre := { f with wb := BitVec.ofNat 10 (((f.wb.toNat : Int) - n) % f.alloc.toNat).toNat }
      match State.fillBack 16 s moved ((f.outer : Int) - n) with
      | (t, .bytes _, g) => .jumped (t.modFibre f.key fun x => { x with wb := g.wb, outer := g.outer, rstk := g.rstk, regs := g.regs, pc := ret })
      | (t, .trap e, _) => .trap t e
      | (t, .wait w, _) => .wait t w

/-- RET (R115). -/
def execRet (s : State) : Out := .next (s.issueSeq seqRet)

/-- Sets the window base, if a value may be one (R116, R122). -/
def Fibre.setWb (f : Fibre) (w : Nat) : Except Trap Fibre :=
  if w % 8 ≠ 0 ∨ f.alloc.toNat ≤ w then .error operandTrap else .ok { f with wb := BitVec.ofNat 10 w }

/-- What WBASE does in a fibre (R116). -/
def laneWbase (m : Bool) (a : BitVec 7) : State → Issue → Fibre → Except Trap Lane := fun _ _ f =>
  if !(f.may a.toNat) then .error operandTrap
  else
    let x := f.v a.toNat
    match f.setWb (if m then (((f.wb.toNat : Int) + x.toInt) % f.alloc.toNat).toNat else x.toNat) with
    | .ok g => .ok { f := g }
    | .error t => .error t

/-- WBASE and WBASE.R (R116). -/
def execWbase (_h m : Bool) (a : BitVec 7) (s : State) : Out := .next (s.issueLane (laneWbase m a))

/-! Repeats. -/

/-- REPSTATE as a REP word sets it (R56, R57). -/
def repWord (c : BitVec 6) (x y z : BitVec 3) : Word :=
  BitVec.ofNat 32 (c.toNat * 2 ^ 18 + x.toNat * 2 ^ 15 + y.toNat * 2 ^ 12 + z.toNat * 2 ^ 9 + c.toNat + 1)

/-- What REP does in a fibre (R55, R56): the repeat of the word after it begins. -/
def seqRep (k : BitVec 6) (x y z : BitVec 3) : State → Issue → Fibre → Seq := fun s c f =>
  if c.form ≠ .full ∨ f.pl = .h then .trap s illegalTrap
  else match s.fetchAt f f.pl (f.pc + 4) with
    | (s1, .error t) => .trap s1 t
    | (s1, .ok w) =>
      if repMajor w then .jumped (s1.modFibre f.key fun g => { g with rep := repWord k x y z, pc := f.pc + 4 }) else .trap s1 illegalTrap

/-- REP (R56). -/
def execRep (c : BitVec 6) (x y z : BitVec 3) (s : State) : Out := .next (s.issueSeq (seqRep c x y z))

/-! TRAP and BRK. -/

/-- TRAP (R121). -/
def execTrap (c : BitVec 8) (s : State) : Out := .next (s.issueLane fun _ _ _ => .error { code := .trap, info := c.setWidth 32 })

/-- BRK (R121). -/
def execBrk (c : BitVec 8) (s : State) : Out := .next (s.issueLane fun _ _ _ => .error { code := .breakpoint, info := c.setWidth 32 })

/-! The end of a fibre. -/

/-- FEND (R118): a fault record of its group comes first (R326, R364); fibres whose effects are suppressed go on (R205). -/
def execFend (s : State) : Out :=
  match s.cur with
  | none => .next s
  | some c =>
    let fs := s.liveMembers c
    let acts := fs.filter fun f => !f.muted
    let trapOf := fun (f : Fibre) => if f.pl ≠ .u then some illegalTrap else s.dueFault f true 255
    let ts := acts.filterMap fun f => (trapOf f).map fun t => (f.key, t)
    let faulty := acts.filter fun f => decide (f.pl = .u) && (trapOf f).isSome
    let ends := (acts.filter fun f => (trapOf f).isNone).map Fibre.key
    let s1 := faulty.foldl (fun (t : State) f => t.faultTaken f) s
    let s2 := if ends = [] then s1 else s1.endFibres ends
    let s3 : State := { s2 with fibres := s2.fibres.map fun f => if f.inEntry c && f.muted then f.advance c else f }
    .next (s3.afterTraps c ts)

/-! Returning from a handler. -/

/-- The task actions of RETT (R440). -/
inductive TaskAct where
  | retry | skip | kill
deriving DecidableEq, Repr

/-- A group whose task was taken from it: its fibres run on with every effect suppressed (R440). -/
def State.loseTask (s : State) (g : Nat × Nat) : State :=
  let s1 := s.modGroup g.1 g.2 fun x => { x with task := none }
  { s1 with fibres := s1.fibres.map fun f => if f.wg = g.1 ∧ f.grp = g.2 then { f with muted := true } else f }

/-- What a task action made of a group's return: it goes on, it is a double fault, or the decrement waits. -/
inductive Acted where
  | on | double (t : Trap) | wait (w : Why) | hold (t : Trap)

/-- A task action for one group, whose returning fibres are given (R440). -/
def State.actTask (s : State) (core : Nat) (act : TaskAct) (g : Nat × Nat) (fs : List Fibre) : State × Acted :=
  if fs.all Fibre.muted then (s, .on)
  else match s.currentTask g.1 g.2, lowestLane fs with
    | some t, some f =>
      match act with
      | .retry => ((s.parkTask core t .tiles none).loseTask g, .on)
      | .kill => ((s.freeTask core t).loseTask g, .on)
      | .skip =>
        match t.pred.filter s.isPred with
        | some v => ((s.parkTask core t .verify (some v)).loseTask g, .on)
        | none =>
          if t.succ = 0 then ((s.freeTask core t).loseTask g, .on)
          else match s.decrement f t.succ with
            | (s1, .bytes _, _) => ((s1.freeTask core t).loseTask g, .on)
            | (s1, .wait w, _) => (s1, .wait w)
            | (s1, .trap e, _) => if e.code.hardware then (s1, .hold e) else ((s1.freeTask core t).loseTask g, .double e)
    | _, _ => (s, .double operandTrap)

/-- A task action for the groups of the entry in turn (R440). -/
def State.actTasks : State → Issue → TaskAct → List (Nat × Nat) → State × List ((Nat × Nat) × Acted)
  | s, _, _, [] => (s, [])
  | s, c, act, g :: r =>
    let x := s.actTask c.core act g (s.share c g)
    let y := State.actTasks x.1 c act r
    (y.1, (g, x.2) :: y.2)

/-- Returns some fibres from their handler, those that fault twice ending (R436, R439). -/
def State.returnAll (s : State) (c : Issue) (skip : Bool) (acted : List ((Nat × Nat) × Acted)) : State :=
  let step := fun (t : State) (f : Fibre) =>
    match (acted.find? fun x => decide (x.1 = (f.wg, f.grp))).map (·.2) with
    | some (.double e) => t.doubleFault f e
    | some (.wait w) => t.modFibre f.key fun x => x.waiting w s.clock
    | some (.hold e) => t.parkOne f.key e f.pc 0
    | some .on => t.rettOne f skip
    | none => t.rettOne f skip
  let s1 := (s.liveMembers c).foldl step s
  let waits := ((s1.liveMembers c).filter fun f => decide (f.wait ≠ none)).map Fibre.key
  s1.settle c (if waits ≠ [] then waits else s1.keepLowest c ((s1.liveMembers c).map Fibre.key))

/-- The publishing boundary before a return, after every access of the returning fibres (R439, R281). -/
def State.returnBoundary (s : State) (c : Issue) : State :=
  ((s.liveMembers c).foldl (fun (t : State) f => t.drainFibre f.key) s).publishCore c.core

/-- RETT at a level other than H (R438). -/
def State.rettDenied (s : State) (c : Issue) : Option State :=
  match s.liveMembers c with
  | [] => some s
  | f :: r =>
    match f.pl with
    | .h => none
    | .u => some (s.afterTraps c ((f :: r).map fun x => (x.key, privilegeTrap)))
    | .s => some (s.afterTraps c ((f :: r).map fun x => (x.key, illegalTrap)))

/-- A return without a task action (R439). -/
def State.rett (s : State) (skip : Bool) : State :=
  match s.cur with
  | none => s
  | some c => (s.rettDenied c).getD ((s.returnBoundary c).returnAll c skip [])

/-- A return with a task action (R440). -/
def State.rettTask (s : State) (act : TaskAct) : State :=
  match s.cur with
  | none => s
  | some c =>
    (s.rettDenied c).getD
      (let s1 := s.returnBoundary c
       let r := s1.actTasks c act (s1.groupsOf c)
       r.1.returnAll c false r.2)

/-- RETT RESUME (R439). -/
def execRettResume (s : State) : Out := .next (s.rett false)

/-- RETT SKIP (R439). -/
def execRettSkip (s : State) : Out := .next (s.rett true)

/-- RETT KILLFIBRE (R439): the fibres end as by FEND. -/
def execRettKillfibre (s : State) : Out :=
  match s.cur with
  | none => .next s
  | some c =>
    .next ((s.rettDenied c).getD
      (let s1 := s.returnBoundary c
       (s1.endFibres ((s1.liveMembers c).map Fibre.key)).settle c []))

/-- RETT TASKRETRY (R440). -/
def execRettTaskretry (s : State) : Out := .next (s.rettTask .retry)

/-- RETT TASKSKIP (R440). -/
def execRettTaskskip (s : State) : Out := .next (s.rettTask .skip)

/-- RETT TASKKILL (R440). -/
def execRettTaskkill (s : State) : Out := .next (s.rettTask .kill)

end Sys2Proof.Machine
end

