-- ==== Sys2Proof/Machine/Special.lean ====
section
/-! DEFINITION. Special registers (01 R18 to R21; 11 R284; 15 R382; 18 R430, R434): who may read and write each, what each reads, and what a write keeps. -/

namespace Sys2Proof.Machine

/-- The lowest level that may read a special register (R18); none for a number that names no register (R19). -/
def srdLevel (n : Nat) : Option Level :=
  if n ≤ 0x13 then some .u
  else if n ≤ 0x1A then some .h
  else if n ≤ 0x1D then some .u
  else if n = 0x1E then some .h
  else none

/-- The lowest level that may write a special register (R18); none for a register without W access (R19). -/
def swrLevel (n : Nat) : Option Level :=
  match n with
  | 0x0B => some .h
  | 0x0C => some .u
  | 0x10 => some .u
  | 0x11 => some .h
  | 0x12 => some .h
  | 0x13 => some .h
  | 0x14 => some .h
  | 0x15 => some .h
  | 0x16 => some .h
  | 0x17 => some .h
  | 0x18 => some .h
  | 0x19 => some .h
  | 0x1A => some .h
  | _ => none

/-- The phase stamp and catch-up count of a core (R284). -/
def Core.phaseStamp (c : Core) : DWord := BitVec.ofNat 64 (c.caught.toNat * 2 ^ 56 + c.sigma.toNat % 2 ^ 56)

/-- A fibre after SRD of a register: CLOCKLO and PHSTAMPLO capture all 64 bits (R21, R284). -/
def State.srdCapture (s : State) (f : Fibre) (n : Nat) : Fibre :=
  match n with
  | 0x0D => { f with clockCap := BitVec.ofNat 64 s.clock }
  | 0x1C => { f with phaseCap := (s.core f.core).phaseStamp }
  | _ => f

/-- The value of a special register, the captures having been made (R18). -/
def State.srdValue (s : State) (f : Fibre) (n : Nat) : Word :=
  let w := s.wg f.wg
  let l := s.launch f.wg
  match n with
  | 0x00 => BitVec.ofNat 32 f.lane
  | 0x01 => BitVec.ofNat 32 (f.lane / 4)
  | 0x02 => BitVec.ofNat 32 f.grp
  | 0x03 => BitVec.ofNat 32 l.width
  | 0x04 => w.x.setWidth 32
  | 0x05 => w.y.setWidth 32
  | 0x06 => w.z.setWidth 32
  | 0x07 => BitVec.ofNat 32 w.crank
  | 0x08 => BitVec.ofNat 32 (f.core % 24)
  | 0x09 => BitVec.ofNat 32 (f.core / 24)
  | 0x0A => if f.run = .helper then 1 else 0
  | 0x0B => f.wb.setWidth 32
  | 0x0C => (f.pword ||| 0x8000#16).setWidth 32
  | 0x0D => f.clockCap.setWidth 32
  | 0x0E => f.clockCap.extractLsb' 32 32
  | 0x0F => (s.fibreVid f).setWidth 32
  | 0x10 => ((s.group f.wg f.grp).flagsSeen s.clock f.lane).setWidth 32
  | 0x11 => f.rstk.setWidth 32
  | 0x12 => (f.rstk.extractLsb' 32 16).setWidth 32
  | 0x13 => f.rep
  | 0x14 => f.trap.cause
  | 0x15 => f.trap.pcLo
  | 0x16 => f.trap.pcHi
  | 0x17 => f.trap.addrLo
  | 0x18 => f.trap.addrHi
  | 0x19 => f.trap.info
  | 0x1A => f.trap.lanes
  | 0x1B => BitVec.ofNat 32 (s.domain (vidDomain (s.fibreVid f))).accept
  | 0x1C => f.phaseCap.setWidth 32
  | 0x1D => f.phaseCap.extractLsb' 32 32
  | _ => BitVec.ofNat 32 f.slot

/-- What SRD does in a fibre (R19, R122). -/
def laneSrd (d n : BitVec 7) : State → Issue → Fibre → Except Trap Lane := fun s _ f =>
  match srdLevel n.toNat with
  | none => .error operandTrap
  | some l =>
    if f.pl.rank < l.rank then .error privilegeTrap
    else if !(f.may d.toNat) then .error operandTrap
    else
      let g := s.srdCapture f n.toNat
      .ok { f := g.setV d.toNat (s.srdValue g n.toNat) }

/-- Holds an SRD FPSTAT until the earlier instructions of the fibres that issue it have raised their flags (R148). -/
def State.awaitFlags (s : State) : State :=
  match s.cur with
  | none => s
  | some c =>
    let own := s.groups.flatMap fun g => (g.flying.filter fun x => x.lanes.any fun l => (s.laneNames c g).contains l).map FlagDue.due
    { s with clock := own.foldl max s.clock }

/-- SRD (R122). -/
def execSrd (_g : Bool) (d n : BitVec 7) (s : State) : Out := .next ((if n = 0x10#7 then s.awaitFlags else s).issueLane (laneSrd d n))

/-- The fields of REPSTATE that are not shown as zero (02 R57), which alone a write changes (00 R6). -/
def repFields : Word := 0x00FFFE7F

/-- The fields of TRAPINFO that are not shown as zero (18 R430, 00 R6). -/
def trapInfoFields : Word := 0x80007FFF

/-- A fibre after a write of a register of its own (R18, R20); WB takes WBASE's checks (R116), and a field shown as zero stays zero (00 R6, log 18). -/
def Fibre.swr (f : Fibre) (n : Nat) (v : Word) : Except Trap Fibre :=
  match n with
  | 0x0B => f.setWb (v.toNat % 1024)
  | 0x0C => .ok (f.setPword v)
  | 0x11 => .ok { f with rstk := f.rstk.extractLsb' 32 16 ++ (v &&& 0xFFFFFFE0#32) }
  | 0x12 => .ok { f with rstk := v.setWidth 16 ++ f.rstk.setWidth 32 }
  | 0x13 => .ok { f with rep := v &&& repFields }
  | 0x14 => .ok { f with trap := { f.trap with cause := v } }
  | 0x15 => .ok { f with trap := { f.trap with pcLo := v } }
  | 0x16 => .ok { f with trap := { f.trap with pcHi := v } }
  | 0x17 => .ok { f with trap := { f.trap with addrLo := v } }
  | 0x18 => .ok { f with trap := { f.trap with addrHi := v } }
  | 0x19 => .ok { f with trap := { f.trap with info := v &&& trapInfoFields } }
  | 0x1A => .ok { f with trap := { f.trap with lanes := v } }
  | _ => .ok f

/-- What SWR does in a fibre (R19, R122). FPSTAT belongs to the group, which a quiet fibre leaves as it is (R205). -/
def seqSwr (a n : BitVec 7) : State → Issue → Fibre → Seq := fun s _ f =>
  match swrLevel n.toNat with
  | none => .trap s operandTrap
  | some l =>
    if f.pl.rank < l.rank then .trap s privilegeTrap
    else if !(f.may a.toNat) then .trap s operandTrap
    else if n = 0x10#7 then
      if s.quiet f then .done s else .done (s.modGroup f.wg f.grp fun g => g.writeFlags s.clock ((f.v a.toNat).setWidth 5))
    else match f.swr n.toNat (f.v a.toNat) with
      | .ok g => .done (s.modFibre f.key fun _ => g)
      | .error t => .trap s t

/-- SWR (R122). The fibres of an entry write in increasing home column, and the last write of a group's FPSTAT stands. -/
def execSwr (_h _g : Bool) (a n : BitVec 7) (s : State) : Out := .next (s.issueSeq (seqSwr a n))

end Sys2Proof.Machine
end

