-- ==== Sys2Proof/Machine/MemoryOps.lean ====
section
/-! DEFINITION. Loads and stores (06 R149 to R158), prefetch and line maintenance (R159, R160), atomics (R161 to R164), and the words that only pass time (04 R119, R120). -/

namespace Sys2Proof.Machine

/-! Loads and stores. -/

/-- Whether the data registers of a load or store may be named: one register, a pair, or a quadruple (R153). -/
def Fibre.mayData (f : Fibre) (n : Nat) (size : Nat) : Bool :=
  match size with
  | 8 => f.mayPair n
  | 16 => f.mayQuad n
  | _ => f.may n

/-- The effective address of a format M word (R149). -/
def Fibre.mAddr (f : Fibre) (a o : BitVec 7) (size : Nat) : VA := vaOf (f.pair a.toNat) ((size : Int) * o.toInt)

/-- The physical registers that a load of some bytes fills (R153). -/
def Fibre.dataRegs (f : Fibre) (d size : Nat) : List Nat := (List.range ((size + 3) / 4)).map fun j => f.phys (d + j)

/-- What a load does in a fibre (R153 to R157). -/
def seqLoad (size : Nat) (h : BitVec 2) (m : Bool) (d a o : BitVec 7) : State → Issue → Fibre → Seq := fun s c f =>
  if f.mayData d.toNat size && f.mayPair a.toNat then
    s.load f h.toNat m size (.lanes (f.dataRegs d.toNat size)) (f.mAddr a o size) (nextOf c f)
  else .trap s operandTrap

/-- What a store does in a fibre (R153 to R157); a quiet fibre's is suppressed (R205). -/
def seqStore (size : Nat) (h : BitVec 2) (m : Bool) (d a o : BitVec 7) : State → Issue → Fibre → Seq := fun s c f =>
  if f.mayData d.toNat size && f.mayPair a.toNat then
    if s.quiet f then .done s
    else s.store f h.toNat m (f.mAddr a o size) ((f.regBytes d.toNat ((size + 3) / 4)).take size) (nextOf c f)
  else .trap s operandTrap

/-- A load issues; with the poll hint it demotes its entry (R208). -/
def State.issueLoad (s : State) (size : Nat) (h : BitVec 2) (m : Bool) (d a o : BitVec 7) : State :=
  match s.cur with
  | none => s
  | some c => (if h = 3#2 then s.demote c else s).issueSeq (seqLoad size h m d a o)

/-- LDB (R153). -/
def execLdb (h : BitVec 2) (m : Bool) (d a o : BitVec 7) (s : State) : Out := .next (s.issueLoad 1 h m d a o)

/-- LDH (R153). -/
def execLdh (h : BitVec 2) (m : Bool) (d a o : BitVec 7) (s : State) : Out := .next (s.issueLoad 2 h m d a o)

/-- LDW (R153). -/
def execLdw (h : BitVec 2) (m : Bool) (d a o : BitVec 7) (s : State) : Out := .next (s.issueLoad 4 h m d a o)

/-- LDD (R153). -/
def execLdd (h : BitVec 2) (m : Bool) (d a o : BitVec 7) (s : State) : Out := .next (s.issueLoad 8 h m d a o)

/-- LDQ (R153). -/
def execLdq (h : BitVec 2) (m : Bool) (d a o : BitVec 7) (s : State) : Out := .next (s.issueLoad 16 h m d a o)

/-- STB (R153). -/
def execStb (h : BitVec 2) (m : Bool) (d a o : BitVec 7) (s : State) : Out := .next (s.issueSeq (seqStore 1 h m d a o))

/-- STH (R153). -/
def execSth (h : BitVec 2) (m : Bool) (d a o : BitVec 7) (s : State) : Out := .next (s.issueSeq (seqStore 2 h m d a o))

/-- STW (R153). -/
def execStw (h : BitVec 2) (m : Bool) (d a o : BitVec 7) (s : State) : Out := .next (s.issueSeq (seqStore 4 h m d a o))

/-- STD (R153). -/
def execStd (h : BitVec 2) (m : Bool) (d a o : BitVec 7) (s : State) : Out := .next (s.issueSeq (seqStore 8 h m d a o))

/-- STQ (R153). -/
def execStq (h : BitVec 2) (m : Bool) (d a o : BitVec 7) (s : State) : Out := .next (s.issueSeq (seqStore 16 h m d a o))

/-- PFETCH (R159): it changes no architectural state and never faults, and the part may drop any: this model drops all (log 3). -/
def execPfetch (_h : BitVec 2) (_a _o : BitVec 7) (s : State) : Out := .next (s.issueLane fun _ _ f => .ok { f := f })

/-- What CLINE does in a fibre (R150, R160): the line's dirty bytes go out to the core's private frame; with `inval` the core's copies of the line go. In an aperture it has no effect, and so checks nothing there (log 106). -/
def seqCline (inval : Bool) (a o : BitVec 7) : State → Issue → Fibre → Seq := fun s _ f =>
  if !(f.mayPair a.toNat) then .trap s operandTrap
  else if s.quiet f then .done s
  else
    let va := f.mAddr a o 1024
    if ownAperture ≤ va.toNat then .done s
    else if va.toNat % 1024 ≠ 0 then .trap s (misalignedTrap va.toNat)
    else match s.translate (s.who f) va {} with
      | (s1, .fault t) => .trap s1 t
      | (s1, .ok pa _ _ _) => .done ((s1.landAll f.key).cleanLine f.core (pa / 1024) inval)

/-- CLINE and CLINE.I (R160). -/
def execCline (m : Bool) (a o : BitVec 7) (s : State) : Out := .next (s.issueSeq (seqCline m a o))

/-! Words that only pass time. -/

/-- YIELD (R119): its entry is demoted (R208). -/
def execYield (s : State) : Out :=
  match s.cur with
  | none => .next s
  | some c => .next ((s.demote c).issueLane fun _ _ f => .ok { f := f })

/-- What SLEEP does in a fibre: its next instruction issues no earlier than n clocks on (R120). -/
def laneSleep (i : BitVec 17) : State → Issue → Fibre → Except Trap Lane := fun s _ f => .ok { f := { f with notBefore := s.clock + i.toNat } }

/-- SLEEP (R120). -/
def execSleep (i : BitVec 17) (s : State) : Out := .next (s.issueLane (laneSleep i))

/-- NOP (R119). -/
def execNop (s : State) : Out := .next (s.issueLane fun _ _ f => .ok { f := f })

/-! Atomics. -/

/-- A register or pair operand of an atomic, in 64 bits (R161). -/
def Fibre.atomVal (f : Fibre) (n : Nat) (wide : Bool) : DWord := if wide then f.pair n else (f.v n).setWidth 64

/-- Whether a register or pair operand of an atomic may be named (R161). -/
def Fibre.mayAtom (f : Fibre) (n : Nat) (wide : Bool) : Bool := if wide then f.mayPair n else f.may n

/-- What an atomic does in a fibre (R161 to R164); a quiet fibre's writes 0 to d (R205). `d` and `b` are absent where the word has none. -/
def seqAtomic (op : AtomicOp) (sc : BitVec 3) (d : Option (BitVec 7)) (a : BitVec 6) (wide : Bool) (b : Option (BitVec 7)) : State → Issue → Fibre → Seq := fun s c f =>
  let may := fun (r : Option (BitVec 7)) => match r with
    | some x => f.mayAtom x.toNat wide
    | none => true
  let val := fun (r : Option (BitVec 7)) => match r with
    | some x => f.atomVal x.toNat wide
    | none => 0
  let dst := match d with
    | some x => f.dataRegs x.toNat (if wide then 8 else 4)
    | none => []
  if !(may d && may b && f.mayPair (2 * a.toNat)) then .trap s operandTrap
  else if s.quiet f then .done (s.giveOld f.key dst 0)
  else s.atomic f op wide ((s.launch f.wg).syncClass sc) (vaOf (f.pair (2 * a.toNat)) 0) (val b) (val d) dst (fun t => t.demote c)


/-- AADD (R161). -/
def execAadd (k : BitVec 3) (d : BitVec 7) (a : BitVec 6) (w : Bool) (b : BitVec 7) (s : State) : Out :=
  .next (s.issueSeq (seqAtomic .add k (some d) a w (some b)))

/-- AAND (R161). -/
def execAand (k : BitVec 3) (d : BitVec 7) (a : BitVec 6) (w : Bool) (b : BitVec 7) (s : State) : Out :=
  .next (s.issueSeq (seqAtomic .and k (some d) a w (some b)))

/-- AOR (R161). -/
def execAor (k : BitVec 3) (d : BitVec 7) (a : BitVec 6) (w : Bool) (b : BitVec 7) (s : State) : Out :=
  .next (s.issueSeq (seqAtomic .or k (some d) a w (some b)))

/-- AXOR (R161). -/
def execAxor (k : BitVec 3) (d : BitVec 7) (a : BitVec 6) (w : Bool) (b : BitVec 7) (s : State) : Out :=
  .next (s.issueSeq (seqAtomic .xor k (some d) a w (some b)))

/-- AMIN (R161). -/
def execAmin (k : BitVec 3) (d : BitVec 7) (a : BitVec 6) (w : Bool) (b : BitVec 7) (s : State) : Out :=
  .next (s.issueSeq (seqAtomic .min k (some d) a w (some b)))

/-- AMAX (R161). -/
def execAmax (k : BitVec 3) (d : BitVec 7) (a : BitVec 6) (w : Bool) (b : BitVec 7) (s : State) : Out :=
  .next (s.issueSeq (seqAtomic .max k (some d) a w (some b)))

/-- AXCH (R161). -/
def execAxch (k : BitVec 3) (d : BitVec 7) (a : BitVec 6) (w : Bool) (b : BitVec 7) (s : State) : Out :=
  .next (s.issueSeq (seqAtomic .xch k (some d) a w (some b)))

/-- ACAS (R161, R162; a failed one demotes its entry, R208). -/
def execAcas (k : BitVec 3) (d : BitVec 7) (a : BitVec 6) (w : Bool) (b : BitVec 7) (s : State) : Out :=
  .next (s.issueSeq (seqAtomic .cas k (some d) a w (some b)))

/-- AFADD (R161, R163). -/
def execAfadd (k : BitVec 3) (d : BitVec 7) (a : BitVec 6) (w : Bool) (b : BitVec 7) (s : State) : Out :=
  .next (s.issueSeq (seqAtomic .fadd k (some d) a w (some b)))

/-- ALD (R164): always an acquire (R291). -/
def execAld (k : BitVec 3) (d : BitVec 7) (a : BitVec 6) (w : Bool) (s : State) : Out := .next (s.issueSeq (seqAtomic .ld k (some d) a w none))

/-- AST (R164): always a release (R291). -/
def execAst (k : BitVec 3) (a : BitVec 6) (w : Bool) (b : BitVec 7) (s : State) : Out := .next (s.issueSeq (seqAtomic .st k none a w (some b)))

end Sys2Proof.Machine
end

