-- ==== Sys2Proof/Machine/SyncOps.lean ====
section
/-! DEFINITION. Ordering and synchronisation words (11 R293 to R306): PHASE, FENCE, WAIT, TAG and GBAR. -/

namespace Sys2Proof.Machine

/-! FENCE and PHASE. -/

/-- Whether copy commands that a workgroup exposed before an order are not yet complete (R294, R365). -/
def State.copyBusy (s : State) (wg order : Nat) : Bool :=
  ((s.wg wg).exposed.any fun e => decide (e.order < order)) || ((s.wg wg).keptCopies.any fun k => decide (k.order < order)) ||
    s.cores.any fun c => c.ccmds.any fun k => decide (k.wg = wg) && decide (k.order < order)

/-- Whether commands that a workgroup built before an order, for the matrix engines or for accumulators, are not yet complete (R294). -/
def State.matrixBusy (s : State) (wg order : Nat) : Bool := s.cores.any fun c => c.mcmds.any fun m => decide (m.src = wg) && decide (m.seq < order)

/-- Whether peer or collective transfers that a workgroup began before an order, and an identity, are not yet complete (R276, R294). -/
def State.linkBusy (s : State) (wg order id : Nat) : Bool :=
  (s.mem.peers.any fun r => decide (r.fib.wg = wg) && decide (r.n < id) && decide (r.got = none)) ||
    ((s.coll.posts.map (·.2) ++ s.coll.exposed ++ s.coll.cmds.map fun c => (c.wg, c.order)).any fun x => decide (x.1 = wg) && decide (x.2 < order))

/-- The first part of FENCE (R294): with C before, the fibre's stores land and the core publishes, and tensor lines go for the engines after. -/
def State.fenceBegin (s : State) (f : Fibre) (before after : BitVec 4) : State :=
  if before.getLsbD 0 then
    let t := ((s.landPosts f.key).landAll f.key).publishCore f.core
    if after.getLsbD 1 || after.getLsbD 2 then t.dropTensors else t
  else s

/-- The end of FENCE (R294): for an engine after it, the tensor lines that hold what the paths before it have published by now go (R292), and with C after the core takes a snapshot. -/
def State.fenceEnd (s : State) (f : Fibre) (after : BitVec 4) : State :=
  let t := if after.getLsbD 1 || after.getLsbD 2 then s.dropTensors else s
  if after.getLsbD 0 then t.snapshot f.core else t

/-- What FENCE does in a fibre (R294); in a helper, nothing (R293). The sets are LMXC from bit 3 down. It waits for the commands that its workgroup issued before it began. -/
def seqFence (before after : BitVec 4) : State → Issue → Fibre → Seq := fun s _ f =>
  if s.quiet f then .done s
  else
    let begun := match f.wait.map Wait.why with
      | some (.fence o i _) => some (o, i)
      | _ => none
    let s1 := if begun.isSome then s else s.fenceBegin f before after
    let mark := begun.getD (s1.order, s1.ids)
    if (before.getLsbD 1 && s1.copyBusy f.wg mark.1) || (before.getLsbD 2 && s1.matrixBusy f.wg mark.1) || (before.getLsbD 3 && s1.linkBusy f.wg mark.1 mark.2) then
      .wait s1 (.fence mark.1 mark.2 after)
    else .done (s1.fenceEnd f after)

/-- FENCE (R294). -/
def execFence (b a : BitVec 4) (s : State) : Out := .next (s.issueSeq (seqFence b a))

/-- PHASE (R295): FENCE LMXC, LMXC. -/
def execPhase (s : State) : Out := .next (s.issueSeq (seqFence 15 15))

/-! WAIT. -/

/-- Outstanding loads and stores of a fibre (R300). -/
def State.loadsOut (s : State) (f : FibreKey) : Nat :=
  (s.mem.loads.filter fun l => decide (l.fib = f)).length + (s.mem.atomics.filter fun p => decide (p.fib = f) && decide (p.op ≠ .st)).length +
    (s.mem.posts.filter fun p => decide (p.fib = f) && decide (p.op ≠ .st)).length

def State.storesOut (s : State) (f : FibreKey) : Nat :=
  (s.mem.stores.filter fun p => decide (p.fib = f)).length + (s.mem.atomics.filter fun p => decide (p.fib = f) && decide (p.op = .st)).length +
    (s.mem.posts.filter fun p => decide (p.fib = f) && decide (p.op = .st)).length + (s.mem.peers.filter fun r => decide (r.fib = f) && !r.waits).length

/-- The condition of WAIT (R299). -/
def State.waitOver (s : State) (f : FibreKey) (l st t : BitVec 4) (m : BitVec 8) : Bool :=
  (decide (l = 15#4) || decide (s.loadsOut f ≤ l.toNat)) && (decide (st = 15#4) || decide (s.storesOut f ≤ st.toNat)) &&
    (decide (t = 15#4) || decide (s.tileOps f ≤ t.toNat)) && (List.range 8).all fun j => !(m.getLsbD j) || decide ((s.wg f.wg).tokens.getD j 0 = 0)

/-- What WAIT does in a fibre (R360): its qualifying writes land first, and a deferred fault that is due comes next, (R326, R364, R443). -/
def seqWait (l st t : BitVec 4) (m : BitVec 8) : State → Issue → Fibre → Seq := fun s _ f =>
  if s.quiet f then .done s
  else if m ≠ 0 ∧ (s.mem.posts.any fun p => decide (p.fib = f.key)) = true then .wait s (.counts (decide (t ≠ 15#4)) m)
  else match s.dueFault f (decide (t ≠ 15#4)) m with
    | some e => .trap (s.faultTaken f) e
    | none => if s.waitOver f.key l st t m then .done s else .wait s (.counts (decide (t ≠ 15#4)) m)

/-- WAIT (R299). -/
def execWait (l s t : BitVec 4) (m : BitVec 8) (u : State) : Out := .next (u.issueSeq (seqWait l s t m))

/-! TAG. -/

/-- The granules that a TAG word names, with the address of each one's first byte (R301). -/
def State.tagGranules (s : State) (f : Fibre) (va n : Nat) : Except Trap (List (Nat × Nat × Nat)) :=
  match s.target f.wg va with
  | .glob => .error operandTrap
  | .bad => .error (apertureTrap va)
  | .pad wg off =>
    match s.target f.wg (va + 1024 * (n - 1)) with
    | .glob => .error (apertureTrap (va + 1024 * (n - 1)))
    | .bad => .error (apertureTrap (va + 1024 * (n - 1)))
    | .pad _ _ => .ok ((List.range n).map fun i => (wg, off / 1024 + i, va - off % 1024 + 1024 * i))

/-- Sets a granule's tag, the owner of a PREDICTED one being squashed first (R302, R405). -/
def State.tagSet (s : State) (wg g : Nat) (t : Tag) : State :=
  let r := (s.wg wg).tagRec g
  let s1 := if r.tag = .predicted then s.squash r.owner else s
  s1.setTag wg g t

/-- What TAG SETF, SETE and POISON do in a fibre (R302). -/
def seqTagSet (t : Tag) (a n : BitVec 7) : State → Issue → Fibre → Seq := fun s _ f =>
  if !(f.mayPair a.toNat) then .trap s operandTrap
  else match s.tagGranules f (vaOf (f.pair a.toNat) 0).toNat (n.toNat + 1) with
    | .error e => .trap s e
    | .ok gs => if s.quiet f then .done s else .done (gs.foldl (fun (u : State) x => u.tagSet x.1 x.2.1 t) s)

/-- TAG SETF (R302). -/
def execTagSetf (a n : BitVec 7) (s : State) : Out := .next (s.issueSeq (seqTagSet .full a n))

/-- TAG SETE (R302). -/
def execTagSete (a n : BitVec 7) (s : State) : Out := .next (s.issueSeq (seqTagSet .empty a n))

/-- TAG POISON (R302). -/
def execTagPoison (a n : BitVec 7) (s : State) : Out := .next (s.issueSeq (seqTagSet .poisoned a n))

/-- What TAG CONS does in a fibre (R302, R405). -/
def seqTagCons (a n : BitVec 7) : State → Issue → Fibre → Seq := fun s c f =>
  if !(f.mayPair a.toNat) then .trap s operandTrap
  else match s.tagGranules f (vaOf (f.pair a.toNat) 0).toNat (n.toNat + 1) with
    | .error e => .trap s e
    | .ok gs =>
      if s.quiet f then .done s
      else match gs.find? fun x => decide ((s.wg x.1).tag x.2.1 = .poisoned) with
        | some x => .trap s (poisonTrap x.2.2)
        | none =>
          if gs.all fun x => s.tagMeets x.1 x.2.1 (s.fibreVid f) .full then .done (gs.foldl (fun (u : State) x => u.consume x.1 x.2.1) s)
          else .wait s (.cons gs (nextOf c f).1 (nextOf c f).2)

/-- TAG CONS (R302). -/
def execTagCons (a n : BitVec 7) (s : State) : Out := .next (s.issueSeq (seqTagCons a n))

/-- The tag codes of R248. -/
def Tag.code (t : Tag) : Word :=
  match t with
  | .empty => 0
  | .full => 1
  | .predicted => 2
  | .poisoned => 3

/-- What TAG GET does in a fibre (R302). -/
def seqTagGet (d a : BitVec 7) : State → Issue → Fibre → Seq := fun s _ f =>
  if !(f.may d.toNat && f.mayPair a.toNat) then .trap s operandTrap
  else match s.tagGranules f (vaOf (f.pair a.toNat) 0).toNat 1 with
    | .error e => .trap s e
    | .ok gs => .done (s.modFibre f.key fun x => gs.foldl (fun (y : Fibre) g => y.setV d.toNat ((s.wg g.1).tag g.2.1).code) x)

/-- TAG GET (R302). -/
def execTagGet (d a : BitVec 7) (s : State) : Out := .next (s.issueSeq (seqTagGet d a))

/-! GBAR. -/

/-- Where a barrier word lies, with the version that accesses it and the leaf of its page. -/
structure GbarWord where
  place : Place
  vid : VID := 0
  leaf : Nat := 0

/-- Finds a barrier word (R303, R304). -/
def State.gbarPlace (s : State) (f : Fibre) (va : VA) : State × Except Trap GbarWord :=
  let need := atomicNeed .add
  match s.target f.wg va.toNat with
  | .bad => (s, .error (apertureTrap va.toNat need))
  | .pad wg off => (s, .ok { place := .pad wg off })
  | .glob =>
    match s.translate (s.who f) va need with
    | (s1, .fault t) => (s1, .error t)
    | (s1, .ok pa vid leafPa _) =>
      if s1.buffered vid pa then (s1, .error operandTrap)
      else match regionOf pa with
        | .peer _ => (s1, .error (memTrap .pageProtection va need 0))
        | .control => (s1, .error (memTrap .pageProtection va need 0))
        | _ => (s1, .ok { place := .pa pa, vid := vid, leaf := leafPa })

/-- The barrier word, the core's unpublished bytes of it having been published (R287, R304). -/
def State.gbarRead (s : State) (core : Nat) (p : GbarWord) : State × Nat :=
  match p.place with
  | .pad wg off => (s, leNat (s.padRead wg off 4))
  | .pa pa =>
    let r := ((s.publishBytes core p.vid pa 4).drainPubs).l2Read p.vid pa 4
    (r.1, leNat r.2)
  | .gone => (s, 0)

/-- An arrival's write (R304), which clobbers nothing (R305). -/
def State.gbarWrite (s : State) (p : GbarWord) (taken : Bool) (x : Nat) : State :=
  match p.place with
  | .pad wg off => s.padWrite wg off (leBytes 4 x) true
  | .pa pa => s.commitOwn taken p.vid pa (leBytes 4 x) true
  | .gone => s

/-- A completed generation ends the wait of every waiter on the word (R304). -/
def State.gbarRelease (s : State) (p : GbarWord) : State :=
  { s with fibres := s.fibres.map fun f => match f.gbar with
    | some w => if w.place = p.place ∧ s.sameVersion w.vid p.vid ∧ !w.done ∧ !w.away then { f with gbar := some { w with done := true } } else f
    | none => f }

/-- The end of a GBAR in a fibre: d, and the acquire side, with its snapshot boundary (R282, R304). -/
def State.gbarEnd (s : State) (f : Fibre) (d : BitVec 7) (obs : BitVec 5) (x : Word) : State :=
  ((s.modFibre f.key fun g => { g.setV d.toNat x with gbar := none }).acquireSide f.core obs).snapshot f.core

/-- The boundary that every GBAR makes (R281), unless its observers have made it (R291). -/
def State.gbarBoundary (s : State) (f : Fibre) (obs : BitVec 5) : State := if boundaryObs obs then s else s.publishCore f.core

/-- An arrival (R304). -/
def State.gbarArrive (s : State) (f : Fibre) (d : BitVec 7) (va : VA) (n : Nat) (obs : BitVec 5) : Seq :=
  match s.gbarPlace f va with
  | (s1, .error t) => .trap s1 t
  | (s1, .ok p) =>
    match s1.releaseSide f obs with
    | (s2, some w) => .wait s2 w
    | (s2, none) =>
      let r := (s2.gbarBoundary f obs).gbarRead f.core p
      let g := r.2 / 65536
      let c := r.2 % 65536
      if n ≤ c + 1 then
        .done (((r.1.gbarWrite p (boundaryObs obs) ((g + 1) % 65536 * 65536)).gbarRelease p).gbarEnd f d obs (BitVec.ofNat 32 (2 ^ 30 + c)))
      else
        let w : GbarWait := { va := va, place := p.place, vid := p.vid, leaf := p.leaf, gen := BitVec.ofNat 16 g, old := BitVec.ofNat 16 c }
        .wait ((r.1.gbarWrite p (boundaryObs obs) (r.2 + 1)).modFibre f.key fun x => { x with gbar := some w }) .gbar

/-- A fibre that has arrived and comes to its GBAR again: its wait has ended, or it is still on the waiter list, or it has left it, and finds and reads the word again (R304 to R306, R444). -/
def State.gbarAgain (s : State) (f : Fibre) (d : BitVec 7) (obs : BitVec 5) (w : GbarWait) : Seq :=
  if w.done then .done (s.gbarEnd f d obs ((if w.clob then 0x80000000#32 else 0) ||| w.old.setWidth 32))
  else if w.away then
    match s.gbarPlace f w.va with
    | (s1, .error t) => .trap s1 t
    | (s1, .ok p) =>
      let r := match p.place with
        | .pad wg off => s1.padRead wg off 4
        | .pa pa => s1.newestBytes p.vid pa 4
        | .gone => []
      if leNat r / 65536 ≠ w.gen.toNat then .done (s1.gbarEnd f d obs (w.old.setWidth 32))
      else .wait (s1.modFibre f.key fun x => { x with gbar := some { w with away := false, place := p.place, vid := p.vid, leaf := p.leaf } }) .gbar
  else .wait s .gbar

/-- What GBAR does in a fibre (R303 to R306); a quiet fibre's writes 0 to d (R205). -/
def seqGbar (sc : BitVec 3) (d : BitVec 7) (a : BitVec 6) (b : BitVec 7) : State → Issue → Fibre → Seq := fun s _ f =>
  let va := vaOf (f.pair (2 * a.toNat)) 0
  let n := (f.v b.toNat).toNat % 65536
  let obs := syncObs ((s.launch f.wg).syncClass sc)
  if !(f.may d.toNat && f.may b.toNat && f.mayPair (2 * a.toNat)) then .trap s operandTrap
  else if s.quiet f then .done (s.modFibre f.key fun x => x.setV d.toNat 0)
  else match f.gbar.filter fun w => decide (w.va = va) with
    | some w => s.gbarAgain f d obs w
    | none =>
      if n = 0 then .trap s operandTrap
      else if va.toNat % 4 ≠ 0 then .trap s ((misalignedTrap va.toNat).of (atomicNeed .add))
      else s.gbarArrive f d va n obs

/-- GBAR (R304). -/
def execGbar (k : BitVec 3) (d : BitVec 7) (a : BitVec 6) (b : BitVec 7) (s : State) : Out := .next (s.issueSeq (seqGbar k d a b))

end Sys2Proof.Machine
end

