-- ==== Sys2Proof/Machine/Parallel.lean ====
section
/-! DEFINITION. Instructions for fibres, quads, groups and clasps (09 R223 to R241; 15 R380): FSPAWN, VOTE, SHFL, QSWAP, GRED, CLASP, WDQ, TOPK and LAUNCH. -/

namespace Sys2Proof.Machine

/-- The participants of a fibre: the live fibres of the entry that belong to its group (R223). -/
def State.participants (s : State) (c : Issue) (f : Fibre) : List Fibre := (s.liveMembers c).filter fun g => decide (g.wg = f.wg) && decide (g.grp = f.grp)

/-! FSPAWN. -/

/-- The vacant lanes of a group, in increasing order (R227). -/
def State.vacant (s : State) (wg grp : Nat) : List Nat :=
  (List.range (s.launch wg).width).filter fun l => s.fibres.any fun f => decide (f.wg = wg) && decide (f.grp = grp) && decide (f.lane = l) && !f.live

/-- What the earlier fibre of a lane has still on its way is no longer the lane's, so that a new fibre's registers, flags and counts are its own (R227): its accesses come to their end, no load writes a register of the lane any more, and its unacknowledged stores and outstanding tile operations are counted for no fibre. -/
def State.untie (s : State) (k : FibreKey) : State :=
  let s1 := s.drainFibre k
  let others := fun (xs : List FibreKey) => xs.filter fun x => decide (x ≠ k)
  let m := s1.mem
  { s1 with
    cores := s1.cores.map fun c => { c with mcmds := (c.mcmds.filter fun x => !(x.isLd && x.signers.contains k)).map fun x => { x with signers := others x.signers } }
    wgs := s1.wgs.map fun w => if w.id = k.wg then { w with clasps := w.clasps.map fun c => { c with signers := others c.signers } } else w
    groups := s1.groups.map fun g => if g.is k.wg k.grp then { g with flying := g.flying.map fun x => { x with regs := x.regs.filter fun r => decide (r.1 ≠ k.lane) } } else g
    mem := { m with
      loads := m.loads.filter fun l => decide (l.fib ≠ k) || !l.dst.isLanes
      atomics := m.atomics.map fun p => if p.fib = k then { p with dst := [] } else p
      wdq := m.wdq.map fun r => { r with fibs := others r.fibs }
      topk := m.topk.map fun r => { r with fibs := others r.fibs }
      peers := (m.peers.filter fun r => decide (r.fib ≠ k) || !r.waits || !r.dst.isLanes).map fun r => if r.fib = k ∧ r.waits = false then { r with fib := { k with lane := 64 + k.lane } } else r } }

/-- A lane's record as the lane's new fibre starts with it (R227); it takes a seat afterwards. -/
def State.child (s : State) (x : Fibre) (pc : VA) (b : Word) (lane : Nat) : Fibre :=
  let w := s.wg x.wg
  let n := x.spawns + 1
  let blank : Fibre :=
    { wg := x.wg, grp := x.grp, lane := x.lane, pc := pc, alloc := x.alloc, regs := List.replicate x.alloc.toNat 0, spawns := n
      rstk := BitVec.ofNat 48 (s.rstkBase w x.grp x.lane)
      gen := { key := n * 0x9E3779B97F4A7C15, stream := BitVec.ofNat 64 (w.k2.toNat * 2 ^ 12 + x.grp * 2 ^ 6 + x.lane), n := 0 }
      core := x.core, part := x.part, home := x.home, colSlot := x.colSlot, seat := .pool s.order s.clock, notBefore := s.clock + 4 }
  ((blank.setV 0 (BitVec.ofNat 32 (s.stackTop w x.grp x.lane))).setV 1 b).setV 2 (BitVec.ofNat 32 lane)

/-- Gives the vacant lanes of a group to its requesters, both in increasing order (R227): the lanes started, with the state. -/
def State.spawnAll : State → BitVec 7 → BitVec 7 → BitVec 7 → List Fibre → List Nat → State × List FibreKey
  | s, _, _, _, [], _ => (s, [])
  | s, d, a, b, r :: rs, [] =>
    State.spawnAll (s.modFibre r.key fun x => x.setV d.toNat 0xFFFFFFFF) d a b rs []
  | s, d, a, b, r :: rs, l :: ls =>
    let k : FibreKey := ⟨r.wg, r.grp, l⟩
    let s0 := s.untie k
    let s1 := s0.modFibre k fun x => s0.child x ((r.pair a.toNat).setWidth 48) (r.v b.toNat) r.lane
    let y := State.spawnAll (s1.modFibre r.key fun x => x.setV d.toNat (BitVec.ofNat 32 l)) d a b rs ls
    (y.1, k :: y.2)

/-- Inserts a fibre by lane. -/
def byLane (f : Fibre) : List Fibre → List Fibre
  | [] => [f]
  | g :: r => if f.lane < g.lane then f :: g :: r else g :: byLane f r

/-- The fault of a FSPAWN in a fibre, if it has one (R226, R411). -/
def State.spawnTrap (s : State) (d a b : BitVec 7) (f : Fibre) : Option Trap :=
  if f.pl ≠ .u then some illegalTrap
  else if !(f.may d.toNat && f.mayPair a.toNat && f.may b.toNat) ∨ s.fibreVid f ≠ (s.launch f.wg).version then some operandTrap
  else if (f.pair a.toNat).getLsbD 0 then some (misalignedTrap ((f.pair a.toNat).toNat % 2 ^ 48))
  else none

/-- Gives new fibres their seats, one class of pc at a time, in increasing order of lowest column (R200, R227). -/
def State.seatNew : Nat → State → Issue → List FibreKey → State
  | 0, s, _, _ => s
  | n + 1, s, c, keys =>
    match (s.fibres.filter fun f => keys.contains f.key).foldr byHome [] with
    | [] => s
    | f :: r =>
      let mine := ((f :: r).filter fun g => decide (g.pc = f.pc) && s.alike f g).map Fibre.key
      State.seatNew n (s.seatClass c.core c.part fun g => mine.contains g.key) c (keys.filter fun k => !(mine.contains k))

/-- FSPAWN (R227). -/
def execFspawn (_h _g : Bool) (d a b : BitVec 7) (s : State) : Out :=
  match s.cur with
  | none => .next s
  | some c =>
    let acts := (s.liveMembers c).filter fun f => !f.muted
    let ts := acts.filterMap fun f => (s.spawnTrap d a b f).map fun t => (f.key, t)
    let asks := acts.filter fun f => (s.spawnTrap d a b f).isNone
    let groups := (asks.map fun f => (f.wg, f.grp)).eraseDups
    let one := fun (x : State × List FibreKey) (g : Nat × Nat) =>
      let mine := (asks.filter fun f => decide (f.wg = g.1) && decide (f.grp = g.2)).foldr byLane []
      let y := x.1.spawnAll d a b mine (x.1.vacant g.1 g.2)
      (y.1, x.2 ++ y.2)
    let r := groups.foldl one (s, [])
    let names := ts.map (·.1)
    let s1 : State := { r.1 with fibres := r.1.fibres.map fun f => if f.inEntry c && !(names.contains f.key) then f.advance c else f }
    let s2 := State.seatNew 64 s1 c r.2
    .next (if ts = [] then s2.mirror else s2.afterTraps c ts)

/-! VOTE. -/

/-- What VOTE with a predicate result does in a fibre (R228). -/
def laneVote (ps pd : BitVec 4) (op : List Bool → Bool) : State → Issue → Fibre → Except Trap Lane := fun s c f =>
  .ok { f := f.setP pd.toNat (op ((s.participants c f).map fun g => g.p ps.toNat)) }

/-- VOTE.ALL (R228). -/
def execVoteAll (s p : BitVec 4) (t : State) : Out := .next (t.issueLane (laneVote s p fun xs => xs.all fun x => x))

/-- VOTE.ANY (R228). -/
def execVoteAny (s p : BitVec 4) (t : State) : Out := .next (t.issueLane (laneVote s p fun xs => xs.any fun x => x))

/-- VOTE.EQ (R228). -/
def execVoteEq (s p : BitVec 4) (t : State) : Out := .next (t.issueLane (laneVote s p fun xs => (xs.all fun x => x) || !(xs.any fun x => x)))

/-- The lane mask of the participants whose predicate is 1 (R228). -/
def State.ballot (s : State) (c : Issue) (f : Fibre) (p : BitVec 4) : DWord :=
  (s.participants c f).foldl (fun (m : DWord) g => if g.p p.toNat then m ||| (1#64 <<< g.lane) else m) 0

/-- What VOTE.BALLOT does in a fibre (R228). -/
def laneBallot (d : BitVec 7) (p : BitVec 4) : State → Issue → Fibre → Except Trap Lane := fun s c f =>
  if f.mayPair d.toNat then .ok { f := f.setPair d.toNat (s.ballot c f p) } else .error operandTrap

/-- VOTE.BALLOT (R228). -/
def execVoteBallot (d : BitVec 7) (s : BitVec 4) (t : State) : Out := .next (t.issueLane (laneBallot d s))

/-! SHFL and QSWAP. -/

/-- The fibre, participant or helper, of a group's lane in the entry (R229). -/
def State.inShare (s : State) (c : Issue) (f : Fibre) (lane : Nat) : Option Fibre :=
  (s.members c).find? fun g => decide (g.wg = f.wg) && decide (g.grp = f.grp) && decide (g.lane = lane)

/-- What SHFL does in a fibre (R229): every source is read before any d is written. -/
def laneShfl (m : Bool) (d a b : BitVec 7) : State → Issue → Fibre → Except Trap Lane := fun s c f =>
  if f.may d.toNat && f.may a.toNat && f.may b.toNat then
    let n := (f.v b.toNat).toNat % 64
    let src := if m then f.lane ^^^ n else n
    .ok { f := f.setV d.toNat (((s.inShare c f src).getD f).v a.toNat) }
  else .error operandTrap

/-- SHFL and SHFL.X (R229). -/
def execShfl (_g m : Bool) (d a b : BitVec 7) (s : State) : Out := .next (s.issueLane (laneShfl m d a b))

/-- The source lane of QSWAP (R230). -/
def quadSource (e : BitVec 2) (sel : BitVec 2) (lane : Nat) : Nat :=
  match e.toNat with
  | 0 => lane ^^^ 1
  | 1 => lane ^^^ 2
  | 2 => lane ^^^ 3
  | _ => 4 * (lane / 4) + sel.toNat

/-- What QSWAP does in a fibre (R230). -/
def laneQswap (e : BitVec 2) (w : Bool) (d a : BitVec 7) (sel : BitVec 2) : State → Issue → Fibre → Except Trap Lane := fun s c f =>
  let src := (s.inShare c f (quadSource e sel f.lane)).getD f
  if w then
    if f.mayPair d.toNat && f.mayPair a.toNat then .ok { f := f.setPair d.toNat (src.pair a.toNat) } else .error operandTrap
  else if f.may d.toNat && f.may a.toNat then .ok { f := f.setV d.toNat (src.v a.toNat) } else .error operandTrap

/-- QSWAP (R230). -/
def execQswap (e : BitVec 2) (w : Bool) (d a : BitVec 7) (s : BitVec 2) (t : State) : Out := .next (t.issueLane (laneQswap e w d a s))

/-! GRED. -/

/-- x ⊕ y of an operation (R231), with the flags that it raises (R233). -/
def gredOp (o : BitVec 4) (x y : DWord) : DWord × FFlags :=
  let a := x.setWidth 32
  let b := y.setWidth 32
  let w := fun (r : Word) => (r.setWidth 64, (0 : FFlags))
  let n := fun (r : Nat × FFlags) => (BitVec.ofNat 64 r.1, r.2)
  match o.toNat with
  | 0 => w (a + b)
  | 1 => w (minResult false a b)
  | 2 => w (maxResult false a b)
  | 3 => w (minResult true a b)
  | 4 => w (maxResult true a b)
  | 5 => w (a &&& b)
  | 6 => w (a ||| b)
  | 7 => w (a ^^^ b)
  | 8 => n (fp32.finish (exactAdd (fp32.value a.toNat) (fp32.value b.toNat)))
  | 9 => n (fp32.minMax false a.toNat b.toNat)
  | 10 => n (fp32.minMax true a.toNat b.toNat)
  | _ => n (fp64.finish (exactAdd (fp64.value x.toNat) (fp64.value y.toNat)))

/-- One level of the tree (R232). -/
def gredLevel (o : BitVec 4) : List (Option DWord) → List (Option DWord) × FFlags
  | [] => ([], 0)
  | [x] => ([x], 0)
  | x :: y :: r =>
    let rest := gredLevel o r
    match x, y with
    | some a, some b => (some (gredOp o a b).1 :: rest.1, (gredOp o a b).2 ||| rest.2)
    | some a, none => (some a :: rest.1, rest.2)
    | none, z => (z :: rest.1, rest.2)

/-- The root of the tree over a group's lane positions, with the flags of every ⊕ (R232, R233). -/
def gredTree (o : BitVec 4) : Nat → List (Option DWord) → Option DWord × FFlags
  | 0, xs => (xs.head?.getD none, 0)
  | n + 1, xs =>
    let l := gredLevel o xs
    let r := gredTree o n l.1
    (r.1, l.2 ||| r.2)

/-- The positions of a group as GRED sees them: those of participants, up to a lane (R232). -/
def State.positions (s : State) (c : Issue) (f : Fibre) (wide : Bool) (a : Nat) (upTo : Nat) : List (Option DWord) :=
  (List.range (s.launch f.wg).width).map fun l =>
    if l ≤ upTo then ((s.participants c f).find? fun g => decide (g.lane = l)).map fun g => g.atomVal a wide else none

/-- The clocks until a GRED's result may be read, and its flags are raised (R242, R147). -/
def gredClocks (o : BitVec 4) : Nat := if o.toNat ≤ 7 then 10 else if o.toNat ≤ 10 then 14 else 20

/-- What GRED does in a fibre (R232). -/
def laneGred (scan : Bool) (d a : BitVec 7) (o : BitVec 4) : State → Issue → Fibre → Except Trap Lane := fun s c f =>
  let wide := decide (o = 11#4)
  if f.mayAtom d.toNat wide && f.mayAtom a.toNat wide then
    let r := gredTree o (3 + (s.launch f.wg).widthCode) (s.positions c f wide a.toNat (if scan then f.lane else 63))
    let x := r.1.getD (Config.absentScan s.fresh f.lane)
    .ok { f := if wide then f.setPair d.toNat x else f.setV d.toNat (x.setWidth 32), flags := r.2, lat := gredClocks o, dst := [f.phys d.toNat, f.phys (d.toNat + 1)] }
  else .error operandTrap

/-- GRED (R232). -/
def execGred (s : Bool) (d a : BitVec 7) (o : BitVec 4) (t : State) : Out := .next (t.issueLane (laneGred s d a o))

/-! CLASP. -/

/-- The sign event that an entry makes on a clasp in each of its workgroups (R212, R235): which workgroups could not be signed, because a release would have to wait for a place (R331). `word` gives what an MMA or MMC adds for a workgroup. -/
def State.signEntry (s : State) (c : Issue) (i : BitVec 4) (word : Nat → Option MSign) : State × List Nat :=
  let fs := (s.liveMembers c).filter fun f => !f.muted && decide (f.wait.map Wait.why ≠ some .clasp)
  let one := fun (x : State × List Nat) (wg : Nat) =>
    match x.1.claspSign wg i ((fs.filter fun f => decide (f.wg = wg)).map Fibre.key) (word wg) with
    | some t => (t, x.2)
    | none => (x.1, wg :: x.2)
  ((fs.map (·.wg)).eraseDups).foldl one (s, [])

/-- What DECL does in a group (R212, R234). -/
def groupDecl (n : BitVec 14) (i : BitVec 4) : State → Issue → Nat × Nat → List Fibre → Seq := fun s _ g _ =>
  let s1 := s.modClasp g.1 i fun c => if n = 0 then { c with live := true } else { c with live := false, n := n.toNat }
  match s1.claspCheck g.1 i with
  | some t => .done t
  | none => .wait s .place

/-- CLASP DECL (R234). -/
def execClaspDecl (n : BitVec 14) (c : BitVec 4) (s : State) : Out := .next (s.issueGroups (groupDecl n c))

/-- What SIGN leaves to do in a fibre: nothing, or a wait for a place of the command that its release would issue. -/
def seqSigned (blocked : List Nat) : State → Issue → Fibre → Seq := fun s _ f =>
  if !(s.quiet f) && blocked.contains f.wg then .wait s .place else .done s

/-- A word that signs a clasp and goes on (R212, R214). -/
def State.signing (s : State) (i : BitVec 4) (word : Issue → Nat → Option MSign) : State :=
  match s.cur with
  | none => s
  | some c =>
    let r := s.signEntry c i (word c)
    r.1.issueSeq (seqSigned r.2)

/-- CLASP SIGN (R234). -/
def execClaspSign (c : BitVec 4) (s : State) : Out := .next (s.signing c fun _ _ => none)

/-- What WAIT does in a fibre (R212); `blocked` names workgroups whose sign could not be made. -/
def seqClaspWait (i : BitVec 4) (blocked : List Nat) : State → Issue → Fibre → Seq := fun s _ f =>
  if s.quiet f then .done s
  else if blocked.contains f.wg && decide (f.wait.map Wait.why ≠ some .clasp) then .wait s .place
  else if f.signed.getLsbD i.toNat then .wait s .clasp
  else .done s

/-- CLASP WAIT (R212, R234). -/
def execClaspWait (c : BitVec 4) (s : State) : Out := .next (s.issueSeq (seqClaspWait c []))

/-- CLASP ARRIVE (R212, R234): a fibre that waits in it has signed. -/
def execClaspArrive (i : BitVec 4) (s : State) : Out :=
  match s.cur with
  | none => .next s
  | some c =>
    let r := s.signEntry c i fun _ => none
    .next (r.1.issueSeq (seqClaspWait i r.2))

/-- The state of a clasp in the layout of R211. -/
def Clasp.word (c : Clasp) : Word := BitVec.ofNat 32 (c.gen.toNat * 2 ^ 23 + c.live.toNat * 2 ^ 22 + c.n * 2 ^ 11 + c.s)

/-- What CLASP READ does in a fibre (R234). -/
def laneClaspRead (d : BitVec 7) (i : BitVec 4) : State → Issue → Fibre → Except Trap Lane := fun s _ f =>
  if f.may d.toNat then .ok { f := f.setV d.toNat (BitVec.ofNat 32 ((f.signed.getLsbD i.toNat).toNat * 2 ^ 24) + (s.clasp f.wg i).word) } else .error operandTrap

/-- CLASP READ (R234). -/
def execClaspRead (d : BitVec 7) (c : BitVec 4) (s : State) : Out := .next (s.issueLane (laneClaspRead d c))

/-! WDQ. -/

/-- Whether a group carries a version other than its grid's, and so may not use the words of R411. -/
def State.offGrid (s : State) (g : Nat × Nat) : Bool := decide (s.carries g.1 g.2 ≠ (s.launch g.1).version)

/-- k register n of a group. -/
def State.kReg (s : State) (g : Nat × Nat) (n : Nat) : DWord := (s.group g.1 g.2).kregs.getD n 0

/-- What WDQ does in a group: one request to the grid's distributor (R236). -/
def groupWdq (k : BitVec 5) (o : BitVec 11) : State → Issue → Nat × Nat → List Fibre → Seq := fun s _ g fs =>
  let ea := (s.kReg g k.toNat).toNat % 2 ^ 48 + 4 * o.toNat
  if s.offGrid g ∨ ea < ownAperture ∨ ownAperture + (s.launch g.1).padBytes ≤ ea then .trap s operandTrap
  else if ea % 4 ≠ 0 then .trap s (misalignedTrap ea)
  else
    let r : WdReq := { n := s.ids, wg := g.1, grid := (s.wg g.1).grid, off := ea - ownAperture, fibs := fs.map Fibre.key, asked := s.clock }
    .done { s with ids := s.ids + 1, mem := { s.mem with wdq := s.mem.wdq ++ [r] } }

/-- WDQ (R236). -/
def execWdq (k : BitVec 5) (o : BitVec 11) (s : State) : Out := .next (s.issueGroups (groupWdq k o))

/-! TOPK. -/

/-- Whether n bytes from an address lie within a workgroup's own granules. -/
def padHolds (l : Launch) (va n : Nat) : Bool := decide (ownAperture ≤ va) && decide (va + n ≤ ownAperture + l.padBytes)

/-- What TOPK does in a group (R237): it starts, and completes later (R239). -/
def groupTopk (t : BitVec 2) (sf : Bool) (k : BitVec 5) : State → Issue → Nat × Nat → List Fibre → Seq := fun s _ g fs =>
  let src := (s.kReg g k.toNat).toNat
  let dst := (s.kReg g (k.toNat + 1)).toNat
  let cnt := (s.kReg g (k.toNat + 2)).toNat
  let kc := bits cnt 47 32
  let nc := bits cnt 31 0
  let l := s.launch g.1
  if 2 ^ 48 ≤ src ∨ 2 ^ 48 ≤ dst ∨ 2 ^ 48 ≤ cnt ∨ kc < 1 ∨ 1024 < kc ∨ nc < 1 ∨ 65536 < nc ∨ !(padHolds l src (4 * nc)) ∨ !(padHolds l dst (8 * kc)) then .trap s operandTrap
  else if src % 4 ≠ 0 then .trap s (misalignedTrap src)
  else if dst % 8 ≠ 0 then .trap s (misalignedTrap dst)
  else
    let r : TopkOp := { n := s.ids, wg := g.1, src := src - ownAperture, dst := dst - ownAperture, k := kc, cnt := nc, ty := t, sf := sf, vid := s.carries g.1 g.2, fibs := fs.map Fibre.key }
    .done { s with ids := s.ids + 1, mem := { s.mem with topk := s.mem.topk ++ [r] } }

/-- TOPK (R237). -/
def execTopk (t : BitVec 2) (s : Bool) (k : BitVec 5) (u : State) : Out := .next (u.issueGroups (groupTopk t s k))

/-! LAUNCH. -/

/-- Images in a queue's device FIFO, and whether it has room (R490). -/
def Queue.fifoCount (q : Queue) : Nat := (q.arrivals.filter fun a => match a with | .fifo _ _ => true | .ring _ => false).length

def State.fifoRoom (s : State) (q : BitVec 8) : Bool := decide ((s.queue q).fifoCount < s.fifoSize q)

/-- The slot that the next image takes: the first in cyclic order that holds none (R490, log 20). -/
def State.fifoNext (s : State) (q : BitVec 8) : Nat :=
  let n := s.fifoSize q
  let used := (s.queue q).arrivals.filterMap fun a => match a with | .fifo i _ => some i | .ring _ => none
  ((List.range n).map fun i => ((s.queue q).fifoAt + i) % n).find? (fun i => !(used.contains i)) |>.getD 0

/-- An image enters its queue's device FIFO, in memory at FIFO (R241, R487, R490). -/
def State.fifoAppend (s : State) (a : Append) : State :=
  let i := s.fifoNext a.queue
  let s0 := s.physWrite (s.fifoSlot a.queue i) a.image
  let s1 := s0.modQueue a.queue fun q => { q with arrivals := q.arrivals ++ [.fifo i a.k1], fifoAt := (i + 1) % s.fifoSize a.queue }
  { s1 with mem := { s1.mem with appends := s1.mem.appends.filter fun b => decide (b.n ≠ a.n) } }

/-- The image of a speculative launch (R380). -/
def specImage (image : List Byte) (x : DWord) : List Byte :=
  let shape := field image 30 2
  splice (splice (splice image 40 (leBytes 2 (bits x.toNat 9 0))) 42 (leBytes 2 (bits x.toNat 25 16))) 30
    (leBytes 2 (if shape / 2 ^ 10 % 2 = 1 then shape else shape + 2 ^ 10))

/-- What LAUNCH and LAUNCH.SPEC do in a group (R240, R241, R380): the image is read at issue, and the fibres wait until it has entered the queue. -/
def groupLaunch (spec : Bool) (q : BitVec 8) (k : BitVec 5) : State → Issue → Nat × Nat → List Fibre → Seq := fun s c g fs =>
  let held := fun (f : Fibre) => decide (f.wait.map Wait.why = some .queueFull)
  let pending := s.mem.appends.any fun a => decide (a.queue = q) && fs.any fun f => held f && a.fibs.contains f.key
  match lowestLane (fs.filter fun f => !(held f)) with
  | none => if pending then .wait s .queueFull else .done s
  | some f =>
    let x := s.kReg g (k.toNat + 1)
    let rec_ : VA := (s.kReg g k.toNat).setWidth 48
    if s.offGrid g ∨ (!spec ∧ !(s.isRoot (s.carries g.1 g.2))) ∨ !(s.qEnabled q) ∨ s.queueWorld q ≠ s.coreWorld c.core ∨
        (spec ∧ (bits x.toNat 63 26 ≠ 0 ∨ bits x.toNat 15 10 ≠ 0)) then .trap s operandTrap
    else if rec_.toNat % 64 ≠ 0 then .trap s (misalignedTrap rec_.toNat)
    else
      let s1 := (fs.foldl (fun (t : State) y => t.drainFibre y.key) s).publishCore c.core
      match s1.readRecord f rec_ 256 with
      | (s2, .trap t) => .trap s2 t
      | (s2, .wait w) => .wait s2 w
      | (s2, .bytes bs) =>
        let a : Append := { n := s2.ids, wg := g.1, grp := g.2, fibs := (fs.filter fun y => !(held y)).map Fibre.key, queue := q, image := if spec then specImage bs x else bs, k1 := rec_.setWidth 64 }
        let s3 : State := { s2 with ids := s2.ids + 1, mem := { s2.mem with appends := s2.mem.appends ++ [a] } }
        if !s3.late ∧ s3.fifoRoom q ∧ !(s2.mem.appends.any fun b => decide (b.queue = q)) then (if pending then .wait (s3.fifoAppend a) .queueFull else .done (s3.fifoAppend a))
        else .wait s3 .queueFull

/-- LAUNCH (R240). -/
def execLaunch (q : BitVec 8) (k : BitVec 5) (s : State) : Out := .next (s.issueGroups (groupLaunch false q k))

/-- LAUNCH.SPEC (R380). -/
def execLaunchSpec (q : BitVec 8) (k : BitVec 5) (s : State) : Out := .next (s.issueGroups (groupLaunch true q k))

end Sys2Proof.Machine
end

