-- ==== Sys2Proof/Machine/MatrixOps.lean ====
section
/-! DEFINITION. The matrix words (13 R319 to R321, R328) and MACC (R344 to R349): what they check and put into the core's order of commands. The engines themselves are in `Engines`. -/

namespace Sys2Proof.Machine

/-! MMA and MMC. -/

/-- What a matrix word leaves at the clasp for the release (R214): the group of the lowest column's fibre stands for the entry in each of its workgroups. -/
def State.matrixSign (s : State) (shape : Option (Nat × Nat)) (slot : BitVec 3) (mode : BitVec 2) (kd : BitVec 5) (c : Issue) (wg : Nat) : Option MSign :=
  ((s.liveMembers c).find? fun f => decide (f.wg = wg) && !f.muted).map fun f =>
    { grp := f.grp, shape := shape, slot := slot, mode := mode, kd := kd, pc := f.pc }

/-- M of R319. -/
def rowsOf (m : BitVec 2) : Nat := 64 * 2 ^ m.toNat

/-- MMA (R320): it signs, and goes on. -/
def execMma (m : BitVec 2) (n : BitVec 6) (s : BitVec 3) (c : BitVec 4) (e : BitVec 2) (k : BitVec 5) (t : State) : Out :=
  .next (t.signing c (t.matrixSign (some (rowsOf m, 16 * (n.toNat + 1))) s e k))

/-- MMC (R328). -/
def execMmc (s : BitVec 3) (c : BitVec 4) (e : BitVec 2) (k : BitVec 5) (t : State) : Out :=
  .next (t.signing c (t.matrixSign none s e k))

/-! MACC. -/

/-- Puts a command of a group into its core's order of commands (R349). -/
def State.pushCmd (s : State) (wg grp : Nat) (kind : MKind) (slot : Word) (lo len : Nat) (pc : VA) (signers : List FibreKey) : State :=
  let core := (s.wg wg).core
  let m : MCmd := { seq := s.order, whole := s.order, wg := wg, src := wg, grp := grp, vid := s.carries wg grp, kind := kind, slot := slot, mode := 0, lo := lo, len := len, prio := (s.launch wg).prio, age := 0, since := s.clock, pc := pc, signers := signers }
  let s1 : State := { s with order := s.order + 1 }
  s1.modCore core fun c => { c with mcmds := c.mcmds ++ [m] }

/-- What MACC ZERO does in a group (R345). -/
def groupMaccZero (k : BitVec 5) : State → Issue → Nat × Nat → List Fibre → Seq := fun s _ g fs =>
  let x := (s.kReg g k.toNat).toNat
  let tile := bits x 9 0
  let n := bits x 25 16 + 1
  if bits x 15 10 ≠ 0 ∨ bits x 63 26 ≠ 0 ∨ (s.launch g.1).accKib.toNat < tile + n then .trap s operandTrap
  else .done (s.pushCmd g.1 g.2 .zero 0 (1024 * tile) (1024 * n) 0 (fs.map Fibre.key))

/-- MACC ZERO (R345). -/
def execMaccZero (k : BitVec 5) (s : State) : Out := .next (s.issueGroups (groupMaccZero k))

/-- What MACC LD does in a fibre (R346): it takes its place among the core's commands, and its registers are written once its range is clear. A helper's that would fault writes 0 (R205). -/
def seqMaccLd (d a n : BitVec 7) : State → Issue → Fibre → Seq := fun s _ f =>
  let c := n.toNat + 1
  let off := (f.v a.toNat).toNat
  let dst := (List.range c).map fun j => f.phys (d.toNat + j)
  let zero := s.modFibre f.key fun x => x.setPhysBytes dst (List.replicate (4 * c) 0)
  if !(f.may d.toNat && f.may (d.toNat + c - 1) && f.may a.toNat) ∨ d.toNat % c ≠ 0 then .trap s operandTrap
  else if (s.launch f.wg).accBytes < off + 4 * c then (if s.quiet f then .done zero else .trap s operandTrap)
  else if off % (4 * c) ≠ 0 then (if s.quiet f then .done zero else .trap s (misalignedTrap off))
  else .done (s.pushCmd f.wg f.grp (.ld f.key dst off) 0 off (4 * c) f.pc [f.key])

/-- MACC LD (R346). -/
def execMaccLd (d a n : BitVec 7) (s : State) : Out := .next (s.issueSeq (seqMaccLd d a n))

/-- What MACC ST reads from its group's k registers (R347). -/
structure StReq where
  zero : Bool
  acct : Nat
  accn : Nat
  rows : Nat
  cols : Nat
  scale : Word
  rank : Option Nat
  dst : Nat
  pitch : Nat

def stReq (x y z : Nat) : StReq :=
  { zero := decide (bits x 63 42 ≠ 0 ∨ bits x 7 0 ≠ 0 ∨ bits y 31 28 ≠ 0 ∨ bits y 24 23 ≠ 0 ∨ bits z 63 24 ≠ 0 ∨ (bits y 27 27 = 0 ∧ bits y 26 25 ≠ 0))
    acct := bits x 41 32, accn := bits x 31 24 + 1, rows := bits x 23 16 + 1, cols := bits x 15 8 + 1
    scale := BitVec.ofNat 32 (bits y 63 32), rank := if bits y 27 27 = 1 then some (bits y 26 25) else none
    dst := bits y 22 0, pitch := bits z 23 0 }

/-- What MACC ST does in a group (R347, R348): it takes its place among the core's commands, and the words that a stochastic rounding uses are drawn from the lowest lane's generator. R347 does not say whether the accumulator bytes that it checks end with the last row's last column or with the last whole row: the model counts whole rows (DESIGN CHOICE, log 122). -/
def groupMaccSt (sl : BitVec 3) (k : BitVec 5) : State → Issue → Nat × Nat → List Fibre → Seq := fun s _ g fs =>
  let l := s.launch g.1
  let slot := l.slot sl
  let q := stReq (s.kReg g k.toNat).toNat (s.kReg g (k.toNat + 1)).toNat (s.kReg g (k.toNat + 2)).toNat
  let ob := packedBytes (elemOf (slotA slot)).width q.cols
  let len := accSize slot * q.accn * q.rows
  let rankBad : Bool := match q.rank with
    | some r => decide (l.cluster ≤ r)
    | none => false
  if q.zero || decide (q.accn < q.cols) || decide (q.pitch < ob) || rankBad || decide (l.accBytes < 1024 * q.acct + len) ||
      decide (l.padBytes < q.dst + q.pitch * (q.rows - 1) + ob) then .trap s operandTrap
  else match lowestLane fs with
    | none => .done s
    | some f =>
      let s1 := s.pushCmd g.1 g.2 (.st f.gen q.accn q.rows q.cols q.scale q.rank q.dst q.pitch) slot (1024 * q.acct) len f.pc (fs.map Fibre.key)
      .done (if stochastic slot then s1.modFibre f.key fun x => { x with gen := { x.gen with n := x.gen.n + BitVec.ofNat 64 (q.rows * q.cols) } } else s1)

/-- MACC ST (R348). -/
def execMaccSt (sl : BitVec 3) (k : BitVec 5) (s : State) : Out := .next (s.issueGroups (groupMaccSt sl k))

end Sys2Proof.Machine
end

