-- ==== Sys2Proof/Machine/Engines.lean ====
section
/-! DEFINITION. The matrix engines (13 R315, R323, R324, R327, R332 to R343): what a step reads, when it is ready, its fetch and its consumed granules, its arithmetic (03 R77 to R79, R88 to R92); the events that move commands on, and those that end MACC (R345, R346, R348, R349). -/

namespace Sys2Proof.Machine

def MCmd.mul? (m : MCmd) : Option Mul :=
  match m.kind with
  | .mul q => some q
  | .zero => none
  | .ld _ _ _ => none
  | .st _ _ _ _ _ _ _ _ => none

/-! What a step reads. -/

/-- A granule with the aperture address of its first byte. -/
structure Gran where
  wg : Nat
  g : Nat
  va : Nat
deriving DecidableEq, Repr

/-- The workgroup in whose scratchpad an operand stands. -/
def State.operandWg (s : State) (m : MCmd) (rank : Option Nat) : Option Nat :=
  match rank with
  | none => some m.src
  | some r => (s.peerWg (s.wg m.src) r).map (·.id)

/-- The granules of a run of bytes in a workgroup's scratchpad, named through its aperture. -/
def granRun (wg : Nat) (rank : Option Nat) (off n : Nat) : List Gran :=
  (granulesOf off n).map fun g => ⟨wg, g, (match rank with | none => ownAperture | some r => clusterAperture + 2 ^ 24 * r) + 1024 * g⟩

/-- The granules that a step reads of one operand (R333); none where no workgroup holds it any more. -/
def State.operandGrans (s : State) (m : MCmd) (o : Operand) (str t rb row0 rows : Nat) : Option (List Gran) :=
  match o with
  | .tensor _ _ _ => some []
  | .pad rank off => (s.operandWg m rank).map fun w => granRun w rank (off + 32 * str * t + rb * row0) (rb * rows)

/-- The granules of one operand's scale array for a step (R324, R333). -/
def scaleGrans (m : MCmd) (code off t rows : Nat) : List Gran := granRun m.src none (off + scaleStep code rows * t) (scaleBytes code rows)

/-- The element width of a command's operands. -/
def MCmd.width (m : MCmd) : Nat := (elemOf (slotA m.slot)).width

/-- The granules that step `t` reads for A, and for B (R333). -/
def State.gransA (s : State) (m : MCmd) (q : Mul) (t : Nat) : Option (List Gran) :=
  (s.operandGrans m q.a q.strA t (rowBytes m.width) q.row0 q.rowsA).map fun xs => xs ++ scaleGrans m (slotA m.slot) q.sa t q.rowsAll

def State.gransB (s : State) (m : MCmd) (q : Mul) (t : Nat) : Option (List Gran) :=
  (s.operandGrans m q.b q.strB t (rowBytes m.width) 0 q.rowsB).map fun xs => xs ++ scaleGrans m (slotB m.slot) q.sb t q.rowsB

/-- The granules that step `t` reads (R333). -/
def State.grans (s : State) (m : MCmd) (q : Mul) (t : Nat) : Option (List Gran) :=
  match s.gransA m q t, s.gransB m q t with
  | some a, some b => some (a ++ b)
  | _, _ => none

/-- The granules that step `t` consumes (R335). -/
def State.consumed (s : State) (m : MCmd) (q : Mul) (t : Nat) : List Gran :=
  (((if q.ca then (s.gransA m q t).getD [] else []) ++ (if q.cb then (s.gransB m q t).getD [] else [])).eraseDups)

/-! Readiness. -/

/-- Whether a granule is reserved by another matrix command (R335). -/
def State.takenGran (s : State) (m : MCmd) (x : Gran) : Bool :=
  (s.wg x.wg).reserved.any fun r => decide (r.1 = x.g) && (match r.2 with | .matrix w => decide (w ≠ m.whole) | .copy _ => false | .task _ => false)

/-- Whether a command's next step is ready (R333). -/
def State.stepReady (s : State) (m : MCmd) (q : Mul) : Bool :=
  match s.grans m q m.step with
  | none => false
  | some gs => gs.all fun x => decide (s.seenTag x.wg x.g m.vid = .full) && !(s.takenGran m x)

/-- The first POISONED granule of a command's next step (R341). -/
def State.stepPoison (s : State) (m : MCmd) (q : Mul) : Option Gran :=
  ((s.grans m q m.step).getD []).find? fun x => decide ((s.wg x.wg).tag x.g = .poisoned)

/-- Clocks that a command has spent in its queue (R332). -/
def State.cmdAge (s : State) (m : MCmd) : Nat := m.age + (if m.phase = .queued then s.clock - m.since else 0)

/-- A command's effective priority (R332). -/
def State.cmdPrio (s : State) (m : MCmd) : Nat := min 3 (m.prio + s.cmdAge m / 2 ^ s.ageShift)

/-- Whether an engine could take a command now: it waits in its queue, its range is clear, and its next step is ready or meets poison (R334, R336, R341), its unit is not being pre-empted (R452), and no FENCE holds back its reads (R294). -/
def State.startable (s : State) (core : Nat) (m : MCmd) : Bool :=
  match m.mul? with
  | none => false
  | some q => decide (m.phase = .queued) && decide (m.step < q.ks) && !m.stop && !(s.wg m.wg).stopping && !(decide (m.step = 0) && s.fenced m.src m.seq 2) && (s.core core).rangeClear m && (s.stepReady m q || (s.stepPoison m q).isSome)

/-- The command that an idle engine takes: the highest effective priority, then the one that entered first (R336). -/
def State.bestCmd (s : State) : List MCmd → Option MCmd
  | [] => none
  | m :: r => match State.bestCmd s r with
    | none => some m
    | some n => if s.cmdPrio m < s.cmdPrio n ∨ (s.cmdPrio m = s.cmdPrio n ∧ n.seq < m.seq) then some n else some m

def State.nextCmd (s : State) (core : Nat) : Option MCmd := s.bestCmd ((s.core core).mcmds.filter fun m => s.startable core m)

/-! Tensor tiles. -/

/-- The core whose tile store holds a tensor tile: in fused mode the slice of R257. -/
def State.tileHome (s : State) (m : MCmd) (core tr tc : Nat) : Nat :=
  if (s.launch m.src).fused then ((s.peerWg (s.wg m.src) ((tr + tc) % 4)).map (·.core)).getD core else core

/-- The line of the physical space that an address falls in for an engine, if it is translated. -/
def State.lineOfVa (s : State) (w : Who) (va : VA) : List Nat :=
  match (s.translate w va {}).2 with
  | .ok pa _ _ _ => if ownAperture ≤ va.toNat then [] else [pa / 1024]
  | .fault _ => []

/-- Reads the row pieces of a tile from the newest committed data (R255): its bytes, and the lines that they came from. -/
def State.fillTile (s : State) (key : FibreKey) (src : Nat) (w : Who) (x : Tensor) (tr tc : Nat) : List Nat → Cells × List Nat → Eng (Cells × List Nat)
  | [], cs => .ok s cs
  | i :: r, cs =>
    let row := 16 * tr + i
    let n := min 64 (x.rbytes - 64 * tc)
    let va := x.base + BitVec.ofNat 48 (x.pitch * row + 64 * tc)
    if x.rows ≤ row ∨ n = 0 then State.fillTile s key src w x tr tc r cs
    else match State.engineFetch key (some src) 3 s w va n with
      | .ok s1 bs => State.fillTile s1 key src w x tr tc r (Memory.writeN cs.1 (64 * i) bs, (cs.2 ++ s1.lineOfVa w va ++ s1.lineOfVa w (va + BitVec.ofNat 48 (n - 1))).eraseDups)
      | .stop s1 t => .stop s1 t
      | .wait s1 => .wait s1

/-- The bytes of a tensor tile, through the line that a tile store holds or is filled with now (R252, R255, R256, R292). -/
def State.tensorTile (s : State) (m : MCmd) (core : Nat) (w : Who) (x : Tensor) (tid tr tc : Nat) : Eng Cells :=
  let home := s.tileHome m core tr tc
  let hit := fun (l : Line) => l.tensor && decide (l.vid = w.vid) && decide (l.tid = tid) && decide (l.trow = tr) && decide (l.tcol = tc)
  match (s.core home).lines.find? hit with
  | some l => .ok (s.modCore home fun c => { c with lines := c.lines.map fun y => if hit y then { y with used := s.clock } else y }) l.cells
  | none =>
    match s.fillTile (engineKey m.wg m.grp m.seq) m.src w x tr tc (List.range 16) ([], []) with
    | .ok s1 cs => .ok (s1.bringLine home { vid := w.vid, tensor := true, tid := tid, trow := tr, tcol := tc, slice := home, used := s.clock, lines := cs.2, filled := s1.mem.complete, cells := cs.1 }) cs.1
    | .stop s1 t => .stop s1 t
    | .wait s1 => .wait s1

/-- Bytes `col` to `col + n - 1` of a tensor's row, tile column by tile column. -/
def State.tensorRow (m : MCmd) (core : Nat) (w : Who) (x : Tensor) (tid row : Nat) : Nat → State → Nat → Nat → Eng (List Byte)
  | 0, s, _, _ => .ok s []
  | fuel + 1, s, col, n =>
    if n = 0 then .ok s []
    else
      let k := min n (64 - col % 64)
      match s.tensorTile m core w x tid (row / 16) (col / 64) with
      | .wait s1 => .wait s1
      | .stop s1 t => .stop s1 t
      | .ok s1 cs =>
        match State.tensorRow m core w x tid row fuel s1 (col + k) (n - k) with
        | .ok s2 r => .ok s2 (Memory.readN cs (64 * (row % 16) + col % 64) k ++ r)
        | y => y

/-! The fetch of a step. -/

/-- The block length of R79. -/
def blockLen (slot : Word) : Nat :=
  let a := slotA slot
  let b := slotB slot
  if scaleOf a = .shift ∨ scaleOf b = .shift then 32 else if fp32Scaled a || fp32Scaled b then 128 else kstep (elemOf a).width

/-- The shift of a scale array for index x and block b: 0 without shift scales (R77, R324). -/
def shiftAt (code : Nat) (sc : List Byte) (x b : Nat) : Int :=
  match scaleOf code with
  | .shift => signed 8 (field sc (scaleBlocks code * x + b) 1)
  | _ => 0

/-- The FP32 scale for index x and block b: 1.0 without FP32 scales (R78, R324). -/
def scaleAt (code : Nat) (sc : List Byte) (x b : Nat) : Word :=
  match scaleOf code with
  | .vector => BitVec.ofNat 32 (field sc (4 * (scaleBlocks code * x + b)) 4)
  | .tile => BitVec.ofNat 32 (field sc (4 * (x / 128)) 4)
  | _ => 0x3F800000

/-- Whether an FP32 scale is +0 or −0. -/
def zeroScale (w : Word) : Bool := decide (w &&& 0x7FFFFFFF = 0)

/-- Whether the part leaves the elements of a block unfetched (R77, R80). -/
def blockSkipped (slot : Word) (code : Nat) (sc : List Byte) (x b : Nat) : Bool :=
  decide (shiftAt code sc x b = -128) || (slotZskip slot && fp32Scaled code && zeroScale (scaleAt code sc x b))

/-- Elements of step `t` below K (R92, R327). -/
def stepElems (q : Mul) (ks t : Nat) : Nat := min ks (q.total - ks * t)

/-- One row of a tensor operand for a step, block by block; what is not fetched reads 0 and has no effect. -/
def State.fetchBlocks (m : MCmd) (core : Nat) (w : Who) (x : Tensor) (tid row col : Nat) (code : Nat) (sc : List Byte) (idx cnt : Nat) : List Nat → State → Eng (List Byte)
  | [], s => .ok s []
  | b :: r, s =>
    let bl := blockLen m.slot
    let whole := packedBytes m.width bl
    let n := if blockSkipped m.slot code sc idx b then 0 else packedBytes m.width (min bl (cnt - bl * b))
    match State.tensorRow m core w x tid row 8 s (col + whole * b) n with
    | .wait s1 => .wait s1
    | .stop s1 t => .stop s1 t
    | .ok s1 bs =>
      match State.fetchBlocks m core w x tid row col code sc idx cnt r s1 with
      | .ok s2 rest => .ok s2 (bs ++ List.replicate (whole - bs.length) 0 ++ rest)
      | y => y

/-- The rows of a tensor operand for a step (R323). -/
def State.fetchRows (m : MCmd) (core : Nat) (w : Who) (x : Tensor) (tid row col : Nat) (code : Nat) (sc : List Byte) (row0 cnt : Nat) : List Nat → State → Eng (List Byte)
  | [], s => .ok s []
  | i :: r, s =>
    match State.fetchBlocks m core w x tid (row + row0 + i) col code sc (row0 + i) cnt (List.range (kstep m.width / blockLen m.slot)) s with
    | .wait s1 => .wait s1
    | .stop s1 t => .stop s1 t
    | .ok s1 bs =>
      match State.fetchRows m core w x tid row col code sc row0 cnt r s1 with
      | .ok s2 rest => .ok s2 (bs ++ rest)
      | y => y

/-- An operand's rows for the next step (R323, R339). The tensor table is read again for each step, and an identifier that is no longer valid stops the command with ILLEGAL_OPERAND and address 0: R254 has it checked at the release, and the manual does not say what a later step makes of a changed table (DESIGN CHOICE, log 112). -/
def State.fetchOperand (s : State) (m : MCmd) (core : Nat) (o : Operand) (str : Nat) (code : Nat) (sc : List Byte) (row0 rows cnt : Nat) : Eng (List Byte) :=
  let rb := rowBytes m.width
  match o with
  | .pad rank off =>
    match s.operandWg m rank with
    | none => .wait s
    | some w => .ok s (s.padRead w (off + 32 * str * m.step + rb * row0) (rb * rows))
  | .tensor tid row col =>
    let w := s.whoEngine core m.vid
    match s.tensor (engineKey m.wg m.grp m.seq) (some m.src) w (s.launch m.src).tensors tid with
    | .wait s1 => .wait s1
    | .stop s1 t => .stop s1 t
    | .ok s1 none => .stop s1 operandTrap
    | .ok s1 (some x) => State.fetchRows m core w x tid row (col + 32 * str * m.step) code sc row0 cnt (List.range rows) s1

/-- An operand's scale array for the next step (R324). -/
def State.fetchScales (s : State) (m : MCmd) (code off rows : Nat) : List Byte := s.padRead m.src (off + scaleStep code rows * m.step) (scaleBytes code rows)

/-! The arithmetic of a step. -/

/-- An element of fetched rows. -/
def elemAt (code rb : Nat) (data : List Byte) (row k : Nat) : FVal :=
  (elemOf code).value (packedGet (elemOf code).width (slice data (rb * row) rb) k)

/-- A value times a power of two. -/
def FVal.scale2 (v : FVal) (n : Int) : FVal :=
  match v with
  | .fin s m e => .fin s m (e + n)
  | .inf s => .inf s
  | .nan s => .nan s

/-- The block value X of R88 for products in order. -/
def blockSum (ps : List FVal) : FVal := ps.foldl (fun acc p => (exactAdd acc p).v) (.fin true 0 0)

/-- The products of one block for element (i, j) (R77, R88): the positions of the block below K. A 0 of a scaled integer format has no sign (R74), and the manual does not say which zero its product with a negative element is: the model takes the sign rule of floating-point products, −0 (DESIGN CHOICE, log 119). -/
def products (m : MCmd) (q : Mul) (i j b : Nat) : List FVal :=
  let a := slotA m.slot
  let c := slotB m.slot
  let rb := rowBytes m.width
  let bl := blockLen m.slot
  let sa := shiftAt a m.scaleA (q.row0 + i) b
  let sb := shiftAt c m.scaleB j b
  (List.range (min bl (stepElems q (kstep m.width) m.step - bl * b))).map fun k =>
    if sa = -128 ∨ sb = -128 then .fin false 0 0
    else (exactMul ((elemAt a rb m.dataA i (bl * b + k)).scale2 sa) ((elemAt c rb m.dataB j (bl * b + k)).scale2 sb)).v

/-- The accumulator's format (R89). -/
def accFmt (slot : Word) : Fmt := if slotAcc slot = 1 then fp64 else fp32

/-- The promotion of a block value (R89). -/
def promote (m : MCmd) (q : Mul) (i j b : Nat) (x : FVal) : FVal :=
  let sa := scaleAt (slotA m.slot) m.scaleA (q.row0 + i) b
  let sb := scaleAt (slotB m.slot) m.scaleB j b
  let fmt := accFmt m.slot
  if slotZskip m.slot && ((fp32Scaled (slotA m.slot) && zeroScale sa) || (fp32Scaled (slotB m.slot) && zeroScale sb)) then .fin false 0 0
  else fmt.value (fmt.finish (exactMul (exactMul x (fp32.value sa.toNat)).v (fp32.value sb.toNat))).1

/-- The integer that a finite value with a whole mantissa is. -/
def FVal.toInt (v : FVal) : Int :=
  match v with
  | .fin s n e => (if s then -1 else 1) * ((n * 2 ^ e.toNat : Nat) : Int)
  | .inf _ => 0
  | .nan _ => 0

/-- An accumulator element after one block (R89, R90, R327). -/
def accBlock (m : MCmd) (q : Mul) (i j : Nat) (c b : Nat) : Nat :=
  match products m q i j b with
  | [] => c
  | ps =>
    let x := blockSum ps
    if slotAcc m.slot = 2 then (((c : Int) + (if m.mode = 2 then -x.toInt else x.toInt)) % 2 ^ 32).toNat
    else
      let y := promote m q i j b x
      ((accFmt m.slot).finish (exactAdd ((accFmt m.slot).value c) (if m.mode = 2 then y.neg else y))).1

/-- An accumulator element after a step: its blocks in increasing k (R91). -/
def accStep (m : MCmd) (q : Mul) (i j c : Nat) : Nat := (List.range (kstep m.width / blockLen m.slot)).foldl (accBlock m q i j) c

/-- The accumulator memory after a step (R318, R327). -/
def accAfter (m : MCmd) (q : Mul) (acc : Cells) : Cells :=
  let es := accSize m.slot
  (List.range (q.rowsA * q.rowsB)).foldl (fun a n =>
    let at_ := m.lo + es * n
    Memory.writeN a at_ (leBytes es (accStep m q (n / q.rowsB) (n % q.rowsB) (leNat (Memory.readN a at_ es))))) acc

/-! Commands move on. -/

def State.modCmd (s : State) (core seq : Nat) (h : MCmd → MCmd) : State :=
  s.modCore core fun c => { c with mcmds := c.mcmds.map fun m => if m.seq = seq then h m else m }

/-- The sub-commands of one MMC, on every core (R330). -/
def State.siblings (s : State) (whole : Nat) : List MCmd := s.cores.flatMap fun c => c.mcmds.filter fun m => decide (m.whole = whole)

/-- Whether a sub-command has still to fetch a granule that step `t` consumes (R335). -/
def State.owesGran (s : State) (m : MCmd) (t wg g : Nat) : Bool :=
  match m.mul? with
  | none => false
  | some q => decide (t < q.ks) && (decide (m.step < t) || (decide (m.step = t) && decide (m.phase ≠ .computing))) && (s.consumed m q t).any fun x => decide (x.wg = wg) && decide (x.g = g)

/-- Sets consumed granules EMPTY and ends their reservation, but for those that another sub-command has still to fetch (R335). -/
def State.emptyGrans (s : State) (whole t : Nat) (gs : List Gran) : State :=
  gs.foldl (fun (u : State) x =>
    if (u.siblings whole).any fun n => u.owesGran n t x.wg x.g then u
    else (u.consume x.wg x.g).modWg x.wg fun w => { w with reserved := w.reserved.filter fun r => decide (r ≠ (x.g, .matrix whole)) }) s

/-- Ends the reservation of granules, whose tags stay as they are (R335). -/
def State.freeGrans (s : State) (whole : Nat) (gs : List Gran) : State :=
  gs.foldl (fun (u : State) x => u.modWg x.wg fun w => { w with reserved := w.reserved.filter fun r => decide (r ≠ (x.g, .matrix whole)) }) s

/-- Granules that a command still holds reserved, once one of its sub-commands has gone with them unfetched: those that no other has still to fetch are released with their tags unchanged (R335). -/
def State.settleGrans (s : State) (whole : Nat) : State :=
  s.wgs.foldl (fun (u : State) w => w.reserved.foldl (fun (v : State) r =>
    if r.2 ≠ .matrix whole then v
    else if (v.siblings whole).any fun n => (List.range ((n.mul?.map (·.ks)).getD 0)).any fun t => v.owesGran n t w.id r.1 then v
    else v.modWg w.id fun y => { y with reserved := y.reserved.filter fun z => decide (z ≠ r) }) u) s

/-- A command that is over, for whatever reason, leaves its queue, and its tile operations complete (R342). -/
def State.endCmd (s : State) (core : Nat) (m : MCmd) : State := ((s.dropCmd core m.seq).dropReplies (engineKey m.wg m.grp m.seq)).settleGrans m.whole

/-- A command that a fault stops (R341). -/
def State.stopCmd (s : State) (core : Nat) (m : MCmd) (c : Code) (a : BitVec 64) : State :=
  (s.recordFault m.src m.grp { code := c, addr := a, copy := false, token := 0, slot := 0 }).endCmd core m

/-- Starts a command's next step on an engine (R327, R335, R339, R341): its range is zeroed before step 0, its consumed granules are reserved, and its operands are read as they stand. -/
def State.startStep (s : State) (core e : Nat) (m : MCmd) (q : Mul) : State :=
  let s0 := if m.step = 0 ∧ m.mode = 0 then s.modWg m.wg fun w => { w with acc := Memory.clear w.acc m.lo m.len } else s
  match s0.stepPoison m q with
  | some x => s0.stopCmd core m .poison (BitVec.ofNat 64 x.va)
  | none =>
    let a := slotA m.slot
    let b := slotB m.slot
    let sa := s0.fetchScales m a q.sa q.rowsAll
    let sb := s0.fetchScales m b q.sb q.rowsB
    let cnt := stepElems q (kstep m.width) m.step
    match s0.fetchOperand m core q.a q.strA a sa q.row0 q.rowsA cnt with
    | .wait s1 => s1
    | .stop s1 t => s1.stopCmd core m t.code t.addr
    | .ok s1 da =>
      match s1.fetchOperand m core q.b q.strB b sb 0 q.rowsB cnt with
      | .wait s2 => s2
      | .stop s2 t => s2.stopCmd core m t.code t.addr
      | .ok s2 db =>
        let s3 := (s2.consumed m q m.step).foldl (fun (u : State) x => u.modWg x.wg fun w =>
          if w.reserved.contains (x.g, .matrix m.whole) then w else { w with reserved := w.reserved ++ [(x.g, .matrix m.whole)] }) s2
        s3.modCmd core m.seq fun n =>
          { n with phase := .fetching, engine := some e, age := s.cmdAge m, since := s.clock, dataA := da, dataB := db, scaleA := sa, scaleB := sb }

/-- The command that runs on an engine. -/
def State.running (s : State) (core e : Nat) : Option MCmd := (s.core core).mcmds.find? fun m => decide (m.engine = some e)

/-- Whether an engine may take a command: it is one of the four, it is idle, and so is none before it (R336). -/
def State.engineIdle (s : State) (core e : Nat) : Bool :=
  decide (core < s.cores.length) && decide (e < 4) && decide (s.running core e = none) && (List.range e).all fun d => decide (s.running core d ≠ none)

/-- MATRIX_STEP_START (R336): the idle engine takes the best ready command. -/
def execMatrixStepStart (s : State) : Out :=
  match s.arg with
  | .two core e =>
    if s.engineIdle core e then
      match s.nextCmd core with
      | some m => match m.mul? with
        | some q => .next (s.startStep core e m q)
        | none => .next s
      | none => .next s
    else .next s
  | _ => .next s

/-- MATRIX_FETCH_DONE (R335): the step's consumed granules become EMPTY; those of a squashed command, which fetches no more, are released unchanged (R343, R398). -/
def execMatrixFetchDone (s : State) : Out :=
  match s.arg with
  | .two core e =>
    match s.running core e with
    | some m => match m.mul? with
      | some q =>
        if m.phase = .fetching then
          let s1 := s.modCmd core m.seq fun n => { n with phase := .computing }
          .next (if m.stop then s1.freeGrans m.whole (s.consumed m q m.step) else s1.emptyGrans m.whole m.step (s.consumed m q m.step))
        else .next s
      | none => .next s
    | none => .next s
  | _ => .next s

/-- Whether a running command gives up its engine at a boundary (R337): a better one could start, or its own next step is not ready. -/
def State.yields (s : State) (core : Nat) (m : MCmd) (q : Mul) : Bool :=
  (s.wg m.wg).stopping || !(s.stepReady m q || (s.stepPoison m q).isSome) || (match s.nextCmd core with | some n => decide (s.cmdPrio m < s.cmdPrio n) | none => false)

/-- What follows a step's results (R337, R341, R343): the command is stopped, waits for its completion, yields, or goes on with its next step. -/
def State.afterStep (s : State) (core e : Nat) (m : MCmd) (q : Mul) : State :=
  let idle := fun (n : MCmd) => { n with phase := .queued, engine := none, since := s.clock, dataA := [], dataB := [], scaleA := [], scaleB := [] }
  if m.stop then s.endCmd core m
  else if q.ks ≤ m.step then s.modCmd core m.seq idle
  else if s.yields core m q then s.modCmd core m.seq idle
  else
    let s1 := s.modCmd core m.seq idle
    s1.startStep core e (idle m) q

/-- MATRIX_KSTEP_END (R337): the step's results are in the accumulators. -/
def execMatrixKstepEnd (s : State) : Out :=
  match s.arg with
  | .two core e =>
    match s.running core e with
    | some m => match m.mul? with
      | some q =>
        if m.phase = .computing then
          let s1 := s.modWg m.wg fun w => { w with acc := accAfter m q w.acc }
          let s2 := s1.modCmd core m.seq fun n => { n with step := n.step + 1 }
          .next (s2.afterStep core e { m with step := m.step + 1 } q)
        else .next s
      | none => .next s
    | none => .next s
  | _ => .next s

/-- A command of a core by its number in the order. -/
def State.cmd? (s : State) (core seq : Nat) : Option MCmd := (s.core core).mcmds.find? fun m => decide (m.seq = seq)

/-- MATRIX_COMMAND_COMPLETE (R342). -/
def execMatrixCommandComplete (s : State) : Out :=
  match s.arg with
  | .two core seq =>
    match s.cmd? core seq with
    | some m => match m.mul? with
      | some q => .next (if q.ks ≤ m.step ∧ m.phase = .queued then s.endCmd core m else s)
      | none => .next s
    | none => .next s
  | _ => .next s

/-- Brings an entry's fibres that wait for one reason to their instruction again, as the next turn (R201). -/
def State.tryAgain (s : State) (k : FibreKey) (p : Why → Bool) : State :=
  match s.fibre? k with
  | none => s
  | some f => match f.wait, f.seat with
    | some w, .entry i => if p w.why then { s with agenda := .issue f.core f.part i false :: s.agenda } else s
    | _, _ => s

/-- MATRIX_QUEUE_PLACE_WAIT (R331): the release that waited for a place is made again. -/
def execMatrixQueuePlaceWait (s : State) : Out :=
  match s.arg with
  | .fibre k => .next (s.tryAgain k fun w => decide (w = .place))
  | _ => .next s

/-! MACC. -/

/-- A MACC by its number, once its range is clear (R334, R346). -/
def State.macc? (s : State) (core seq : Nat) : Option MCmd := (s.cmd? core seq).filter fun m => m.mul?.isNone && (s.core core).rangeClear m

/-- MACC_LD_DELIVER (R346). -/
def execMaccLdDeliver (s : State) : Out :=
  match s.arg with
  | .two core seq => match s.macc? core seq with
    | some m => .next (s.deliverLd core m)
    | none => .next s
  | _ => .next s

/-- MACC_ZERO_COMPLETE (R345, R349). -/
def execMaccZeroComplete (s : State) : Out :=
  match s.arg with
  | .two core seq => match s.macc? core seq with
    | some m =>
      if m.kind = .zero then .next ((s.dropCmd core seq).modWg m.wg fun w => { w with acc := Memory.clear w.acc m.lo m.len }) else .next s
    | none => .next s
  | _ => .next s

/-- Element (i, j) of a MACC ST's source as a value (R348). -/
def accElem (slot : Word) (acc : Cells) (lo n : Nat) : FVal :=
  let es := accSize slot
  let x := leNat (Memory.readN acc (lo + es * n) es)
  if slotAcc slot = 2 then ofInt (signed 32 x) else (accFmt slot).value x

/-- Converts the elements of MACC ST in order, drawing a word for each where the rounding is stochastic (R348). -/
def storeElems (slot : Word) (scale : Word) : List FVal → Gen → List Nat × FFlags
  | [], _ => ([], 0)
  | v :: r, g =>
    let w := g.drawIf (stochastic slot)
    let p := scaled v scale
    let c := (elemOf (slotA slot)).convert (modeOf (slotRnd slot) w.1) (slotSat slot) p.1
    let rest := storeElems slot scale r w.2
    (c.1 :: rest.1, p.2 ||| c.2 ||| rest.2)

/-- Lands a run of bytes with its implicit set-FULL events, granule by granule (R249, R251). -/
def State.landRun (v : VID) (wg : Nat) : Nat → State → Nat → List Byte → State
  | 0, s, _, _ => s
  | fuel + 1, s, off, bs =>
    if bs = [] then s
    else
      let k := 1024 - off % 1024
      State.landRun v wg fuel (s.landFull wg off (bs.take k) v) (off + k) (bs.drop k)

/-- Lands the rows of a MACC ST. -/
def State.landRows (s : State) (v : VID) (wg dst pitch : Nat) (rows : List (List Byte)) : State :=
  (List.range rows.length).foldl (fun (u : State) i => State.landRun v wg 3 u (dst + pitch * i) (rows.getD i [])) s

/-- The scratchpad to which a MACC ST stores, and the rows of its destination: offset and bytes (R348). -/
def State.stRows (s : State) (m : MCmd) : Option (Nat × List (Nat × Nat)) :=
  match m.kind with
  | .st _ _ rows cols _ rank dst pitch => (s.operandWg m rank).map fun wg => (wg, (List.range rows).map fun i => (dst + pitch * i, packedBytes (elemOf (slotA m.slot)).width cols))
  | _ => none

/-- The granules that a MACC ST sets FULL. -/
def State.stGrans (s : State) (m : MCmd) : List (Nat × Nat) :=
  match s.stRows m with
  | some (wg, rows) => rows.flatMap fun r => (granulesOf r.1 r.2).map fun g => (wg, g)
  | none => []

/-- What a MACC ST does once no granule holds it (R348): its elements are converted and stored, with its flags. -/
def State.finishSt (s : State) (core : Nat) (m : MCmd) : State :=
  match m.kind with
  | .st gen accn rows cols scale rank dst pitch =>
    match s.operandWg m rank with
    | none => s.dropCmd core m.seq
    | some wg =>
      let acc := (s.wg m.wg).acc
      let vals := (List.range (rows * cols)).map fun n => accElem m.slot acc m.lo (accn * (n / cols) + n % cols)
      let r := storeElems m.slot scale vals gen
      let out := (List.range rows).map fun i => packElems (elemOf (slotA m.slot)).width ((r.1.drop (cols * i)).take cols)
      ((s.dropCmd core m.seq).landRows m.vid wg dst pitch out).modGroup m.wg m.grp fun g => g.raise r.2
  | _ => s

end Sys2Proof.Machine
end

