-- ==== Sys2Proof/Machine/Place.lean ====
section
/-! DEFINITION. Placement (08 R194 to R197, R215): which cores a workgroup fits, where its groups go, and the state in which a workgroup starts (01 R9, R16, R17; 02 R51; 05 R142; 06 R175, R530). -/

namespace Sys2Proof.Machine

/-! What a core holds. -/

/-- A group's lane columns on a core, and the column registers that each of its fibres covers (R194). -/
structure Span where
  part : Nat
  off : Nat
  width : Nat
  cover : Nat
deriving DecidableEq, Repr

/-- What the workgroups of a core take of it (R194, R195). -/
structure Load where
  spans : List Span := []
  fibres : Nat := 0
  gran : Nat := 0
  acc : Nat := 0
  wgs : Nat := 0
  dicts : List (BitVec 64) := []
deriving DecidableEq, Repr

/-- The column registers that an allocation covers (R194). -/
def Launch.cover (l : Launch) : Nat := (l.regs.toNat + 23) / 24 * 24

/-- Fibres in each column of an aligned block of 8 columns, and the registers that they cover. -/
def Load.block (x : Load) (part b : Nat) : Nat × Nat :=
  x.spans.foldl (fun n p => if p.part = part ∧ p.off ≤ 8 * b ∧ 8 * b < p.off + p.width then (n.1 + 1, n.2 + p.cover) else n) (0, 0)

/-- The largest fibre count of a span's columns once it is placed; none where it cannot be (R194, R196). -/
def Load.cost (x : Load) (p : Span) : Option Nat :=
  let bs := (List.range (p.width / 8)).map fun i => x.block p.part (p.off / 8 + i)
  if bs.all fun n => decide (n.1 < 16) && decide (n.2 + p.cover ≤ 576) then some (bs.foldl (fun m n => max m (n.1 + 1)) 0) else none

/-- The span of least cost; ties go to the first. -/
def Load.cheapest (x : Load) : List Span → Option (Nat × Span)
  | [] => none
  | p :: r =>
    match x.cost p, Load.cheapest x r with
    | none, y => y
    | some c, none => some (c, p)
    | some c, some (d, q) => if d < c then some (d, q) else some (c, p)

/-- The places that a group may take, in order: by partition, then by offset (R190). -/
def spansOf (l : Launch) : List Span :=
  (List.range 4).flatMap fun p => (List.range (64 / l.width)).map fun i => ⟨p, l.width * i, l.width, l.cover⟩

/-- Places groups in turn (R196). -/
def Load.placeGroups (l : Launch) : Nat → Load → Option (Load × List Span)
  | 0, x => some (x, [])
  | n + 1, x =>
    match x.cheapest (spansOf l) with
    | none => none
    | some (_, p) =>
      match Load.placeGroups l n { x with spans := x.spans ++ [p], fibres := x.fibres + l.width } with
      | none => none
      | some (y, ps) => some (y, p :: ps)

/-- Whether a core has, or has room for, a copy of a dictionary table (R51). A workgroup with no table (R49) fits a core that holds four copies: R51 and R195, read word for word, would keep it off, but it needs none (DESIGN CHOICE, log 113). -/
def Load.dictFits (x : Load) (a : BitVec 64) : Bool := decide (a = 0) || x.dicts.contains a || decide (x.dicts.length < 4)

/-- A workgroup's places on a core, if it fits (R195). -/
def Load.place (x : Load) (l : Launch) : Option (Load × List Span) :=
  if x.gran + l.gran.toNat ≤ 8192 ∧ x.acc + l.accKib.toNat ≤ 1024 ∧ x.wgs < 64 ∧ x.dictFits l.dict = true then
    let y : Load := { x with gran := x.gran + l.gran.toNat, acc := x.acc + l.accKib.toNat, wgs := x.wgs + 1
                             dicts := if l.dict = 0 ∨ x.dicts.contains l.dict = true then x.dicts else l.dict :: x.dicts }
    Load.placeGroups l l.groups y
  else none

/-- Of cores with their loads, the one with the fewest resident fibres that a workgroup fits; ties go to the first (R196). -/
def chooseCore (l : Launch) : List (Nat × Load) → Option (Nat × Load × List Span)
  | [] => none
  | (c, x) :: r =>
    match x.place l, chooseCore l r with
    | none, y => y
    | some (z, ps), none => some (c, z, ps)
    | some (z, ps), some (d, w, qs) => if w.fibres < z.fibres then some (d, w, qs) else some (c, z, ps)

/-- Inserts by core number. -/
def byCore (x : Nat × Load × List Span) : List (Nat × Load × List Span) → List (Nat × Load × List Span)
  | [] => [x]
  | y :: r => if x.1 < y.1 then x :: y :: r else y :: byCore x r

/-- The `n` cores of a list with the fewest resident fibres that a workgroup fits. -/
def chooseCores (l : Launch) : Nat → List (Nat × Load) → Option (List (Nat × Load × List Span))
  | 0, _ => some []
  | n + 1, cs =>
    match chooseCore l cs with
    | none => none
    | some x => (chooseCores l n (cs.filter fun y => decide (y.1 ≠ x.1))).map fun r => byCore x r

/-- Resident fibres of some chosen cores. -/
def fibresOf (xs : List (Nat × Load × List Span)) : Nat := xs.foldl (fun n x => n + x.2.1.fibres) 0

/-- Of clusters of cores, by number, the one whose `n` chosen cores hold the fewest fibres (R197, log 9). -/
def chooseCluster (l : Launch) (n : Nat) (cs : List (Nat × Load)) : List Nat → Option (List (Nat × Load × List Span))
  | [] => none
  | k :: r =>
    match chooseCores l n (cs.filter fun x => decide (x.1 / 4 = k)), chooseCluster l n cs r with
    | none, y => y
    | some x, none => some x
    | some x, some y => if fibresOf y < fibresOf x then some y else some x

/-- The cores of a unit of dispatch: one workgroup, or `n` of a cluster by rank (R196, R197). -/
def chooseUnit (l : Launch) (n : Nat) (cs : List (Nat × Load)) : Option (List (Nat × Load × List Span)) :=
  if l.cluster = 1 then (chooseCore l cs).map fun x => [x] else chooseCluster l n cs ((cs.map fun x => x.1 / 4).eraseDups)

/-- Loads with those of some cores replaced. -/
def withLoads (cs : List (Nat × Load)) (xs : List (Nat × Load × List Span)) : List (Nat × Load) :=
  cs.map fun c => match xs.find? fun x => decide (x.1 = c.1) with
    | some x => (c.1, x.2.1)
    | none => c

/-- Places units of some sizes in turn: each workgroup's core and its groups' places. -/
def placeUnits (l : Launch) : List Nat → List (Nat × Load) → Option (List (Nat × List Span))
  | [], _ => some []
  | n :: ns, cs =>
    match chooseUnit l n cs with
    | none => none
    | some xs => (placeUnits l ns (withLoads cs xs)).map fun r => xs.map (fun x => (x.1, x.2.2)) ++ r

/-- Units of dispatch of a grid (R197): its clusters. -/
def Launch.units (l : Launch) : Nat := l.count / l.cluster

/-- Stack blocks that a workgroup takes (R530). -/
def Launch.stackBlocks (l : Launch) : Nat := if l.stack = 0 then 0 else (l.groups * l.width + l.slabsPerBlock - 1) / l.slabsPerBlock

/-! The state's cores. -/

/-- What a core holds now. -/
def State.loadOf (s : State) (c : Nat) : Load :=
  s.wgs.foldl (fun x w =>
    if w.resident ∧ w.core = c then
      let l := s.launch w.id
      let spans := (List.range l.groups).filterMap fun g =>
        (s.fibres.find? fun f => decide (f.wg = w.id) && decide (f.grp = g) && decide (f.lane = 0)).map fun f => (⟨f.part, f.home.toNat, l.width, l.cover⟩ : Span)
      { x with spans := x.spans ++ spans, fibres := x.fibres + l.groups * l.width, gran := x.gran + l.gran.toNat, acc := x.acc + l.accKib.toNat, wgs := x.wgs + 1 }
    else x) { dicts := (s.core c).dicts.map (·.addr) }

/-- The cores of a die on which work of a world may be placed (R215, R524). -/
def State.openCores (s : State) (die : Nat) (world : Bool) : List (Nat × Load) :=
  ((List.range 24).map (24 * die + ·)).filterMap fun c =>
    if s.coreWorld c = world ∧ s.nextWorld c = world then some (c, s.loadOf c) else none

/-- The free stack blocks, lowest first (R530). -/
def State.freeBlocks (s : State) : List Nat := (List.range s.stkN).filter fun b => !(s.front.stackTaken.contains b)

/-- The die whose front end holds a queue (R487). -/
def queueDie (q : BitVec 8) : Nat := q.toNat / 128

/-- How many units a queue offers together: the whole of a persistent grid (R197). -/
def Launch.offer (l : Launch) : Nat := if l.persist then l.units else 1

/-- Where a head's workgroups would go (R195, R197); none where it does not fit. -/
def State.fitNew (s : State) (q : BitVec 8) (l : Launch) : Option (List (Nat × List Span)) :=
  if s.freeBlocks.length < l.offer * l.cluster * l.stackBlocks then none
  else placeUnits l (List.replicate l.offer l.cluster) (s.openCores (queueDie q) (s.queueWorld q))

/-- The frames that the first stack pages of a head's workgroups take (R530). -/
def Launch.stackPages (l : Launch) : Nat := if l.stack = 0 then 0 else 2 * l.offer * l.cluster * l.groups * l.width

/-- The fit tests of R193: one workgroup on an empty core, and a persistent grid on the empty cores of one die; every stack block counts as free (R530). -/
def State.fitsEmpty (s : State) (l : Launch) : Bool :=
  (({} : Load).place l).isSome && decide (l.stackBlocks ≤ s.stkN) &&
    (!l.persist || (decide (l.count ≤ 1536) && decide (l.count * l.stackBlocks ≤ s.stkN) && (placeUnits l (List.replicate l.units l.cluster) ((List.range 24).map fun c => (c, {}))).isSome))

/-! The start of a workgroup. -/

/-- The place of a level-3 entry in the tables (R445); none where no table stands. -/
def State.leafSlot (s : State) (va : Nat) : Option Nat :=
  match entryKind 1 (s.readEntry (s.ptRoot + 8 * bits va 47 34)) with
  | .table n => match entryKind 2 (s.readEntry (n + 8 * bits va 33 21)) with
    | .table m => some (m + 8 * bits va 20 16)
    | _ => none
  | _ => none

/-- Maps a zeroed frame of a die at a stack page (R530). -/
def State.mapStackPage (s : State) (die va : Nat) : State :=
  match s.popFrame die with
  | (none, s1) => s1
  | (some f, s1) =>
    let s2 := s1.installPage (framePa die f) []
    match s2.leafSlot va with
    | none => s2
    | some slot =>
      let s3 := s2.physWrite (s2.ftAddr die f) (leBytes 8 (slot / 8 * 8))
      let s4 := s3.setFt die f (ftInuse * 2 ^ 61 + 1 * 2 ^ 58 + s3.ftWord die f % 2 ^ 56)
      s4.physWrite slot (leBytes 8 (setFrame (BitVec.ofNat 64 (2 ^ 52 + 0x2D)) (framePa die f)).toNat)

/-- Maps the first pages of a workgroup's stacks (R175, R530). -/
def State.mapStacks (s : State) (die : Nat) (w : Workgroup) : State :=
  let l := s.launch w.id
  if l.stack = 0 then s
  else (List.range (l.groups * l.width)).foldl (fun (t : State) j =>
    (t.mapStackPage die (t.rstkBase w (j / l.width) (j % l.width))).mapStackPage die (t.stackTop w (j / l.width) (j % l.width) - 65536)) s

/-- The lowest free slot of a lane column (R434). -/
def State.freeColSlot (s : State) (core part : Nat) (home : Nat) : Nat :=
  ((List.range 16).find? fun i => !(s.fibres.any fun f => decide (f.core = core) && decide (f.part = part) && decide (f.home.toNat = home) && decide (f.colSlot.toNat = i) && (s.wg f.wg).resident)).getD 0

/-- A fibre at its start (R9, R16, R17, R142). -/
def State.newFibre (s : State) (w : Workgroup) (grp lane : Nat) (p : Span) : Fibre :=
  let l := s.launch w.id
  let sp := BitVec.ofNat 32 (s.stackTop w grp lane)
  { wg := w.id, grp := grp, lane := lane, pc := evenPc l.entry, rstk := BitVec.ofNat 48 (s.rstkBase w grp lane), alloc := l.regs.setWidth 10
    regs := sp :: List.replicate (l.regs.toNat - 1) 0
    gen := { stream := BitVec.ofNat 64 (w.k2.toNat * 2 ^ 12 + grp * 2 ^ 6 + lane) }
    core := w.core, part := p.part, home := BitVec.ofNat 6 (p.off + lane), colSlot := BitVec.ofNat 4 (s.freeColSlot w.core p.part (p.off + lane))
    seat := .pool s.order s.clock, notBefore := s.clock }

/-- The k registers of a group at its start (R16). -/
def startK (l : Launch) (k1 k2 : DWord) : List DWord := [l.args, k1, k2, BitVec.ofNat 64 l.count] ++ List.replicate 28 0

/-- The key under which a core reads dictionary tables at peers. -/
def dictKey (core : Nat) : FibreKey := ⟨0, 64, 64 + core⟩

/-- Reads a dictionary table of a core from the newest committed data, at level U (R51). -/
def State.readDict (s : State) (core : Nat) (addr : BitVec 64) : Eng (List Byte) :=
  if 2 ^ 48 ≤ addr.toNat then .stop s (apertureTrap addr.toNat)
  else State.engineFetch (dictKey core) none 4 s { level := .u, secure := s.coreWorld core, vid := 0 } (addr.setWidth 48) 8192

/-- Keeps a table's bytes as a core's resident copy (R51). -/
def State.fillDict (s : State) (core : Nat) (addr : BitVec 64) (bs : List Byte) : State :=
  (s.modCore core fun c => { c with dicts := (c.dicts.filter fun d => decide (d.addr ≠ addr)) ++ [{ addr := addr, filled := true, bytes := Memory.writeN [] 0 bs }] }).dropReplies (dictKey core)

/-- Whether a core can make ready its copy of a table for a workgroup that becomes resident (R51): it waits while the part resolves the table's pages. -/
def State.dictReady (s : State) (core : Nat) (addr : BitVec 64) : State × Bool :=
  if addr = 0 ∨ ((s.core core).dicts.any fun d => decide (d.addr = addr)) = true then (s, true)
  else match s.readDict core addr with
    | .ok s1 _ => (s1, true)
    | .stop s1 _ => (s1, true)
    | .wait s1 => (s1, false)

/-- The same for every core of a placement. -/
def State.dictsReady (s : State) (cores : List Nat) (addr : BitVec 64) : State × Bool :=
  cores.foldl (fun (r : State × Bool) c => ((r.1.dictReady c addr).1, r.2 && (r.1.dictReady c addr).2)) (s, true)

/-- A core's copy of the table of a workgroup that becomes resident (R51): one that cannot be read stays unfilled. -/
def State.takeDict (s : State) (core : Nat) (addr : BitVec 64) : State :=
  if addr = 0 ∨ ((s.core core).dicts.any fun d => decide (d.addr = addr)) = true then s
  else
    let s1 := s.modCore core fun c => { c with dicts := c.dicts ++ [{ addr := addr, filled := false, bytes := [] }] }
    match s1.readDict core addr with
    | .ok s2 bs => s2.fillDict core addr bs
    | .stop s2 _ => s2
    | .wait s2 => s2

/-- Seats the fibres of a group that start, as a new entry (R200). -/
def State.seatGroup (s : State) (w : Workgroup) (grp : Nat) (p : Span) : State :=
  s.seatClass w.core p.part fun f => decide (f.wg = w.id) && decide (f.grp = grp) && f.live

/-- Places one workgroup of a grid on a core (R195, R196), with its stacks and dictionary, and a snapshot boundary (R282). -/
def State.startWg (s : State) (g : Grid) (k2 : Nat) (core : Nat) (spans : List Span) : State :=
  let l := g.launch
  let blocks := (s.freeBlocks).take l.stackBlocks
  let w : Workgroup :=
    { id := s.ids, grid := g.id, x := BitVec.ofNat 16 (k2 % l.dimX.toNat), y := BitVec.ofNat 16 (k2 / l.dimX.toNat % l.dimY.toNat), z := BitVec.ofNat 16 (k2 / l.dimX.toNat / l.dimY.toNat)
      k2 := BitVec.ofNat 64 k2, crank := k2 % l.dimX.toNat % l.cluster, core := core, placed := s.clock, order := s.order, stackBlocks := blocks }
  let s1 : State := { s with ids := s.ids + 1, order := s.order + 1, wgs := s.wgs ++ [w], front := { s.front with stackTaken := s.front.stackTaken ++ blocks } }
  let s2 := s1.mapStacks (core / 24) w
  let groups := (List.range spans.length).map fun i => ({ wg := w.id, grp := i, kregs := startK l g.k1 (BitVec.ofNat 64 k2) } : Group)
  let fill := fun (t : State) (i : Nat) =>
    let p := spans.getD i ⟨0, 0, 0, 0⟩
    { t with fibres := t.fibres ++ (List.range l.width).map fun lane => t.newFibre w i lane p }
  let s3 : State := (List.range spans.length).foldl fill { s2 with groups := s2.groups ++ groups }
  let s4 := (s3.modGrid g.id fun x => { x with placed := x.placed + 1 }).takeDict core l.dict
  ((List.range spans.length).foldl (fun (t : State) i => t.seatGroup w i (spans.getD i ⟨0, 0, 0, 0⟩)) s4).snapshot core

/-- Places workgroups of a grid from its next one on (R197). -/
def State.startWgs (s : State) (g : Grid) (places : List (Nat × List Span)) : State :=
  (List.range places.length).foldl (fun (t : State) i =>
    let p := places.getD i (0, [])
    t.startWg g (g.placed + i) p.1 p.2) s

/-! The end of a workgroup's stacks. -/

/-- Unmaps one page of a stack region, whose frame goes back to its die's ring (R530), but for a quarantined one (R474). -/
def State.unmapStackPage (s : State) (va : Nat) : State :=
  match s.leafSlot va with
  | none => s
  | some slot =>
    let leaf := s.readEntry slot
    if !(leafV leaf) then s
    else
      let s1 := s.putLeaf slot (leaf &&& ~~~(1#64))
      match (if leafZ leaf then none else frameIndex (65536 * leafFrame leaf)) with
      | none => s1
      | some (d, f) => if ftState (s1.ftWord d f) = ftQuarantined then s1 else (s1.setFt d f (ftWith (s1.ftWord d f) ftFree 0)).pushFrame d f

/-- Unmaps a workgroup's slabs and frees its blocks, when it retires or is discarded (R530). -/
def State.freeStacks (s : State) (w : Workgroup) : State :=
  let l := s.launch w.id
  if l.stack = 0 then s
  else
    let pages := (List.range (l.groups * l.width)).flatMap fun j =>
      (List.range (l.slab / 65536)).map fun i => s.slabBase w (j / l.width) (j % l.width) + 65536 * i
    let s1 := pages.foldl (fun (t : State) va => t.unmapStackPage va) s
    { s1 with front := { s1.front with stackTaken := s1.front.stackTaken.filter fun b => !(w.stackBlocks.contains b) } }

end Sys2Proof.Machine
end

