-- ==== Sys2Proof/Machine/Front.lean ====
section
/-! DEFINITION. The front end's shared operations (21 R485 to R502): timelines and the interrupt, the completion of packets, the checks of a launch (08 R193; 14 R351; 15 R381), and the offer of its heads. -/

namespace Sys2Proof.Machine

/-- A front end as the maker of an access for a queue: at level U, in the queue's world (R493, R502). -/
def State.whoQueue (s : State) (q : BitVec 8) : Who := { level := .u, secure := s.queueWorld q, vid := 0 }

/-- The key under which a queue asks peers. -/
def queueKey (q : BitVec 8) : FibreKey := ⟨0, 65, 64 + q.toNat⟩

/-! Timelines. -/

/-- Whether a timeline satisfies a threshold (R497). -/
def satisfies (t h : DWord) : Bool := decide (0 ≤ (t - h).toInt)

/-- Whether a vector is masked in the MSI-X table (R485): bit 0 of its control word (PRESUMED, log 131). -/
def State.masked (s : State) (v : Nat) : Bool := (Memory.read s.front.msixTable (16 * v + 12)).getLsbD 0

/-- Fires an MSI-X vector (R486, R521): its message is sent, or it is pending while it is masked (log 76). -/
def State.fire (s : State) (v : Nat) : State :=
  let s1 : State := { s with front := { s.front with msix := v :: s.front.msix } }
  if s.masked v then { s1 with front := { s1.front with msixPending := v :: s.front.msixPending.filter fun x => decide (x ≠ v) } }
  else { s1 with front := { s1.front with msixSent := v :: s.front.msixSent } }

/-- A host write of a word of the MSI-X table (R485): a vector that is pending and no longer masked is sent. The pending-bit array is not written. -/
def State.msixWrite (s : State) (off : Nat) (v : Word) : State :=
  if 4112 ≤ off then s
  else
    let s1 : State := { s with front := { s.front with msixTable := Memory.writeN s.front.msixTable (off / 4 * 4) (leBytes 4 v.toNat) } }
    let due := s1.front.msixPending.filter fun x => !(s1.masked x)
    { s1 with front := { s1.front with msixPending := s1.front.msixPending.filter fun x => s1.masked x, msixSent := due ++ s1.front.msixSent } }

/-- The bytes of the MSI-X table and, after it, of the pending-bit array (R485; PRESUMED, log 131). -/
def State.msixByte (s : State) (off : Nat) : Byte :=
  if off < 4112 then Memory.read s.front.msixTable off
  else BitVec.ofNat 8 ((List.range 8).foldl (fun n i => n + if s.front.msixPending.contains (8 * (off - 4112) + i) then 2 ^ i else 0) 0)

/-- Fires a queue's vector when its timeline satisfies ARM (R486). -/
def State.checkArm (s : State) (q : BitVec 8) : State :=
  match (s.queue q).arm with
  | none => s
  | some h =>
    if satisfies (s.queue q).timeline h then
      (s.modQueue q fun x => { x with arm := none }).fire q.toNat
    else s

/-- Raises a timeline, writes its mirror and checks ARM (R498, R499). -/
def State.raise (s : State) (q : BitVec 8) (v : DWord) : State :=
  if 0 < (v - (s.queue q).timeline).toInt then
    let s1 := s.modQueue q fun x => { x with timeline := v }
    let s2 := if s.qMirror q = 0 then s1 else s1.frontWrite q (s.qMirror q) (leBytes 8 v.toNat)
    s2.checkArm q
  else s

/-! Completion. -/

/-- The grids of a packet. -/
def State.gridsOf (s : State) (q : BitVec 8) (id : Nat) : List Grid := s.grids.filter fun g => decide (g.queue = q) && decide (g.packet = id)

/-- Whether a packet may complete (R500). -/
def State.packetOver (s : State) (q : BitVec 8) (x : Flight) : Bool :=
  x.ended && (s.gridsOf q x.id).all fun g => g.done && (!g.launch.spec || g.settled)

/-- The status record of a packet (R501). -/
def Report.bytes (r : Report) : List Byte := [r.status, r.code] ++ leBytes 6 r.pc.toNat ++ leBytes 8 r.addr.toNat

def Flight.status (x : Flight) : Report := x.report.getD { status := 0, code := 0 }

/-- The last action of a completion (R500): the raise, after which the packet is gone with its grids. -/
def State.finishPacket (s : State) (q : BitVec 8) (x : Flight) : State :=
  let s1 := s.modQueue q fun y => { y with flights := y.flights.filter fun z => decide (z.id ≠ x.id) }
  let s2 : State := { s1 with grids := s1.grids.filter fun g => !(decide (g.queue = q) && decide (g.packet = x.id) && !(s1.wgs.any fun w => decide (w.grid = g.id))) }
  if bits (field x.record 153 1) 1 1 = 1 then s2.raise q (BitVec.ofNat 64 (field x.record 128 8)) else s2

/-- Writes what the ring has room for; a RESULT entry's packet then completes (R500, R502). -/
def State.flushDue : Nat → State → BitVec 8 → State
  | 0, s, _ => s
  | n + 1, s, q =>
    match (s.queue q).due with
    | [] => s
    | d :: r =>
      if s.ringFull q then s
      else
        let s1 := (s.putEntry q d).modQueue q fun y => { y with due := r }
        if d.kind = 1 then
          match (s1.queue q).flights.find? fun x => x.owes with
          | some x => State.flushDue n (s1.finishPacket q x) q
          | none => State.flushDue n s1 q
        else State.flushDue n s1 q

/-- Reads the bytes of a delivery, each page on its own; bytes that cannot be read are zero (R502). The flag says that some could not. -/
def State.readResult (q : BitVec 8) : Nat → State → VA → Nat → Eng (List Byte × Bool)
  | 0, s, _, _ => .ok s ([], false)
  | fuel + 1, s, va, n =>
    if n = 0 then .ok s ([], false)
    else
      let k := min n (65536 - va.toNat % 65536)
      let got := State.engineFetch (queueKey q) none 2 s (s.whoQueue q) va k
      match got with
      | .wait s1 => .wait s1
      | .stop s1 _ =>
        match State.readResult q fuel s1 (va + BitVec.ofNat 48 k) (n - k) with
        | .ok s2 (r, _) => .ok s2 (List.replicate k 0 ++ r, true)
        | .stop s2 t => .stop s2 t
        | .wait s2 => .wait s2
      | .ok s1 bs =>
        match State.readResult q fuel s1 (va + BitVec.ofNat 48 k) (n - k) with
        | .ok s2 (r, b) => .ok s2 (bs ++ r, b)
        | .stop s2 t => .stop s2 t
        | .wait s2 => .wait s2

/-- The RESULT entry of a packet (R502); none while its bytes have still to come. -/
def State.resultEntry (s : State) (q : BitVec 8) (x : Flight) : State × Option Delivery :=
  let n := field x.record 156 4
  let m := min n 224
  match State.readResult q 3 s (BitVec.ofNat 48 (field x.record 160 8)) m with
  | .ok s1 (bs, bad) =>
    (s1.dropReplies (queueKey q), some { kind := 1, status := x.status.status, flags := BitVec.ofNat 8 ((decide (224 < n)).toNat + 2 * bad.toNat), count := BitVec.ofNat 32 m, seq := x.seq, bytes := bs })
  | .stop s1 _ => (s1, none)
  | .wait s1 => (s1, none)

/-- The completion actions of a packet in order (R500): the status record, the delivery entry, the raise. -/
def State.completePacket (s : State) (q : BitVec 8) (x : Flight) : State :=
  let deliver := decide (bits (field x.record 153 1) 3 3 = 1)
  let pa := field x.record 136 8
  let write := fun (t : State) => if pa = 0 then t else t.frontWrite q pa x.status.bytes
  if deliver then
    match s.resultEntry q x with
    | (s1, none) => s1
    | (s1, some d) =>
      let s2 := write s1
      if s2.ringFull q then s2.modQueue q fun y => { y with due := y.due ++ [d], flights := y.flights.map fun z => if z.id = x.id then { z with owes := true } else z }
      else (s2.putEntry q d).finishPacket q x
  else (write s).finishPacket q x

/-! Launch checks. -/

/-- The copy ring of a record in order (R351). -/
def Launch.ringOk (l : Launch) : Bool :=
  let r := l.ring.toNat
  let n := l.ringLog2
  decide (bits r 31 27 = 0) && decide (bits l.notify.toNat 31 23 = 0) &&
    (if n = 0 then decide (l.ringOff = 0) && decide (l.notifyOff = 0)
     else decide (4 ≤ n) && decide (n ≤ 10) && decide (l.ringOff + 32 * l.ringSize ≤ l.padBytes) && decide (l.notifyOff + 8 ≤ l.padBytes) &&
       (decide (l.notifyOff + 8 ≤ l.ringOff) || decide (l.ringOff + 32 * l.ringSize ≤ l.notifyOff)))

/-- The checks of R193, R220 and R351, with those of R11, R49 and R82. -/
def State.launchOk (s : State) (l : Launch) : Bool :=
  decide (bits l.shape.toNat 15 14 = 0) && decide (l.clusCode ≠ 3) && !(l.fused && decide (l.clusCode = 0)) &&
    decide (l.dimX ≠ 0) && decide (l.dimY ≠ 0) && decide (l.dimZ ≠ 0) && decide (l.dimX.toNat % l.cluster = 0) &&
    decide (l.regs.toNat % 8 = 0) && decide (16 ≤ l.regs.toNat) && decide (l.regs.toNat ≤ 576) && decide (l.gran.toNat ≤ 8192) && decide (l.accKib.toNat ≤ 1024) &&
    decide (l.stack.toNat ≤ 0x80000000) && l.slots.all slotValid && l.sync.all (fun b => !(b.getLsbD 7)) &&
    decide (l.dict.toNat % 64 = 0) && decide (l.tensors.toNat % 64 = 0) && decide (bits l.wdist.toNat 39 32 ≤ 2) && l.ringOk && s.fitsEmpty l

/-- The parent that a speculative launch gives its version (R381): a COMMITTED one stands for the root. -/
def State.parentSlot (s : State) (l : Launch) : BitVec 6 := BitVec.ofNat 6 (vidSlot (s.actual (l.pvid.setWidth 10)))

/-- The checks of R381. -/
def State.versionOk (s : State) (l : Launch) : Bool :=
  let v := l.version
  let p : VID := l.pvid.setWidth 10
  let live := fun (x : Version) => decide (x.state = .live)
  decide (l.vid.toNat < 1024) && decide (l.pvid.toNat < 1024) &&
    (if !l.spec then decide (vidSlot v = 0) && decide (l.pvid = 0)
     else decide (vidSlot v ≠ 0) && decide (vidDomain v = vidDomain p) && s.domEnabled (vidDomain v) &&
       (decide (vidSlot p = 0) || (match s.version? p with | some x => !(decide (x.state = .squashed)) && !x.pred | none => false)) &&
       (match s.version? v with | some x => live x && decide (x.parent = s.parentSlot l) | none => true))

/-! Sequences (19 R469). -/

/-- The tables of a serving queue (R487): SEQTAB, KVRING, KVLOW and PRING. -/
def State.qSeqtab (s : State) (q : BitVec 8) : Nat := s.qField q 128 8
def State.qKvring (s : State) (q : BitVec 8) : Nat := s.qField q 136 8
def State.qKvlow (s : State) (q : BitVec 8) : Nat := s.qField q 144 4
def State.qPring (s : State) (q : BitVec 8) : Nat := s.qField q 148 8

/-- A front end's read at a virtual address of the device context, at the newest committed data (R470); none where it cannot be made. -/
def State.kvLoad (s : State) (q : BitVec 8) (va n : Nat) : Option (List Byte) :=
  match State.engineFetch (queueKey q) none 2 s (s.whoQueue q) (BitVec.ofNat 48 va) n with
  | .ok _ bs => some bs
  | .stop _ _ => none
  | .wait _ => none

/-- A front end's write at a virtual address (R470). -/
def State.kvStore (s : State) (q : BitVec 8) (va : Nat) (bs : List Byte) : Option State :=
  match s.engineTranslate (s.whoQueue q) (BitVec.ofNat 48 va) { write := true, read := false } bs.length 4 with
  | .ok s1 (pa, _) => if isMemory pa then some (s1.frontWrite q pa bs) else none
  | .stop _ _ => none
  | .wait _ => none

/-- The record of a sequence in a queue's table (R469). -/
def State.seqVa (s : State) (q : BitVec 8) (i : Nat) : Nat := s.qSeqtab q + 64 * i

/-- Whether a queue evicts at all (R470). -/
def State.evicts (s : State) (q : BitVec 8) : Bool := decide (s.qSeqtab q ≠ 0) && decide (s.qKvring q ≠ 0)

/-- The sequence that a launch of a queue belongs to (R469, log 64). -/
def State.seqOf (s : State) (q : BitVec 8) (record : List Byte) : Option Nat := if s.evicts q then Config.sequenceOf q record else none

/-- Whether a sequence is being evicted: its launches are held, in order (R469). -/
def State.seqHeld (s : State) (q : BitVec 8) (n : Option Nat) : Bool :=
  match n with
  | none => false
  | some i => decide (s.kvLoad q (s.seqVa q i + 32) 1 = some [2])

/-- The front end counts the launches of a sequence in INFL and, for each that it admits, in ADMIT (R469). -/
def State.countLaunch (s : State) (q : BitVec 8) (n : Option Nat) (started : Bool) : State :=
  match n with
  | none => s
  | some i =>
    match s.kvLoad q (s.seqVa q i) 64 with
    | none => s
    | some bs =>
      let infl := if started then field bs 34 2 + 1 else field bs 34 2 - 1
      let s1 := (s.kvStore q (s.seqVa q i + 34) (leBytes 2 infl)).getD s
      if started then (s1.kvStore q (s.seqVa q i + 24) (leBytes 8 (field bs 24 8 + 1))).getD s1 else s1

/-! Dispatch. -/

/-- A head that waits in a queue, of another packet than the one given, or of saved workgroups (R491, R503). -/
def State.headsHold (s : State) (q : BitVec 8) (id : Nat) : Bool :=
  (s.queue q).heads.any fun h => decide (h.restore ≠ []) || decide ((s.grid h.grid).packet ≠ id)

/-- What a dispatch comes to (R491, R496). -/
inductive Dispatch where
  | blocked
  | rejected (s : State)
  | taken (s : State)

/-- Dispatches a staging record (R491, R496): it is checked, and its grid's head is offered; one of a sequence that is being evicted is held (R469). -/
def State.dispatch (s : State) (q : BitVec 8) (p : Packet) : Dispatch :=
  let l := Launch.ofBytes p.record
  let sq := s.seqOf q p.record
  if s.ringStall q || s.headsHold q p.id || s.seqHeld q sq then .blocked
  else if !(s.launchOk l) then .rejected (s.reportPacket q p.id { status := 2, code := 1 })
  else if !(s.versionOk l) then .rejected (s.reportPacket q p.id { status := 2, code := 2 })
  else
    let g : Grid := { id := s.ids, launch := l, k1 := p.k1, queue := q, packet := p.id, seq := sq }
    let vs := if l.spec && (s.version? l.version).isNone then s.versions ++ [{ vid := l.version, state := .live, parent := s.parentSlot l }] else s.versions
    let s1 : State := { s.countLaunch q sq true with ids := s.ids + 1, grids := s.grids ++ [g], versions := vs }
    .taken (s1.modQueue q fun x => { x with heads := x.heads ++ [{ grid := g.id }] })

/-- A packet's program is over, and no further grid will come of it (R491, R500). -/
def State.endPacket (s : State) (q : BitVec 8) (id : Nat) : State :=
  s.modQueue q fun x => { x with packet := none, flights := x.flights.map fun y => if y.id = id then { y with ended := true } else y }

/-! Prefetch schedules. -/

/-- The row pieces of a tensor tile: their addresses and lengths (R255). -/
def tilePieces (x : Tensor) (tr tc : Nat) : List (VA × Nat) :=
  let n := min 64 (x.rbytes - 64 * tc)
  (List.range 16).filterMap fun i =>
    if x.rows ≤ 16 * tr + i ∨ n = 0 then none else some (x.base + BitVec.ofNat 48 (x.pitch * (16 * tr + i) + 64 * tc), n)

/-- The physical bytes of some row pieces, page by page, compressed pages being expanded; a piece on a page that is absent, poisoned or not readable, or that cannot be expanded yet, leaves none (R468). -/
def State.findPieces (s : State) (w : Who) : List (VA × Nat) → State × Option (List (VID × Nat × Nat))
  | [] => (s, some [])
  | (va, n) :: r =>
    let k := min n (65536 - va.toNat % 65536)
    let part := fun (t : State) (va : VA) (n : Nat) => if n = 0 then Eng.ok t [] else match t.engineTranslate w va {} n 4 with
      | .ok u (pa, v) => .ok u [(v, pa, n)]
      | .stop u e => .stop u e
      | .wait u => .wait u
    match part s va k with
    | .stop s1 _ => (s1, none)
    | .wait s1 => (s1, none)
    | .ok s1 a => match part s1 (va + BitVec.ofNat 48 k) (n - k) with
      | .stop s2 _ => (s2, none)
      | .wait s2 => (s2, none)
      | .ok s2 b => match State.findPieces s2 w r with
        | (s3, some c) => (s3, some (a ++ b ++ c))
        | (s3, none) => (s3, none)

/-- Fills the sectors of a tensor tile into their home L2 as committed data (R468); a tile that R468 skips only has the leaves that it walks marked. -/
def State.prefetchTile (s : State) (w : Who) (x : Tensor) (tr tc : Nat) : State :=
  match s.findPieces w (tilePieces x tr tc) with
  | (s1, none) => s1
  | (s1, some ps) => ps.foldl (fun (t : State) p => (t.l2Span p.1 p.2.1 p.2.2).1) s1

/-- Walks one entry of a schedule (R468): its tiles go to the L2, and compressed pages are expanded; an invalid entry is skipped. -/
def State.prefetchEntry (s : State) (q : BitVec 8) (c depth : Nat) (e : List Byte) : State :=
  let layer := field e 0 2
  let nrows := field e 20 2
  let ncols := field e 22 2
  if layer < c + 1 ∨ c + depth < layer ∨ nrows = 0 ∨ ncols = 0 then s
  else match s.tensor (queueKey q) none (s.whoQueue q) (BitVec.ofNat 64 (field e 8 8)) (field e 2 2) with
    | .ok s1 none => s1
    | .stop s1 _ => s1
    | .wait s1 => s1
    | .ok s1 (some x) =>
      (List.range (nrows * ncols)).foldl (fun (t : State) i => t.prefetchTile (t.whoQueue q) x (field e 4 4 + i / ncols) (field e 16 4 + i % ncols)) s1

/-- The prefetch that follows a change of a queue's layer (R468). -/
def State.prefetch (s : State) (q : BitVec 8) (c : Nat) : State :=
  let table := s.qField q 112 8
  if table = 0 then s
  else (List.range (s.qField q 120 2)).foldl (fun (t : State) i =>
    match State.engineFetch (queueKey q) none 3 t (t.whoQueue q) (BitVec.ofNat 48 (table + 32 * i)) 32 with
    | .ok u e => u.prefetchEntry q c (bits (t.qField q 122 1) 3 0) e
    | .stop u _ => u
    | .wait u => u) s

end Sys2Proof.Machine
end

