-- ==== Sys2Proof/Machine/GridOps.lean ====
section
/-! DEFINITION. Events of batches, grids and dispatch: merges and the pool (08 R202, R203), the work distributor (R221, R222), TOPK's end (09 R238, R239), a LAUNCH's append (R241), the dispatcher (R215 to R217; 21 R503), and the retirement of workgroups and grids (08 R218, R219; 11 R285). -/

namespace Sys2Proof.Machine

/-! Batches. -/

/-- ENTRY_MERGE (R202). -/
def execEntryMerge (s : State) : Out :=
  match s.arg with
  | .two core part => .next (State.mergeAll 64 s core part)
  | _ => .next s

/-- The clock at which a pooled fibre came to the pool. -/
def Fibre.pooledAt (f : Fibre) : Option Nat :=
  match f.seat with
  | .pool _ t => some t
  | .entry _ => none
  | .saved => none

/-- The entry of a partition that was allocated last. -/
def newestEntry (part : Nat) : List Entry → Option Entry
  | [] => none
  | e :: r =>
    if e.part ≠ part then newestEntry part r
    else match newestEntry part r with
      | none => some e
      | some x => if x.order < e.order then some e else some x

/-- POOL_STARVATION_TIMEOUT (R203): after 4,096 clocks the newest entry's fibres go to the pool, and its entry to the oldest pooled fibre. -/
def execPoolStarvationTimeout (s : State) : Out :=
  match s.arg with
  | .two core part =>
    match s.freeEntry core part, s.pooled core part, newestEntry part (s.core core).entries with
    | none, f :: _, some e =>
      if f.pooledAt.any fun t => decide (t + 4096 ≤ s.clock) then
        let s1 : State := { s with order := s.order + 1, fibres := s.fibres.map fun g =>
          if g.run ≠ .ended ∧ g.core = core ∧ g.part = part ∧ g.seat = .entry e.index then { g with seat := .pool s.order s.clock } else g }
        .next ((s1.pruneEntries core).refill core part)
      else .next s
    | _, _, _ => .next s
  | _ => .next s

/-! The work distributor. -/

/-- An answer of the distributor from its count (R220, R221). -/
def wdAnswer (wdist : BitVec 64) (s : Nat) : Word :=
  let w := wdist.toNat
  let ex := bits w 15 0
  let ey := bits w 31 16
  let ord := bits w 39 32
  let h := 2 ^ bits w 43 40
  if ex = 0 ∨ ey = 0 ∨ ex * ey ≤ s then 0xFFFFFFFF
  else
    let b0 := h * (s / (h * ex))
    let hb := min h (ey - b0)
    let r := s - b0 * ex
    let xy := match ord with
      | 0 => (s % ex, s / ex)
      | 1 => (s / ey, s % ey)
      | _ => (r / hb, b0 + r % hb)
    BitVec.ofNat 32 (xy.2 * 65536 + xy.1)

/-- Whether a request reaches its distributor after another: one that the same issue made before it (R224, R236). -/
def WdReq.behind (r x : WdReq) : Bool := x.answer.isNone && decide (x.grid = r.grid) && decide (x.asked = r.asked) && decide (x.n < r.n)

/-- WORK_DISTRIBUTOR_REQUEST (R221): requests of different issues reach the distributor in any order (log 43). -/
def execWorkDistributorRequest (s : State) : Out :=
  match s.arg with
  | .num n =>
    match s.mem.wdq.find? fun r => decide (r.n = n) && r.answer.isNone && !(s.mem.wdq.any r.behind) with
    | none => .next s
    | some r =>
      let g := s.grid r.grid
      let a := wdAnswer g.launch.wdist g.dist
      let s1 := s.modGrid r.grid fun x => { x with dist := min (x.dist + 1) (2 ^ 32 - 1) }
      .next { s1 with mem := { s1.mem with wdq := s1.mem.wdq.map fun x => if x.n = n then { x with answer := some a, since := s.clock } else x } }
  | _ => .next s

/-! TOPK. -/

/-- The rank of a key (R238): larger comes first; every NaN is below −∞. -/
def topkRank (ty : BitVec 2) (k : Word) : Int :=
  match ty.toNat with
  | 0 =>
    let mag := bits k.toNat 30 0
    if 0x7F800000 < mag then -2 ^ 32 else if k.msb then -(mag : Int) else mag
  | 1 => k.toInt
  | _ => k.toNat

/-- Inserts a key after every one of its rank or above (R238). -/
def topkInsert (x : Int × Word × Nat) : List (Int × Word × Nat) → List (Int × Word × Nat)
  | [] => [x]
  | y :: r => if y.1 < x.1 then x :: y :: r else y :: topkInsert x r

/-- The records that TOPK writes (R238). -/
def topkRecords (ty : BitVec 2) (keys : List Word) (k : Nat) : List Byte :=
  let all := (List.range keys.length).map fun i => (topkRank ty (keys.getD i 0), keys.getD i 0, i)
  let best := (all.foldl (fun acc x => topkInsert x acc) []).take k
  best.flatMap (fun x => leBytes 4 x.2.1.toNat ++ leBytes 4 x.2.2) ++ (List.replicate (k - best.length) (leBytes 4 0 ++ leBytes 4 0xFFFFFFFF)).flatten

/-- TOPK_COMPLETE (R238, R239). -/
def execTopkComplete (s : State) : Out :=
  match s.arg with
  | .num n =>
    match s.mem.topk.find? fun r => decide (r.n = n) with
    | none => .next s
    | some r =>
      let v := r.vid
      let keys := (List.range r.cnt).map fun i => leWord (s.padRead r.wg (r.src + 4 * i) 4)
      let out := topkRecords r.ty keys r.k
      if r.sf && !((granulesOf r.dst (8 * r.k)).all fun g => s.tagMeets r.wg g v .free) then .next s
      else
        let s1 := if r.sf then State.landRun v r.wg 10 s r.dst out else s.padWrite r.wg r.dst out
        .next { s1 with mem := { s1.mem with topk := s1.mem.topk.filter fun x => decide (x.n ≠ n) } }
  | _ => .next s

/-! LAUNCH. -/

/-- DEVICE_FIFO_APPEND (R241, R490): an image enters its queue after every earlier one of its group. -/
def execDeviceFifoAppend (s : State) : Out :=
  match s.arg with
  | .num n =>
    match s.mem.appends.find? fun a => decide (a.n = n) with
    | none => .next s
    | some a =>
      if s.fifoRoom a.queue && !(s.mem.appends.any fun b => decide (b.n < n) && decide (b.queue = a.queue) && decide (b.wg = a.wg) && decide (b.grp = a.grp)) then
        .next (a.fibs.foldl (fun (t : State) k => t.tryAgain k fun w => decide (w = .queueFull)) (s.fifoAppend a))
      else .next s
  | _ => .next s

/-! The dispatcher. -/

/-- Qeff (R217). -/
def State.qEff (s : State) (q : BitVec 8) : Nat :=
  let n := s.qQuantum q
  if s.qDraft q then max (n * (s.domain (s.qDomain q)).accept / 256) (n / 8) else n

/-- The number of a workgroup's cluster in its grid. -/
def State.clusterOf (s : State) (wg : Nat) : Nat := (s.wg wg).k2.toNat - (s.wg wg).crank

/-- How many of some saved workgroups stand in each of their clusters, in order. -/
def State.clusterSizes (s : State) (wgs : List Nat) : List Nat :=
  ((wgs.map s.clusterOf).eraseDups).map fun k => (wgs.filter fun w => decide (s.clusterOf w = k)).length

/-- Whether saved workgroups fit again, and where (R455). -/
def State.fitSaved (s : State) (q : BitVec 8) (l : Launch) (wgs : List Nat) : Option (List (Nat × List Span)) :=
  placeUnits l (s.clusterSizes wgs) (s.openCores (queueDie q) (s.queueWorld q))

/-- Whether a queue's head fits now (R195, R197, R455). -/
def State.headFits (s : State) (q : BitVec 8) : Bool :=
  match (s.queue q).heads with
  | [] => false
  | h :: _ =>
    let l := (s.grid h.grid).launch
    if h.restore ≠ [] then (s.fitSaved q l h.restore).isSome else (s.fitNew q l).isSome

/-- The queues of a die that are ready at a level (R215, R502). -/
def State.readyQueues (s : State) (die level : Nat) : List (BitVec 8) :=
  (s.front.queues.filter fun x => decide (queueDie x.q = die) && decide (s.qPrio x.q = level) && decide (x.due = []) && s.headFits x.q).map (·.q)

/-- Rounds of R216 until some queue's deficit is positive. -/
def State.rounds (s : State) (qs : List (BitVec 8)) : Nat :=
  if qs.any fun q => decide (0 < (s.queue q).deficit) then 0
  else match qs.map fun q => (-(s.queue q).deficit).toNat / s.qEff q + 1 with
    | [] => 0
    | n :: r => r.foldl min n

/-- A queue's deficit after a number of rounds (R216). -/
def State.topUp (s : State) (q : BitVec 8) (k : Nat) : Int :=
  let d := (s.queue q).deficit
  if k = 0 then d else min (d + k * s.qEff q) (s.qEff q)

/-- The rotating pointer of a die's level (R215). -/
def State.pointer (s : State) (die level : Nat) : BitVec 8 :=
  ((s.front.pointers.find? fun p => decide (p.1 = die) && decide (p.2.1 = level)).map (·.2.2)).getD 255

/-- The first of some queues in cyclic order after a pointer. -/
def firstAfter (p : BitVec 8) : List (BitVec 8) → Option (BitVec 8)
  | [] => none
  | q :: r => match firstAfter p r with
    | none => some q
    | some x => if BitVec.toNat (x - p - 1) < BitVec.toNat (q - p - 1) then some x else some q

/-- The choice of R216 at the levels from one down: the state with the deficits and pointer moved, and the queue that wins. -/
def State.choose (s : State) (die : Nat) : Nat → Option (State × BitVec 8)
  | 0 => none
  | n + 1 =>
    match s.readyQueues die n with
    | [] => State.choose s die n
    | qs =>
      let k := s.rounds qs
      let s1 := qs.foldl (fun (t : State) q => t.modQueue q fun x => { x with deficit := s.topUp q k }) s
      let top := qs.foldl (fun m q => max m (s1.queue q).deficit) 0
      match firstAfter (s.pointer die n) (qs.filter fun q => decide (0 < (s1.queue q).deficit) && decide ((s1.queue q).deficit = top)) with
      | none => none
      | some q =>
        some ({ s1 with front := { s1.front with pointers := (die, n, q) :: s1.front.pointers.filter fun p => !(decide (p.1 = die) && decide (p.2.1 = n)) } }, q)

/-- Notes, for each queue of a die, since when its head has not fitted (R503). -/
def State.noteUnfit (s : State) (die : Nat) : State :=
  let note := fun (x : Queue) =>
    if (queueDie x.q) ≠ die then x
    else if x.heads = [] ∨ s.headFits x.q = true then { x with unfit := none }
    else { x with unfit := some (x.unfit.getD s.clock) }
  { s with front := { s.front with queues := s.front.queues.map note } }

/-- Takes the head of a queue away once its last workgroups are placed. -/
def State.placedHead (s : State) (q : BitVec 8) (h : Head) : State :=
  if (s.grid h.grid).launch.count ≤ (s.grid h.grid).placed then s.modQueue q fun x => { x with heads := x.heads.drop 1 } else s

/-- The placement that a die's dispatcher has in hand (R530). -/
def State.placingOn (s : State) (die : Nat) : Option Placing := s.front.placing.find? fun p => decide (p.die = die)

/-- The dispatcher of a die has no placement in hand any more. -/
def State.placed (s : State) (die : Nat) : State := { s with front := { s.front with placing := s.front.placing.filter fun p => decide (p.die ≠ die) } }

/-- Places the head of a queue on its die (R51, R197, R530), once its dictionary tables are read and frames for its first stack pages are popped; `got` are those popped before. Until then the placement waits, and the die's dispatcher with it (log 114). -/
def State.placeHead (s : State) (q : BitVec 8) (h : Head) (got : List Nat) : State :=
  let die := queueDie q
  let g := s.grid h.grid
  let places := (s.fitNew q g.launch).getD []
  let r := s.dictsReady (places.map (·.1)) g.launch.dict
  let more := (r.1.pressOf die).free.take (g.launch.stackPages - got.length)
  if places ≠ [] ∧ r.2 = true ∧ got.length + more.length = g.launch.stackPages then
    (((r.1.placed die).modPress die fun p => { p with free := got ++ p.free }).startWgs g places).placedHead q h
  else
    let t := (r.1.placed die).modPress die fun p => { p with free := p.free.drop more.length }
    { t with front := { t.front with placing := { die := die, q := q, grid := h.grid, frames := got ++ more } :: t.front.placing } }

/-- A placement whose head has gone gives its frames back. -/
def State.dropPlacing (s : State) (p : Placing) : State := p.frames.foldl (fun (t : State) f => t.pushFrame p.die f) (s.placed p.die)

/-- DISPATCH_HEAD (R215, R216): a die's dispatcher places the head of the queue that wins, when it is of new workgroups; a placement that waits goes on first. -/
def execDispatchHead (s : State) : Out :=
  match s.arg with
  | .die d =>
    let s0 := s.noteUnfit d
    if s.power.low then .next s0
    else match s0.placingOn d with
      | some p => match (s0.queue p.q).heads with
        | h :: _ => .next (if h.grid = p.grid ∧ h.restore = [] then s0.placeHead p.q h p.frames else s0.dropPlacing p)
        | [] => .next (s0.dropPlacing p)
      | none => match s0.choose d 4 with
        | none => .next s0
        | some (s1, q) =>
          match (s1.queue q).heads with
          | [] => .next s0
          | h :: _ => if h.restore ≠ [] then .next s0 else .next (s1.placeHead q h [])
  | _ => .next s

/-! Retirement. -/

/-- Whether a workgroup's issued work is over (R219). -/
def State.wgIdle (s : State) (w : Nat) : Bool :=
  s.fibres.all (fun f => decide (f.wg ≠ w) || decide (f.run = .ended)) &&
    s.mem.loads.all (fun l => decide (l.fib.wg ≠ w)) && s.mem.stores.all (fun p => decide (p.fib.wg ≠ w)) && s.mem.atomics.all (fun p => decide (p.fib.wg ≠ w)) &&
    s.mem.wdq.all (fun r => decide (r.wg ≠ w)) && s.mem.topk.all (fun r => decide (r.wg ≠ w)) && s.mem.appends.all (fun a => decide (a.wg ≠ w)) && s.mem.posts.all (fun p => decide (p.fib.wg ≠ w)) &&
    !(s.copyBusy w s.order) && !(s.matrixBusy w s.order) && !(s.linkBusy w s.order s.ids) && !(s.cores.any fun c => c.mcmds.any fun m => decide (m.wg = w))

/-- What a workgroup's time on its core costs its queue (R218): C clocks, G groups of width w. -/
def wgCost (c : Nat) (l : Launch) : Nat := (c * l.groups * l.width + 255) / 256

/-- Charges a queue (R218). -/
def Queue.charge (x : Queue) (n : Nat) : Queue := { x with deficit := max (x.deficit - n) (-2 ^ 39) }

/-- Frees what a workgroup holds of its core: its place, tasks and dictionary share, and lets a change of the core's world take effect (R219, R51, R369, R524). -/
def State.leaveCore (s : State) (w : Workgroup) : State :=
  let l := s.launch w.id
  let others := s.wgs.filter fun x => x.resident && decide (x.core = w.core) && decide (x.id ≠ w.id)
  let shared := others.any fun x => decide ((s.launch x.id).dict = l.dict)
  let next := s.nextWorld w.core
  (s.modCore w.core fun c =>
    { c with dicts := if shared then c.dicts else c.dicts.filter fun d => decide (d.addr ≠ l.dict)
             world := if others = [] then next else c.world }).pruneEntries w.core

/-- Retires a workgroup (R219, R362, R530). -/
def State.retireWg (s : State) (w : Workgroup) : State :=
  let l := s.launch w.id
  let g := s.grid w.grid
  let s1 := (s.freeStacks w).modQueue g.queue fun x => x.charge (wgCost (s.clock - w.placed) l)
  let s2 : State := { s1 with
    fibres := s1.fibres.filter fun f => decide (f.wg ≠ w.id)
    groups := s1.groups.filter fun x => decide (x.wg ≠ w.id)
    mem := { s1.mem with
      peers := s1.mem.peers.filter fun r => decide (r.fib.wg ≠ w.id)
      slots := (s1.mem.slots.map fun m => { m with ranks := m.ranks.filter fun r => decide (m.wgs.getD r 0 ≠ w.id) }).filter fun m => decide (m.ranks ≠ []) } }
  let s3 := s2.modCore w.core fun c => { c with tasks := c.tasks.filter fun t => decide (t.wg ≠ w.id) }
  let s4 := s3.leaveCore w
  ({ s4 with wgs := s4.wgs.filter fun x => decide (x.id ≠ w.id) } : State).modGrid w.grid fun x => { x with retired := x.retired + 1 }

/-- Discards a saved workgroup of a squashed version (R398, R454, R530). -/
def State.discardWg (s : State) (w : Workgroup) : State :=
  let s1 := s.freeStacks w
  let s2 : State := { s1 with
    fibres := s1.fibres.filter fun f => decide (f.wg ≠ w.id)
    groups := s1.groups.filter fun x => decide (x.wg ≠ w.id)
    wgs := s1.wgs.filter fun x => decide (x.id ≠ w.id)
    front := { s1.front with saveHeld := s1.front.saveHeld - w.saved } }
  s2.modGrid w.grid fun x => { x with retired := x.retired + 1 }

/-- WORKGROUP_RETIRE (R219, R398). -/
def execWorkgroupRetire (s : State) : Out :=
  match s.arg with
  | .num n =>
    match s.wg? n with
    | none => .next s
    | some w => .next (if w.resident && !w.stopping && s.wgIdle n then s.retireWg w else if !w.resident && (s.grid w.grid).dead then s.discardWg w else s)
  | _ => .next s

/-- Whether the last workgroup of a grid has retired, and nothing it wrote is on its way to the host (R219, R285). -/
def State.gridIdle (s : State) (g : Grid) : Bool :=
  !g.done && decide (g.retired = g.placed) && !((s.queue g.queue).heads.any fun h => decide (h.grid = g.id)) && decide (s.hostDirty = []) && decide (s.mem.pubs = [])

/-- A grid that is over: it counts in INFL no more (19 R469). -/
def State.endGrid (s : State) (g : Grid) : State := (s.countLaunch g.queue g.seq false).modGrid g.id fun x => { x with done := true }

/-- The increment of DONE (R285, R391): a DONE that is misaligned or does not translate is reported; none while it waits. -/
def State.incrementDone (s : State) (g : Grid) : Option State :=
  let a := g.launch.doneW
  let bad := fun (t : State) => some (t.report g.id { status := 6, code := 0, addr := a })
  let va : VA := a.setWidth 48
  let fib := queueKey g.queue
  if a.toNat % 8 ≠ 0 ∨ ownAperture ≤ va.toNat then bad s
  else match s.engineTranslate (s.whoQueue g.queue) va (atomicNeed .add) 8 4 with
    | .wait _ => none
    | .stop s1 _ => bad s1
    | .ok s1 (pa, _) =>
      let v := g.launch.version
      if s1.isRoot v then some (s1.issueEffect { vid := v, pa := pa, data := [], obs := 0x17, fib := fib, va := va })
      else if (s1.domain (vidDomain v)).effects.length < effectRoom then
        some (s1.modDomain (vidDomain v) fun x => { x with effects := x.effects ++ [{ vid := v, pa := pa, data := [], obs := 0x17, fib := fib, va := va }] })
      else none

/-- GRID_RETIRE (R219, R285, R391, R398). -/
def execGridRetire (s : State) : Out :=
  match s.arg with
  | .num n =>
    match s.grid? n with
    | none => .next s
    | some g =>
      if !(s.gridIdle g) then .next s
      else
        if g.launch.doneW = 0 ∨ g.dead = true then .next (s.endGrid g)
        else match s.incrementDone g with
          | none => .next s
          | some s1 => .next (s1.endGrid g)
  | _ => .next s

end Sys2Proof.Machine
end

