-- ==== Sys2Proof/Machine/QueueOps.lean ====
section
/-! DEFINITION. The words of a queue's program (21 R492 to R496). Each acts on the packet in hand of the queue `curQ`, counts one unit of budget, and moves to the next word through the loops that end there. -/

namespace Sys2Proof.Machine

/-! Running a program. -/

/-- Leaves or repeats the loops whose body ends at the packet's word (R493). -/
def Packet.settlePc : Nat → Packet → Packet
  | 0, p => p
  | n + 1, p =>
    match p.loops with
    | [] => p
    | (first, len, left) :: r =>
      if p.pc ≠ first + len then p
      else if left = 0 then Packet.settlePc n { p with loops := r }
      else { p with pc := first, loops := (first, len, left - 1) :: r }

/-- Goes on at a word (R493); loops nest at most four deep (R494). -/
def Packet.goto (p : Packet) (pc : Nat) : Packet := Packet.settlePc 5 { p with pc := pc, stage := .program }

/-- Goes on with the next word. -/
def Packet.next (p : Packet) : Packet := p.goto (p.pc + 1)

/-- Counts a word's unit of budget, once however long it waits (R493, R495). -/
def Packet.charge (p : Packet) : Packet := if p.stage = .program then { p with used := p.used + 1 } else p

/-- A queue register (R492). -/
def Packet.r (p : Packet) (n : BitVec 4) : DWord := p.regs.getD n.toNat 0

def Packet.setR (p : Packet) (n : BitVec 4) (x : DWord) : Packet := { p with regs := p.regs.set n.toNat x }

def State.putPacket (s : State) (q : BitVec 8) (p : Packet) : State := s.modQueue q fun x => { x with packet := some p }

/-- Ends a packet with PROGFAULT at its word (R495). -/
def State.progFault (s : State) (q : BitVec 8) (p : Packet) : State :=
  (s.reportPacket q p.id { status := 3, code := 0, pc := BitVec.ofNat 48 p.pc }).endPacket q p.id

/-- Runs a word of the program of queue `curQ`, unless the budget has run out (R495). -/
def State.runQ (s : State) (h : State → BitVec 8 → Packet → State) : State :=
  match s.curQ with
  | none => s
  | some q =>
    match (s.queue q).packet with
    | none => s
    | some p =>
      if p.stage = .entryWait then s
      else if p.stage = .program ∧ s.qBudget q ≤ p.used then s.progFault q p
      else h s q p.charge

/-- A word that changes only the packet in hand. -/
def State.packetWord (s : State) (f : Packet → Packet) : State := s.runQ fun t q p => t.putPacket q (f p).next

/-- A word that computes a register from two (R493). -/
def State.qalu (s : State) (d a b : BitVec 4) (op : DWord → DWord → DWord) : State := s.packetWord fun p => p.setR d (op (p.r a) (p.r b))

/-! Arithmetic. -/

/-- QLI (R493). -/
def execQli (d : BitVec 4) (i : BitVec 16) (s : State) : Out := .next (s.packetWord fun p => p.setR d (i.signExtend 64))

/-- QLSH (R493). -/
def execQlsh (d : BitVec 4) (i : BitVec 16) (s : State) : Out := .next (s.packetWord fun p => p.setR d (p.r d * 65536 + i.setWidth 64))

/-- QADDI (R493). -/
def execQaddi (d a : BitVec 4) (i : BitVec 16) (s : State) : Out := .next (s.packetWord fun p => p.setR d (p.r a + i.signExtend 64))

/-- QADD (R493). -/
def execQadd (d a b : BitVec 4) (s : State) : Out := .next (s.qalu d a b fun x y => x + y)

/-- QSUB (R493). -/
def execQsub (d a b : BitVec 4) (s : State) : Out := .next (s.qalu d a b fun x y => x - y)

/-- QAND (R493). -/
def execQand (d a b : BitVec 4) (s : State) : Out := .next (s.qalu d a b fun x y => x &&& y)

/-- QOR (R493). -/
def execQor (d a b : BitVec 4) (s : State) : Out := .next (s.qalu d a b fun x y => x ||| y)

/-- QXOR (R493). -/
def execQxor (d a b : BitVec 4) (s : State) : Out := .next (s.qalu d a b fun x y => x ^^^ y)

/-- QSHL (R493). -/
def execQshl (d a b : BitVec 4) (s : State) : Out := .next (s.qalu d a b fun x y => x <<< (y.toNat % 64))

/-- QSHR (R493). -/
def execQshr (d a b : BitVec 4) (s : State) : Out := .next (s.qalu d a b fun x y => x >>> (y.toNat % 64))

/-- QMUL (R493). -/
def execQmul (d a b : BitVec 4) (s : State) : Out := .next (s.qalu d a b fun x y => x * y)

/-- QDIVU (R493, R31): a zero divisor gives all ones. -/
def execQdivu (d a b : BitVec 4) (s : State) : Out := .next (s.qalu d a b fun x y => if y = 0 then ~~~(0 : DWord) else x / y)

/-- QMINU (R493). -/
def execQminu (d a b : BitVec 4) (s : State) : Out := .next (s.qalu d a b fun x y => if y.toNat < x.toNat then y else x)

/-! The staging record and memory windows. -/

/-- QLDP (R493). -/
def execQldp (d : BitVec 4) (o : BitVec 16) (s : State) : Out := .next (s.packetWord fun p => p.setR d (BitVec.ofNat 64 (field p.record o.toNat 8)))

/-- QSTP (R493). -/
def execQstp (d : BitVec 4) (o : BitVec 16) (s : State) : Out := .next (s.packetWord fun p => { p with record := splice p.record o.toNat (leBytes 8 (p.r d).toNat) })

/-- The byte of a window that a window word names, if the window holds the 8 bytes (R495): a + OFF, which wraps as all the arithmetic of a program does. -/
def State.windowByte (s : State) (q : BitVec 8) (p : Packet) (a : BitVec 4) (w : BitVec 2) (o : BitVec 14) : Option VA :=
  let x := (p.r a + o.setWidth 64).toNat
  if x % 8 ≠ 0 ∨ s.qWsize q w.toNat < x + 8 ∨ ownAperture ≤ (s.qWbase q w.toNat + x) % 2 ^ 48 then none
  else some (BitVec.ofNat 48 (s.qWbase q w.toNat + x))

/-- What QLDM does (R493, R495): it waits for what the part resolves. -/
def State.windowLoad (d a : BitVec 4) (w : BitVec 2) (o : BitVec 14) (s : State) (q : BitVec 8) (p : Packet) : State :=
  match s.windowByte q p a w o with
  | none => s.progFault q p
  | some va =>
    match State.engineFetch (queueKey q) none 2 s (s.whoQueue q) va 8 with
    | .wait s1 => s1
    | .stop s1 _ => s1.progFault q p
    | .ok s1 bs => (s1.dropReplies (queueKey q)).putPacket q (p.setR d (leDWord bs)).next

/-- QLDM (R493). -/
def execQldm (d a : BitVec 4) (w : BitVec 2) (o : BitVec 14) (s : State) : Out := .next (s.runQ (State.windowLoad d a w o))

/-- What QSTM does (R493, R495). -/
def State.windowStore (d a : BitVec 4) (w : BitVec 2) (o : BitVec 14) (s : State) (q : BitVec 8) (p : Packet) : State :=
  match s.windowByte q p a w o with
  | none => s.progFault q p
  | some va =>
    match s.engineTranslate (s.whoQueue q) va { write := true, read := false } 8 4 with
    | .wait s1 => s1
    | .stop s1 _ => s1.progFault q p
    | .ok s1 (pa, _) =>
      let bs := leBytes 8 (p.r d).toNat
      let s2 := match regionOf pa with
        | .peer x => (s1.sendPeer (queueKey q) x pa va (.store bs) (.lanes []) false).2
        | _ => s1.physWrite pa bs
      s2.putPacket q p.next

/-- QSTM (R493). -/
def execQstm (d a : BitVec 4) (w : BitVec 2) (o : BitVec 14) (s : State) : Out := .next (s.runQ (State.windowStore d a w o))

/-! Branches and loops. -/

/-- A branch (R493): forward by a number of words, if taken. -/
def State.qbranch (s : State) (off : Nat) (taken : Packet → Bool) : State :=
  s.runQ fun t q p => t.putPacket q (if taken p then p.goto (p.pc + 1 + off) else p.next)

/-- QBR (R493). -/
def execQbr (o : BitVec 16) (s : State) : Out := .next (s.qbranch o.toNat fun _ => true)

/-- QBZ (R493). -/
def execQbz (a : BitVec 4) (o : BitVec 16) (s : State) : Out := .next (s.qbranch o.toNat fun p => decide (p.r a = 0))

/-- QBNZ (R493). -/
def execQbnz (a : BitVec 4) (o : BitVec 16) (s : State) : Out := .next (s.qbranch o.toNat fun p => decide (p.r a ≠ 0))

/-- QBLTU (R493). -/
def execQbltu (a b : BitVec 4) (o : BitVec 12) (s : State) : Out := .next (s.qbranch o.toNat fun p => decide ((p.r a).toNat < (p.r b).toNat))

/-- QLOOP (R493): the next `len` words run `n` times. -/
def execQloop (n l : BitVec 8) (s : State) : Out :=
  .next (s.runQ fun t q p => t.putPacket q (({ p with loops := (p.pc + 1, l.toNat, n.toNat - 1) :: p.loops }).goto (p.pc + 1)))

/-! Timelines and the layer. -/

/-- QWAIT (R493, R498): a packet that waits already has its threshold and queue in its stage. -/
def execQwait (a : BitVec 4) (x : BitVec 8) (s : State) : Out :=
  .next (s.runQ fun t q p =>
    let w := match p.stage with
      | .qwait v r => (v, r)
      | _ => (p.r a, x)
    t.putPacket q (if satisfies (t.queue w.2).timeline w.1 then p.next else { p with stage := .qwait w.1 w.2 }))

/-- QSIG (R493). -/
def execQsig (a : BitVec 4) (s : State) : Out := .next (s.runQ fun t q p => (t.raise q (p.r a)).putPacket q p.next)

/-- QTLR (R493). -/
def execQtlr (d : BitVec 4) (x : BitVec 8) (s : State) : Out := .next (s.packetWord fun p => p.setR d (s.queue x).timeline)

/-- QLAYER (R493): a change of the layer starts the prefetch of R468. -/
def execQlayer (a : BitVec 4) (s : State) : Out :=
  .next (s.runQ fun t q p =>
    let c : BitVec 16 := (p.r a).setWidth 16
    let t1 := t.modQueue q fun x => { x with layer := c }
    (if (t.queue q).layer = c then t1 else t1.prefetch q c.toNat).putPacket q p.next)

/-! Dispatch. -/

/-- QGO (R493, R496): it waits while the queue's dispatch is blocked (R491, R502, R503). -/
def execQgo (s : State) : Out :=
  .next (s.runQ fun t q p =>
    match t.dispatch q p with
    | .blocked => t.putPacket q { p with stage := .dispatch }
    | .rejected u => u.endPacket q p.id
    | .taken u => u.endPacket q p.id)

/-- QREPEAT (R493, R495, R496): the program runs again with q14 one more. -/
def execQrepeat (s : State) : Out :=
  .next (s.runQ fun t q p =>
    if t.qRepmax q ≤ p.repeats then t.progFault q p
    else match t.dispatch q p with
      | .blocked => t.putPacket q { p with stage := .dispatch }
      | .rejected u => u.endPacket q p.id
      | .taken u => u.putPacket q { p.setR 14 (p.r 14 + 1) with pc := 0, loops := [], stage := .program, repeats := p.repeats + 1 })

/-- QCANCEL (R493). -/
def execQcancel (c : BitVec 8) (s : State) : Out :=
  .next (s.runQ fun t q p => (t.reportPacket q p.id { status := 1, code := c }).endPacket q p.id)

end Sys2Proof.Machine
end

