-- ==== Sys2Proof/Machine/HostOps.lean ====
section
/-! DEFINITION. Events of the host and of the queues (21): doorbells (R485, R486, R490, R502), BAR2 (R485, R486), the enabling of a queue with the checks of its descriptor and program (R487, R488, R494; 23 R526), and the handling of packets (R491, R498, R500). -/

namespace Sys2Proof.Machine

/-! Doorbells. -/

/-- Any doorbell write leaves LOW (23 R529). -/
def State.wake (s : State) : State := { s with power := { s.power with low := false } }

/-- Whether a ring index lies from HEAD up to a TAIL (R490). -/
def covered (head tail idx : BitVec 32) : Bool := decide ((idx - head).toNat < (tail - head).toNat)

/-- The arrivals of a queue after a TAIL write (R490): every index from HEAD up to the latest TAIL, new ones last. -/
def Queue.withTail (x : Queue) (tail : BitVec 32) : Queue :=
  let keep := x.arrivals.filter fun a => match a with
    | .ring i => covered x.head tail i
    | .fifo _ _ => true
  let have_ := (keep.filter fun a => match a with
    | .ring _ => true
    | .fifo _ _ => false).length
  { x with tail := tail, arrivals := keep ++ (List.range ((tail - x.head).toNat - have_)).map fun k => .ring (x.head + BitVec.ofNat 32 (have_ + k)) }

/-- DOORBELL_TAIL (R490). -/
def execDoorbellTail (s : State) : Out :=
  match s.arg with
  | .queueVal q v => .next (s.wake.modQueue q fun x => x.withTail (v.setWidth 32))
  | _ => .next s

/-- DOORBELL_DRIDX (R502): entries that are due go into the ring. -/
def execDoorbellDridx (s : State) : Out :=
  match s.arg with
  | .queueVal q v =>
    let s1 := s.wake.modQueue q fun x => { x with dridx := v.setWidth 32 }
    .next (State.flushDue ((s1.queue q).due.length + 1) s1 q)
  | _ => .next s

/-- DOORBELL_ARM (R486): it arms the vector once; one that is satisfied fires at once. -/
def execDoorbellArm (s : State) : Out :=
  match s.arg with
  | .queueVal q v => .next ((s.wake.modQueue q fun x => { x with arm := some v }).checkArm q)
  | _ => .next s

/-! BAR2, and the host's reads. -/

/-- The physical address behind a BAR2 offset (R485); none outside the window. -/
def State.bar2Pa (s : State) (off : Nat) : Option Nat := if off < 2 ^ 34 then some (s.bar2win.toNat * 2 ^ 34 + off) else none

/-- Whether a physical address names device memory. -/
def deviceMemory (pa : Nat) : Bool :=
  match regionOf pa with
  | .hbm _ => true
  | .cxl => true
  | .host => false
  | .control => false
  | .peer _ => false
  | .none => false

/-- A host write, in pieces of at most 64 aligned bytes, each at a stamp of its own (R486); one to a secure region, or where no device memory is, is dropped (R524). -/
def State.hostWrite : Nat → State → Nat → List Byte → State
  | 0, s, _, _ => s
  | n + 1, s, pa, bs =>
    if bs = [] then s
    else
      let k := 64 - pa % 64
      let s1 := if s.secureAt pa || !(deviceMemory pa) then s else s.physWrite pa (bs.take k)
      State.hostWrite n s1 (pa + k) (bs.drop k)

/-- HOST_BAR2_WRITE (R486). -/
def execHostBar2Write (s : State) : Out :=
  match s.arg with
  | .bytesAt off data =>
    match s.bar2Pa off with
    | some pa => .next (State.hostWrite (data.length / 64 + 2) s pa data)
    | none => .next s
  | _ => .next s

/-- What a queue is doing, as QSTATE shows it (R485, R491, R502). -/
def State.qstate (s : State) (q : BitVec 8) : Nat :=
  if !(s.qEnabled q) then 0
  else if s.ringStall q then 4
  else match (s.queue q).packet with
    | none => if (s.queue q).heads = [] then 1 else 5
    | some p => match p.stage with
      | .entryWait => 2
      | .qwait _ _ => 2
      | .program => 3
      | .dispatch => 5

/-- The bytes that a doorbell page reads (R485): a register that the host only writes reads zero. -/
def State.doorbell (s : State) (q : BitVec 8) : List Byte :=
  let x := s.queue q
  leBytes 4 0 ++ leBytes 4 x.head.toNat ++ leBytes 4 x.dwidx.toNat ++ leBytes 4 0 ++ leBytes 8 x.timeline.toNat ++ leBytes 8 0 ++ leBytes 8 (s.qstate q)

/-- What a host read of device memory answers (R485, R524): the newest committed data, all ones of a secure region, and free values where there is no device memory. -/
def State.bar2Byte (s : State) (pa i : Nat) : Byte :=
  if s.secureAt pa then 0xFF else if deviceMemory pa then s.newestByte pa else (Config.freeValue (s.fresh + i)).setWidth 8

/-- Records what a host read answered. -/
def State.answerHost (s : State) (bs : List Byte) : State := { s with front := { s.front with reads := bs :: s.front.reads } }

/-- HOST_BAR2_READ (R485): a read of `n` bytes of device memory at a BAR2 offset, or of a BAR0 register: a doorbell page, the MSI-X table, BAR2WIN, or the control space, where a read of FRPOP or CXLPOP pops (R459, R520). -/
def execHostBar2Read (s : State) : Out :=
  match s.arg with
  | .two off n =>
    match s.bar2Pa off with
    | some pa => .next (({ s with fresh := s.fresh + n } : State).answerHost ((List.range n).map fun i => s.bar2Byte (pa + i) i))
    | none => .next s
  | .control off n _ =>
    if off < 0x100000 then .next (s.answerHost (slice (s.doorbell (BitVec.ofNat 8 (off / 4096)) ++ List.replicate 8 0) (off % 4096) n))
    else if off < 0x200000 then .next (s.answerHost ((List.range n).map fun i => s.msixByte (off - 0x100000 + i)))
    else if off < 0x1000000 then .next (s.answerHost (slice (leBytes 8 s.bar2win.toNat) (off - 0x200000) n))
    else
      let r := s.ctlRead (off - 0x1000000) n
      .next (r.1.answerHost r.2)
  | _ => .next s

/-! The enabling of a queue. -/

/-- The checks of a descriptor in the order of its bytes: a field's first byte, and whether the field is in its range (R487, R488; 19 R468). -/
def State.descriptorChecks (s : State) (q : BitVec 8) : List (Nat × Bool) :=
  let f := s.qField q
  let between := fun (lo hi v : Nat) => decide (lo ≤ v) && decide (v ≤ hi)
  let window := fun (w : Nat) => [(64 + 16 * w, decide (f (64 + 16 * w) 8 % 8 = 0)), (72 + 16 * w, decide (f (72 + 16 * w) 4 % 8 = 0)), (76 + 16 * w, decide (f (76 + 16 * w) 4 ≤ 1))]
  let fifoEnd := f 16 8 + 256 * 2 ^ f 9 1 - 1
  [(0, decide (f 0 8 % 256 = 0)), (8, between 4 16 (f 8 1)), (9, between 2 10 (f 9 1)), (11, decide (f 11 1 < 32)), (12, between 8 (2 ^ 24) (f 12 4)),
   (16, decide (regionOf (f 16 8) = .hbm (queueDie q)) && decide (regionOf fifoEnd = .hbm (queueDie q))), (24, decide (f 24 8 % 4 = 0)), (32, between 1 1024 (f 32 2)),
   (34, decide (16 ≤ f 34 2)), (48, decide (f 48 8 % 256 = 0)), (56, between 4 16 (f 56 1)), (57, decide (f 57 7 = 0))] ++
    window 0 ++ window 1 ++ window 2 ++
    [(122, decide (f 122 1 < 16) && (decide (f 112 8 = 0) || decide (1 ≤ f 122 1))), (123, decide (f 123 5 = 0)), (156, decide (f 156 36 = 0))]

/-- The first descriptor field that is not in order. -/
def State.badField (s : State) (q : BitVec 8) : Option Nat := ((s.descriptorChecks q).find? fun c => !c.2).map (·.1)

/-- Bytes that a queue reads at physical addresses (R487): what no memory holds, or a secure region keeps from it, reads zero; host memory is read itself. -/
def State.frontRead (s : State) (q : BitVec 8) (pa n : Nat) : List Byte :=
  (List.range n).map fun i => if isMemory (pa + i) && !(s.secureAt (pa + i) && !s.queueWorld q) then s.polledByte (pa + i) else 0

/-- The words of a queue's program (R487, R494). -/
def State.readProgram (s : State) (q : BitVec 8) : List Word :=
  (List.range (s.qField q 32 2)).map fun i => leWord (s.frontRead q (s.qField q 24 8 + 4 * i) 4)

/-- The loop bodies of a program: first word and the word after the last (R494). -/
def loopBodies (ws : List Word) : List (Nat × Nat) :=
  (List.range ws.length).filterMap fun i => match (ws[i]?).bind decodeQ with
    | some (.qloop n l) => if n ≠ 0 ∧ l ≠ 0 ∧ i + 1 + l.toNat ≤ ws.length then some (i + 1, i + 1 + l.toNat) else none
    | _ => none

/-- The bodies that hold a word. -/
def bodiesAt (bodies : List (Nat × Nat)) (i : Nat) : List (Nat × Nat) := bodies.filter fun b => decide (b.1 ≤ i) && decide (i < b.2)

/-- The innermost of some bodies: the shortest. -/
def innermost : List (Nat × Nat) → Option (Nat × Nat)
  | [] => none
  | b :: r => match innermost r with
    | none => some b
    | some c => if b.2 - b.1 < c.2 - c.1 then some b else some c

/-- Whether a branch at a word may go to a target (R494, reason 2). -/
def branchOk (n : Nat) (bodies : List (Nat × Nat)) (i target : Nat) : Bool :=
  decide (target < n) && decide (innermost (bodiesAt bodies target) = innermost (bodiesAt bodies i))

/-- Whether a loop at a word is in order (R494, reason 3). -/
def loopOk (n : Nat) (bodies : List (Nat × Nat)) (i reps len : Nat) : Bool :=
  let a := i + 1
  let b := i + 1 + len
  decide (reps ≠ 0) && decide (len ≠ 0) && decide (b ≤ n) &&
    !(bodies.any fun x => decide (a < x.2) && decide (x.1 < b) && !(decide (a ≤ x.1) && decide (x.2 ≤ b)) && !(decide (x.1 ≤ a) && decide (b ≤ x.2))) &&
    decide ((bodiesAt bodies i).length < 4)

/-- Whether a window word is in order (R494, reason 5). -/
def State.windowOk (s : State) (q : BitVec 8) (w : BitVec 2) (o : BitVec 14) (store : Bool) : Bool :=
  decide (w ≠ 0) && decide (s.qWsize q w.toNat ≠ 0) && (!store || decide (s.qWwr q w.toNat % 2 = 1)) && decide (o.toNat % 8 = 0)

/-- The reason for which a program is refused at a word, 0 for none, but for the last word's (R494). -/
def State.wordReason (s : State) (q : BitVec 8) (n : Nat) (bodies : List (Nat × Nat)) (i : Nat) (w : Word) : Nat :=
  match decodeQ w with
  | none => 1
  | some (.qbr o) => if branchOk n bodies i (i + 1 + o.toNat) then 0 else 2
  | some (.qbz _ o) => if branchOk n bodies i (i + 1 + o.toNat) then 0 else 2
  | some (.qbnz _ o) => if branchOk n bodies i (i + 1 + o.toNat) then 0 else 2
  | some (.qbltu _ _ o) => if branchOk n bodies i (i + 1 + o.toNat) then 0 else 2
  | some (.qloop r l) => if loopOk n bodies i r.toNat l.toNat then 0 else 3
  | some (.qldp _ o) => if o.toNat % 8 = 0 ∧ o.toNat ≤ 248 then 0 else 4
  | some (.qstp _ o) => if o.toNat % 8 = 0 ∧ o.toNat ≤ 248 then 0 else 4
  | some (.qldm _ _ x o) => if s.windowOk q x o false then 0 else 5
  | some (.qstm _ _ x o) => if s.windowOk q x o true then 0 else 5
  | some .qrepeat => if s.qRepmax q = 0 then 6 else 0
  | some _ => 0

/-- Whether a word may be a program's last (R494, reason 7). -/
def mayEnd (w : Word) : Bool :=
  match decodeQ w with
  | some .qgo => true
  | some .qrepeat => true
  | some (.qcancel _) => true
  | _ => false

/-- The first word at which a program is refused, with the reason (R494). -/
def State.badWord (s : State) (q : BitVec 8) (ws : List Word) : Option (Nat × Nat) :=
  let bodies := loopBodies ws
  ((List.range ws.length).map fun i =>
    let w := ws.getD i 0
    let r := s.wordReason q ws.length bodies i w
    (i, if r = 0 ∧ i + 1 = ws.length ∧ mayEnd w = false then 7 else r)).find? fun x => decide (x.2 ≠ 0)

/-- ERR and ERRW of a queue's descriptor (R488). -/
def State.setErr (s : State) (q : BitVec 8) (err errw : Nat) : State := s.setCtl (qDesc q + 37) 3 (err + 256 * errw)

/-- Extends a measurement register (R526). -/
def State.extendMeas (s : State) (i : Nat) (data : List Byte) : State :=
  { s with meas := s.meas.modify i fun m => Config.sha384 (leBytes 48 m.toNat ++ leBytes 48 (Config.sha384 data).toNat) }

/-- Writes EN of a queue's descriptor. -/
def State.setQen (s : State) (q : BitVec 8) (on : Bool) : State :=
  let b := s.qField q 10 1
  s.setCtl (qDesc q + 10) 1 (b / 16 * 16 + b % 8 + 8 * on.toNat)

/-- QUEUE_ENABLE (R488, R494, R526): EN is written 1; the timeline's change may satisfy ARM (R486). -/
def execQueueEnable (s : State) : Out :=
  match s.arg with
  | .queue q =>
    if s.qEnabled q then .next s
    else match s.badField q with
      | some off => .next (s.setErr q 8 off)
      | none =>
        let ws := s.readProgram q
        match s.badWord q ws with
        | some (i, why) => .next (s.setErr q why i)
        | none =>
          let s1 := ((s.setErr q 0 0).setQen q true).extendMeas 3 (ws.flatMap fun w => leBytes 4 w.toNat)
          .next ((s1.modQueue q fun x => { x with timeline := 0, head := 0, tail := 0, dwidx := 0, dridx := 0, arrivals := [], fifoAt := 0, seq := 0, program := ws }).checkArm q)
  | _ => .next s

/-- QUEUE_DISABLE (R488): the queue takes no further packet. -/
def execQueueDisable (s : State) : Out :=
  match s.arg with
  | .queue q => .next (s.setQen q false)
  | _ => .next s

/-! Packets. -/

/-- The packet of an arrival, and the queue after the take (R490): a ring's or the FIFO's slot is read now; HEAD advances after the read. -/
def State.takeArrival (s : State) (q : BitVec 8) (a : Arrival) : List Byte × DWord × BitVec 32 :=
  match a with
  | .fifo slot k1 => (s.physRead (s.fifoSlot q slot) 256, k1, (s.queue q).head)
  | .ring i => (s.frontRead q (s.qRing q + 256 * (i.toNat % 2 ^ s.qLog2h q)) 256, 0, (s.queue q).head + 1)

/-- The stage that follows the entry wait (R491). -/
def stageOf (record : List Byte) : PStage := if bits (field record 153 1) 4 4 = 1 then .dispatch else .program

/-- PACKET_TAKE (R491): a queue takes its next packet, unless it has one in hand or stalls on its ring. -/
def execPacketTake (s : State) : Out :=
  match s.arg with
  | .queue q =>
    let x := s.queue q
    if !(s.qEnabled q) || s.ringStall q || x.packet.isSome then .next s
    else match x.arrivals with
      | [] => .next s
      | a :: rest =>
        let t := s.takeArrival q a
        let rec_ := t.1
        let p : Packet := { id := s.ids, seq := x.seq, k1 := t.2.1, record := rec_, orig := rec_, regs := List.replicate 15 0 ++ [BitVec.ofNat 64 x.seq]
                            stage := if bits (field rec_ 153 1) 0 0 = 1 then .entryWait else stageOf rec_ }
        let s1 : State := { s with ids := s.ids + 1 }
        .next (s1.modQueue q fun y => { y with head := t.2.2, arrivals := rest, seq := y.seq + 1, packet := some p, flights := y.flights ++ [{ id := p.id, seq := p.seq, record := rec_ }] })
  | _ => .next s

/-- TIMELINE_WAIT_RELEASE (R491, R498): an entry wait or a QWAIT whose threshold is satisfied is over. -/
def execTimelineWaitRelease (s : State) : Out :=
  match s.arg with
  | .queue q =>
    match (s.queue q).packet with
    | none => .next s
    | some p =>
      match p.stage with
      | .entryWait =>
        let t := (s.queue (BitVec.ofNat 8 (field p.orig 152 1))).timeline
        .next (if satisfies t (BitVec.ofNat 64 (field p.orig 144 8)) then s.putPacket q { p with stage := stageOf p.orig } else s)
      | .qwait v r => .next (if satisfies (s.queue r).timeline v then s.putPacket q p.next else s)
      | .program => .next s
      | .dispatch => .next s
  | _ => .next s

/-- PACKET_COMPLETE (R500, R502): the oldest packet of a queue completes once it is over. -/
def execPacketComplete (s : State) : Out :=
  match s.arg with
  | .queue q =>
    match (s.queue q).flights with
    | [] => .next s
    | x :: _ => .next (if s.packetOver q x && !x.owes && !(s.ringStall q) then s.completePacket q x else s)
  | _ => .next s

end Sys2Proof.Machine
end

