-- ==== Sys2Proof/Machine/MemEvents.lean ====
section
/-! DEFINITION. Events of the memory: accesses in flight come to their end (06 R166, R168; 11 R287), waiting accesses proceed (10 R250), publications complete (11 R277), DRAM answers and victims (10 R261 to R265), posts to a notify word (14 R352), and write-through to the host (11 R291). -/

namespace Sys2Proof.Machine

/-! Accesses in flight. -/

/-- Whether a load must await an earlier one of its fibre: they read bytes in common (R165, R289), or fill registers in common (R166). -/
def PLoad.after (l : PLoad) (x : PLoad) : Bool :=
  decide (x.fib = l.fib) && decide (x.n < l.n) && (overlap x.pa x.size l.pa l.size || (match x.dst, l.dst with
    | .lanes a, .lanes b => a.any b.contains
    | .k a, .k b => decide (a = b)
    | _, _ => false))

/-- LOAD_DATA_RETURN (R166): loads of a fibre return in any order (R288), but for those that have bytes or registers in common; one whose data cannot be had yet stays. -/
def execLoadDataReturn (s : State) : Out :=
  match s.arg with
  | .num n => match s.mem.loads.find? fun l => decide (l.n = n) with
    | some l => .next (if s.blocked l || s.mem.loads.any l.after then s else s.returnLoad l)
    | none => .next s
  | _ => .next s

/-- STORE_LANDS (R168): a fibre's stores land in program order (R288). -/
def execStoreLands (s : State) : Out :=
  match s.arg with
  | .num n => match s.mem.stores.find? fun p => decide (p.n = n) with
    | some p =>
      if (s.mem.stores.find? fun x => decide (x.fib = p.fib)).map (·.n) = some n then .next (s.landPending p) else .next s
    | none => .next s
  | _ => .next s

/-- ATOMIC_AT_HOME (R287): atomics of a fibre are performed in any order (R288), but for those that must await an earlier access. -/
def execAtomicAtHome (s : State) : Out :=
  match s.arg with
  | .num n => match s.mem.atomics.find? fun p => decide (p.n = n) with
    | some p => .next (if s.heldBack p then s else s.performPending p)
    | none => .next s
  | _ => .next s

/-! Waiting accesses. -/

/-- The issue that a fibre's entry would make. -/
def Fibre.issue? (f : Fibre) : Option Issue :=
  match f.seat with
  | .entry i => some { core := f.core, part := f.part, entry := i }
  | .pool _ _ => none
  | .saved => none

/-- Settles the entry of fibres that have gone on past an instruction at which others of it still wait (R201). -/
def State.settleFor (s : State) (f : Fibre) (gone : List FibreKey) : State :=
  match f.issue? with
  | none => s.mirror
  | some c =>
    let rest := ((s.liveMembers c).filter fun x => !(gone.contains x.key)).map Fibre.key
    s.settle c (if rest = [] then s.keepLowest c gone else rest)

/-- A fibre that waits takes a fault at the instruction at which it waits (R249, R444). -/
def State.waitTrap (s : State) (f : Fibre) (t : Trap) : State :=
  match f.issue? with
  | none => s
  | some c => (s.modFibre f.key fun x => { x with wait := none }).afterTraps c [(f.key, t)]

/-! Publications, DRAM and the L2. -/

/-- PUBLICATION_COMPLETE (R277): publications complete in stamp order. -/
def execPublicationComplete (s : State) : Out :=
  match s.mem.pubs with
  | [] => .next s
  | p :: _ => .next (s.completePub p)

/-- DRAM_ANSWER (R262, R265, R268): a fill of a granule, with the fetch of the line's overflowed frames (R263), or the freeing of a way of a full set. -/
def execDramAnswer (s : State) : Out :=
  match s.arg with
  | .dram line (.fill sector) => .next ((s.useLine line).fill line sector)
  | .dram line .victim => .next (s.freeWay line)
  | _ => .next s

/-! Posts and write-through. -/

/-- NOTIFY_POST (R352): an atomic reaches the notify word; those of a fibre do so in program order (R165). -/
def execNotifyPost (s : State) : Out :=
  match s.arg with
  | .num n => match s.mem.posts.find? fun p => decide (p.n = n) with
    | some p => .next (if (s.mem.posts.find? fun x => decide (x.fib = p.fib)).map (·.n) = some n then s.landPost p else s)
    | none => .next s
  | _ => .next s

/-- HOST_WRITE_THROUGH (R291): a line's published host-page bytes reach host memory. -/
def execHostWriteThrough (s : State) : Out :=
  match s.arg with
  | .num line => .next (if s.hostDirty.contains line then s.writeThrough line else s)
  | _ => .next s

end Sys2Proof.Machine
end

