-- ==== Sys2Proof/Machine/PeerOps.lean ====
section
/-! DEFINITION. Events of the other dies and devices (22): accesses of peers at this device, their replies to this device's own (R509 to R512), and failures of the die-to-die link (R506). -/

namespace Sys2Proof.Machine

/-! A peer's access at this device. -/

/-- The version in which an arriving access is made (R511): none when the one that it names is FREE or SQUASHED. -/
def State.arrivingVid (s : State) (v : VID) : Option VID :=
  if vidSlot v = 0 then some v
  else match s.version? v with
    | some x => match x.state with
      | .live => some v
      | .committed => some (vidOf (vidDomain v) 0)
      | .squashed => none
    | none => none

/-- What an access needs of its page. -/
def PeerOp.need (op : PeerOp) : Need :=
  match op with
  | .load _ => {}
  | .store _ => { write := true, read := false }
  | .atomic _ _ _ _ => { write := true, read := true }

/-- How many bytes an access covers. -/
def PeerOp.size (op : PeerOp) : Nat :=
  match op with
  | .load n => n
  | .store bs => bs.length
  | .atomic _ wide _ _ => if wide then 8 else 4

/-- An arriving store lands (R511): in a version's frames, or at stamps of its own, at most 64 aligned bytes in each. -/
def State.landPeer (v : VID) : Nat → State → Nat → List Byte → State
  | 0, s, _, _ => s
  | n + 1, s, pa, bs =>
    if bs = [] then s
    else
      let k := 64 - pa % 64
      State.landPeer v n (s.writeNewest v (cellsAt pa (bs.take k)) false) (pa + k) (bs.drop k)

/-- Performs an access at its physical address, and what it answers (R511; 10 R265, R268; 11 R287; 15 R385). -/
def State.servePeer (s : State) (v : VID) (pa : Nat) (op : PeerOp) : State × PeerAns :=
  match op with
  | .load n => ((s.l2Span v pa n).1, .data (s.l2Span v pa n).2)
  | .store bs => (State.landPeer v (bs.length / 64 + 2) s pa bs, .ack)
  | .atomic op wide b e =>
    let r := s.atomicHome v pa op wide false b e
    (r.1, .data (leBytes (if wide then 8 else 4) r.2.1.toNat))

/-- Sends the answer of an arriving access. -/
def State.answerPeer (s : State) (r : PeerIn) (a : PeerAns) : State := { s with mem := { s.mem with answered := (r, a) :: s.mem.answered } }

/-- Whether an arriving access stores. -/
def PeerOp.isStore (op : PeerOp) : Bool :=
  match op with
  | .store _ => true
  | .load _ => false
  | .atomic _ _ _ _ => false

/-- PEER_REQUEST (R510, R511): an access of a peer is translated at U and performed; while the part resolves its page, it stays. -/
def execPeerRequest (s : State) : Out :=
  match s.arg with
  | .request r =>
    match s.arrivingVid r.rvid with
    | none => .next (s.answerPeer r (if r.op.isStore then .ack else .error))
    | some v =>
      if ownAperture < r.va.toNat + r.op.size then .next (s.answerPeer r .error)
      else match s.engineTranslate { level := .u, secure := false, vid := v } r.va r.op.need r.op.size 4 with
        | .wait s1 => .next { s1 with agenda := s1.agenda ++ [.event .peerRequest (.request r)] }
        | .stop s1 t => .next (s1.answerPeer r (if t.code = .poison then .poison else .error))
        | .ok s1 (pa, u) =>
          if isMemory pa then
            let x := s1.servePeer u pa r.op
            .next (x.1.answerPeer r x.2)
          else .next (s1.answerPeer r .error)
  | _ => .next s

/-! A peer's reply. -/

/-- Removes a request. -/
def State.endPeer (s : State) (n : Nat) : State := { s with mem := { s.mem with peers := s.mem.peers.filter fun r => decide (r.n ≠ n) } }

/-- A posted write that failed (R509, R511): ERRVA and ERRCNT of its window, and the report to the queue. -/
def State.failedPost (s : State) (r : PeerReq) : State :=
  let d := winDesc r.window
  let s1 := if s.ctlNat (d + 20) 8 = 0 then s.setCtl (d + 20) 8 r.va.toNat else s
  let s2 := s1.setCtl (d + 28) 4 (min (2 ^ 32 - 1) (s1.ctlNat (d + 28) 4 + 1))
  s2.reportPacket r.queue r.packet { status := 4, code := BitVec.ofNat 8 Code.pageProtection.num, pc := r.pc }

/-- The fault that a peer's answer gives (R511). -/
def PeerReq.trap (r : PeerReq) (a : PeerAns) : Trap := memTrap (if a = .poison then .poison else .pageProtection) r.va r.op.need 0

/-- The fibres that made a request: its own, those that made it together, and those that wait for it at their instruction (R107, R511). -/
def State.askersOf (s : State) (r : PeerReq) : List Fibre :=
  s.fibres.filter fun f => decide (f.run ≠ .ended) && (decide (f.key = r.fib) || r.with_.contains f.key || decide (f.wait.map Wait.why = some (.peer r.n)))

/-- Fibres take the fault of a reply at the instruction that made the request (R511); those of a saved unit take it once they are restored. -/
def State.peerTrap (s : State) (r : PeerReq) (fs : List Fibre) (t : Trap) : State :=
  match fs with
  | [] => s
  | f :: _ =>
    let keys := fs.map Fibre.key
    let s1 : State := { s with fibres := s.fibres.map fun x => if keys.contains x.key then { x with pc := r.pc, rep := r.rep, wait := none } else x }
    match f.issue? with
    | some c => s1.afterTraps c (fs.map fun x => (x.key, t))
    | none => fs.foldl (fun (u : State) x => u.modFibre x.key fun y => { y with wait := some { why := .trap t (lanesOf x.key keys), since := s.clock } }) s1

/-- Whether a reply answers a compare that failed (R162). -/
def PeerReq.casFailed (r : PeerReq) (bs : List Byte) : Bool :=
  match r.op with
  | .atomic .cas wide _ e => decide (leDWord bs ≠ if wide then e else (e.setWidth 32).setWidth 64)
  | _ => false

/-- A reply's data reaches its registers, under what the fibre has stored there and an effect buffer still holds (R391); a failed ACAS demotes its entry (R162), and an acquire has its second half (R291). -/
def State.peerData (s : State) (r : PeerReq) (bs : List Byte) : State :=
  match s.fibre? r.fib with
  | none => s
  | some f =>
    let s1 := s.deliver r.fib r.dst (s.underEffects r.fib (s.fibreVid f) r.pa bs)
    let s2 := match f.issue? with
      | some c => if r.casFailed bs then s1.demote c else s1
      | none => s1
    s2.acquireSide f.core r.acq

/-- A reply that is a fault (R511): a quiet fibre's load writes 0 (R205), and the others take the fault. -/
def State.peerFault (s : State) (r : PeerReq) (a : PeerAns) : State :=
  let all := s.askersOf r
  let zeroed := (all.filter s.quiet).foldl (fun (t : State) f => t.deliver f.key r.dst (List.replicate r.op.size 0)) s
  zeroed.peerTrap r (all.filter fun f => f.live && !(s.quiet f)) (r.trap a)

/-- Changes a request that waits. -/
def State.modPeer (s : State) (n : Nat) (h : PeerReq → PeerReq) : State :=
  { s with mem := { s.mem with peers := s.mem.peers.map fun r => if r.n = n then h r else r } }

/-- The fibres that wait at an instruction for a request try it again. -/
def State.retryFor (s : State) (n : Nat) : State :=
  { s with fibres := s.fibres.map fun x => if x.wait.map Wait.why = some (.peer n) then x.waiting .data s.clock else x }

/-- Takes a reply to a request that waits (R511): into registers, as a record that its instruction or its engine takes, or as a fault. -/
def State.takeReply (s : State) (r : PeerReq) (a : PeerAns) : State :=
  match a, r.dst with
  | .data bs, .record => (s.modPeer r.n fun x => { x with got := some bs }).retryFor r.n
  | .data bs, _ => (s.endPeer r.n).peerData r bs
  | _, _ => if 64 ≤ r.fib.lane then s.modPeer r.n fun x => { x with bad := some (r.trap a).code } else (s.endPeer r.n).peerFault r a

/-- Whether a request overlaps an earlier store of its fibre that is not yet acknowledged: its reply comes later (R512). -/
def PeerReq.behind (r x : PeerReq) : Bool :=
  decide (x.fib = r.fib) && !x.waits && decide (x.n < r.n) && decide (x.window = r.window) && overlap x.rva.toNat x.op.size r.rva.toNat r.op.size

/-- PEER_REPLY (R511, R512). -/
def execPeerReply (s : State) : Out :=
  match s.arg with
  | .reply n a =>
    match s.mem.peers.find? fun r => decide (r.n = n) with
    | none => .next s
    | some r =>
      if r.waits then .next (if r.got.isSome || r.bad.isSome || decide (a = .ack) || s.mem.peers.any r.behind then s else s.takeReply r a)
      else match a with
        | .ack => .next (s.endPeer n)
        | .data _ => .next (s.endPeer n)
        | .poison => .next ((s.endPeer n).failedPost r)
        | .error => .next ((s.endPeer n).failedPost r)
  | _ => .next s

/-! The die-to-die link. -/

/-- Fires the device-status vector (R521). -/
def State.statusVector (s : State) : State := s.fire 256

/-- D2D_LANE_FAILURE (R506): the lane is out of service, which changes timing only. -/
def execD2dLaneFailure (s : State) : Out := .next s

/-- Sets LINK, reports it and stops the device (R506, R521, R528). -/
def State.stopFor (s : State) (why : Stop) : State :=
  let old := s.ctlNat 0x28 8
  let s1 := if bits old 15 15 = 1 then s else (s.setCtl 0x28 8 (old + 2 ^ 15)).statusVector
  { s1 with stopped := some why }

/-- D2D_LINK_FAILURE (R506): no further access completes. -/
def execD2dLinkFailure (s : State) : Out := .next (s.stopFor .link)

end Sys2Proof.Machine
end

