-- ==== Sys2Proof/Machine/Collective.lean ====
section
/-! DEFINITION. Events of the collective engine (22 R514 to R518; 23 R521): topology tables, the ring of commands and its notify pair, and the commands. Each command runs in two waves, partial results up its tree and then an answer down, so that every node learns of a mismatch before it completes. -/

namespace Sys2Proof.Machine

/-! Topology tables. -/

/-- The control-space offset of a topology slot's image (R520). -/
def topoDesc (slot : Nat) : Nat := 0x100000 + 0x4000 * slot

/-- The number of the first check of R514 that a table fails, in their order; 0 for none. -/
def tableFault (station : Nat) (bs : List Byte) : Nat :=
  let n := field bs 0 2
  let self := field bs 2 2
  let entry := fun (i : Nat) => field bs (16 + 8 * i) 8
  let parent := fun (i : Nat) => bits (entry i) 25 16
  let stn := fun (i : Nat) => bits (entry i) 9 0
  let all := List.range n
  if n < 1 ∨ 1024 < n then 1
  else if field bs 4 12 ≠ 0 ∨ (all.any fun i => decide (bits (entry i) 63 26 ≠ 0) || decide (bits (entry i) 15 10 ≠ 0)) = true then 2
  else if parent 0 ≠ 0x3FF then 3
  else if (all.any fun i => decide (1 ≤ i) && decide (i ≤ parent i)) = true then 4
  else if ((all.map stn).eraseDups).length ≠ n then 5
  else if n ≤ self then 6
  else if stn self ≠ station then 7
  else 0

/-- Bytes that the collective engine reads at a physical address; a secure region is closed to it while it is not secure (R524). -/
def State.collRead (s : State) (pa n : Nat) : List Byte :=
  (List.range n).map fun i => if isMemory (pa + i) && !(s.secureAt (pa + i) && !s.collWorld) then s.newestByte (pa + i) else 0

/-- CLSTATE and CLWHY (R521). -/
def State.setCl (s : State) (state why : Nat) : State := s.setCtl 0x38 8 (state * 2 ^ 16 + why)

/-- COLLECTIVE_TABLE_LOAD (R514, R521): a write of `v` to the load register. -/
def execCollectiveTableLoad (s : State) : Out :=
  match s.arg with
  | .num v =>
    let pa := bits v 49 4 * 16
    let slot := v % 16
    let bit : BitVec 16 := 1#16 <<< slot
    let s0 := s.setCtl 0x30 8 (v % 2 ^ 50)
    let n := field (s.collRead pa 2) 0 2
    let bs := s.collRead pa (16 + 8 * min n 1024)
    match tableFault s.station bs with
    | 0 =>
      let s1 : State := { s0 with ctl := Memory.writeN (Memory.clear s0.ctl (topoDesc slot) 0x4000) (topoDesc slot) bs }
      .next (({ s1 with coll := { s1.coll with valid := s1.coll.valid ||| bit } } : State).setCl 1 0)
    | why => .next (({ s0 with coll := { s0.coll with valid := s0.coll.valid &&& ~~~bit } } : State).setCl 2 why)
  | _ => .next s

/-- A node's own index in a slot's table. -/
def State.topoSelf (s : State) (t : BitVec 4) : Nat := s.ctlNat (topoDesc t.toNat + 2) 2
def State.topoCount (s : State) (t : BitVec 4) : Nat := s.ctlNat (topoDesc t.toNat) 2
def State.topoEntry (s : State) (t : BitVec 4) (i : Nat) : Nat := s.ctlNat (topoDesc t.toNat + 16 + 8 * i) 8
def State.topoStn (s : State) (t : BitVec 4) (i : Nat) : BitVec 10 := BitVec.ofNat 10 (s.topoEntry t i)
def State.topoParent (s : State) (t : BitVec 4) (i : Nat) : Nat := bits (s.topoEntry t i) 25 16

/-- The children of this node in a tree. -/
def State.topoChildren (s : State) (t : BitVec 4) : List Nat :=
  (List.range (s.topoCount t)).filter fun i => decide (1 ≤ i) && decide (s.topoParent t i = s.topoSelf t)

/-! The ring. -/

/-- The collective engine as the maker of an access (R516, R524). -/
def State.whoColl (s : State) : Who := { level := .u, secure := s.collWorld, vid := 0 }

/-- The key under which the engine asks peers. -/
def collKey (n : Nat) : FibreKey := ⟨0, 67, 64 + n⟩

/-- What an engine's write comes to. -/
inductive Wrote where
  | done (s : State)
  | fault (s : State)
  | waits (s : State)

/-- Writes a few bytes at a virtual address, at a stamp of their own. -/
def State.collWrite (s : State) (va : Nat) (bs : List Byte) : Wrote :=
  match s.engineTranslate s.whoColl (BitVec.ofNat 48 va) { write := true, read := false } bs.length 4 with
  | .wait s1 => .waits s1
  | .stop s1 _ => .fault s1
  | .ok s1 (pa, _) =>
    match regionOf pa with
    | .peer w => .done (s1.sendPeer (collKey 0) w pa (BitVec.ofNat 48 va) (.store bs) (.lanes []) false).2
    | _ => .done (s1.physWrite pa bs)

/-- COLLECTIVE_RING_CONFIG (R516, R521): a write of `v` to CRLOG2. -/
def execCollectiveRingConfig (s : State) : Out :=
  match s.arg with
  | .num v =>
    let n := v % 16
    if n ≠ 0 ∧ (n < 4 ∨ 10 < n) then .next s
    else if s.crLog2 ≠ 0 ∨ n = 0 then .next (s.setCtl 0x48 8 n)
    else match s.collWrite (s.crNotify + 4) (leBytes 4 0) with
      | .waits s1 => .next { s1 with agenda := s1.agenda ++ [.event .collectiveRingConfig (.num v)] }
      | .fault s1 => .next (s1.setCtl 0x58 8 (bits (s1.ctlNat 0x58 8) 0 0 + 2))
      | .done s1 => .next (({ s1 with coll := { s1.coll with pOld := 0, c := 0 } } : State).setCtl 0x48 8 n)
  | _ => .next s

/-- COLLECTIVE_POST (R516): the next value of a qualifying write reaches the engine; an overrun sets CROVF. -/
def execCollectivePost (s : State) : Out :=
  match s.coll.posts with
  | [] => .next s
  | (p, by_) :: rest =>
    let s1 : State := { s with coll := { s.coll with posts := rest } }
    if 2 ^ s.crLog2 < (p - s.coll.c).toNat then .next (s1.setCtl 0x58 8 (bits (s1.ctlNat 0x58 8) 1 1 * 2 + 1))
    else .next { s1 with coll := { s1.coll with pOld := p, exposed := s1.coll.exposed ++ List.replicate (p - s.coll.pOld).toNat by_ } }

/-! Elements. -/

/-- The bytes of an element (R515). -/
def elemSize (ty : Nat) : Nat := if ty = 2 then 2 else if ty = 4 then 8 else 4

/-- Combines two elements (R517). -/
def collCombine (ty : Nat) (a b : DWord) : DWord :=
  let add := fun (f : Fmt) => BitVec.ofNat 64 (f.finish (exactAdd (f.value a.toNat) (f.value b.toNat))).1
  match ty with
  | 0 => add fp32
  | 1 => BitVec.ofNat 64 (fp32.minMax true a.toNat b.toNat).1
  | 2 => add bf16
  | 3 => (a.setWidth 32 + b.setWidth 32 : Word).setWidth 64
  | _ => add fp64

/-- The elements in some bytes. -/
def elemsOf (ty : Nat) (bs : List Byte) (count : Nat) : List DWord :=
  (List.range count).map fun i => BitVec.ofNat 64 (field bs (elemSize ty * i) (elemSize ty))

/-! Commands. -/

/-- Changes a command. -/
def State.modColl (s : State) (n : Nat) (h : CollCmd → CollCmd) : State :=
  { s with coll := { s.coll with cmds := s.coll.cmds.map fun c => if c.n = n then h c else c } }

/-- Sends a message to nodes of a command's tree. -/
def State.collSend (s : State) (c : CollCmd) (nodes : List Nat) (m : CollMsg) : State :=
  { s with coll := { s.coll with sent := (nodes.map fun i => (s.topoStn c.topo i, ⟨c.topo, c.tag, m⟩)).reverse ++ s.coll.sent } }

/-- The neighbours of this node in a tree: its parent, if it has one, and its children. -/
def State.neighbours (s : State) (t : BitVec 4) : List Nat :=
  (if s.topoSelf t = 0 then [] else [s.topoParent t (s.topoSelf t)]) ++ s.topoChildren t

/-- Ends a command with a status, of which its neighbours hear as a mismatch (R518). -/
def State.collFail (s : State) (c : CollCmd) (status : BitVec 32) : State :=
  (s.collSend c (s.neighbours c.topo) .mismatch).modColl c.n fun x => { x with status := some status }

/-- The root's answer reaches a node: the elements of its DST, which it sends on to its children (R517). -/
def State.collDown (s : State) (c : CollCmd) (elems : List DWord) : State :=
  (s.collSend c (s.topoChildren c.topo) (.down c.op c.ty c.count elems)).modColl c.n fun x => { x with acc := elems, status := some 0 }

/-- Goes on with a command whose children's partial results are all in (R517): up to the parent, or, at node 0, down again. -/
def State.collUp (s : State) (c : CollCmd) : State :=
  if c.status.isSome || c.sentUp || !((s.topoChildren c.topo).all fun i => c.children.contains i) then s
  else
    let self := s.topoSelf c.topo
    let s1 := s.modColl c.n fun x => { x with sentUp := true }
    if self = 0 then
      let s2 := s1.collSend c (s.topoChildren c.topo) (.down c.op c.ty c.count (if c.op = 1 then [] else c.acc))
      s2.modColl c.n fun x => { x with status := some 0 }
    else s1.collSend c [s.topoParent c.topo self] (.part self c.op c.ty c.count (if c.op = 2 then [] else c.acc))

/-- The command that a message is for: the oldest of its tree and tag that has not had it (R517). -/
def State.collFor (s : State) (m : CollIn) : Option CollCmd :=
  s.coll.cmds.find? fun c => decide (c.topo = m.topo) && decide (c.tag = m.tag) && decide (c.status = none) &&
    (match m.msg with
     | .part child _ _ _ _ => !(c.children.contains child)
     | .down _ _ _ _ => c.sentUp
     | .mismatch => true)

/-- A message reaches the engine (R517, R518): one that is early is kept. -/
def State.collDeliver (s : State) (m : CollIn) : State :=
  match s.collFor m with
  | none => { s with coll := { s.coll with early := s.coll.early ++ [m] } }
  | some c =>
    match m.msg with
    | .mismatch => s.collFail c 2
    | .part child op ty count elems =>
      if op ≠ c.op ∨ ty ≠ c.ty ∨ count ≠ c.count then s.collFail c 2
      else
        let c1 : CollCmd := { c with children := child :: c.children, acc := if c.op = 2 then c.acc else List.zipWith (collCombine c.ty) c.acc elems }
        (s.modColl c.n fun _ => c1).collUp c1
    | .down op ty count elems => if op ≠ c.op ∨ ty ≠ c.ty ∨ count ≠ c.count then s.collFail c 2 else s.collDown c elems

/-- Delivers the messages that came early. -/
def State.collEarly (s : State) : State :=
  s.coll.early.foldl (fun (t : State) m => t.collDeliver m) { s with coll := { s.coll with early := [] } }

/-- Whether a command's layout is in order and its slot valid (R515, R518). -/
def State.collOk (s : State) (bs : List Byte) : Bool :=
  let op := field bs 0 1
  let ty := field bs 1 1
  let topo := field bs 2 2
  let count := field bs 4 4
  decide (1 ≤ op) && decide (op ≤ 3) && decide (ty ≤ 4) && decide (topo < 16) && s.coll.valid.getLsbD topo && decide (1 ≤ count) && decide (count ≤ 2 ^ 28) &&
    decide (field bs 8 8 % elemSize ty = 0) && decide (field bs 16 8 % elemSize ty = 0) && decide (field bs 24 8 % 8 = 0) && decide (field bs 36 28 = 0)

/-- The pages that a range of virtual addresses touches. -/
def pagesFrom (va n : Nat) : List Nat := (List.range ((va + n + 65535) / 65536 - va / 65536)).map fun i => max va (65536 * (va / 65536 + i))

/-- Whether every page of a DST may be written: `none` while one has still to be resolved. -/
def State.dstOk (s : State) (va n : Nat) : State × Option Bool :=
  if ownAperture < va + n then (s, some false)
  else (pagesFrom va n).foldl (fun (r : State × Option Bool) p =>
    match r.2 with
    | some true => match r.1.engineTranslate r.1.whoColl (BitVec.ofNat 48 p) { write := true, read := false } (min (65536 - p % 65536) (va + n - p)) 4 with
      | .ok t _ => (t, some true)
      | .stop t _ => (t, some false)
      | .wait t => (t, none)
    | _ => r) (s, some true)

/-- The count of commands read rises, and goes to the word at CRNOTIFY + 4 (R516). -/
def State.collCount (s : State) (x : BitVec 32) : State :=
  let s1 : State := { s with coll := { s.coll with c := x, exposed := s.coll.exposed.drop 1 } }
  match s1.collWrite (s1.crNotify + 4) (leBytes 4 x.toNat) with
  | .done t => t
  | .fault t => t
  | .waits t => t

/-- A command that the engine has read and that is in order begins (R517): its own elements are read, and where it writes its DST that is checked; a fault ends it with status 3 (R518). None while a page has still to be resolved. -/
def State.collBegin (s : State) (bs : List Byte) (by_ : Nat × Nat) : Option State :=
  let ty := field bs 1 1
  let n := elemSize ty * field bs 4 4
  let c : CollCmd :=
    { n := s.ids, op := field bs 0 1, ty := ty, topo := BitVec.ofNat 4 (field bs 2 2), count := field bs 4 4, dst := BitVec.ofNat 64 (field bs 16 8)
      doneW := BitVec.ofNat 64 (field bs 24 8), tag := BitVec.ofNat 32 (field bs 32 4), wg := by_.1, order := by_.2 }
  let root := decide (s.topoSelf c.topo = 0)
  let reads := decide (c.op ≠ 2) || root
  let writes := if c.op = 1 then root else if c.op = 2 then !root else true
  let enter := fun (t : State) (x : CollCmd) => ({ t with ids := s.ids + 1, coll := { t.coll with cmds := t.coll.cmds ++ [x] } } : State)
  let src := field bs 8 8
  let got := if !reads then Eng.ok s [] else State.engineFetch (collKey s.ids) none (n / 65536 + 2) s s.whoColl (BitVec.ofNat 48 src) n
  match got with
  | .wait _ => none
  | .stop t _ => some ((enter t c).collFail c 3)
  | .ok t data =>
    let d := if writes then t.dstOk c.dst.toNat n else (t, some true)
    match d.2 with
    | none => none
    | some false => some ((enter d.1 c).collFail c 3)
    | some true =>
      let c1 : CollCmd := { c with acc := if reads then elemsOf ty data c.count else [] }
      some (((enter (d.1.dropReplies (collKey s.ids)) c1).collUp c1).collEarly)

/-- A command that fails the layout checks completes with status 1 (R518). -/
def State.collInvalid (s : State) (bs : List Byte) (by_ : Nat × Nat) : State :=
  let c : CollCmd := { n := s.ids, op := 0, ty := 0, topo := 0, count := 0, dst := 0, doneW := BitVec.ofNat 64 (field bs 24 8), tag := 0, wg := by_.1, order := by_.2, status := some 1 }
  { s with ids := s.ids + 1, coll := { s.coll with cmds := s.coll.cmds ++ [c] } }

/-- COLLECTIVE_COMMAND_READ (R516, R518): the engine reads the exposed command of least index, once no FENCE holds it back (11 R294). One whose slot cannot be read is passed over. -/
def execCollectiveCommandRead (s : State) : Out :=
  match s.coll.exposed with
  | [] => .next s
  | by_ :: _ =>
    let x := s.coll.c
    if s.fenced by_.1 by_.2 3 then .next s else
    let va := s.crBase + 64 * (x.toNat % 2 ^ s.crLog2)
    match State.engineFetch (collKey 0) none 2 s s.whoColl (BitVec.ofNat 48 va) 64 with
    | .wait s1 => .next s1
    | .stop s1 _ => .next ((s1.dropReplies (collKey 0)).collCount (x + 1))
    | .ok s1 bs =>
      let s2 := s1.dropReplies (collKey 0)
      if s2.collOk bs then
        match s2.collBegin bs by_ with
        | none => .next s1
        | some s3 => .next (s3.collCount (x + 1))
      else .next ((s2.collInvalid bs by_).collCount (x + 1))

/-- COLLECTIVE_PARTIAL_ARRIVE (R517): a message of another node. -/
def execCollectivePartialArrive (s : State) : Out :=
  match s.arg with
  | .collective m => .next (s.collDeliver m)
  | _ => .next s

/-! Completion. -/

/-- The DST bytes of a command that has succeeded, by page: where each page's bytes go (R517, R518). -/
def CollCmd.result (c : CollCmd) : List Byte := c.acc.flatMap fun e => leBytes (elemSize c.ty) e.toNat

/-- Whether this node writes its DST. -/
def State.collWrites (s : State) (c : CollCmd) : Bool :=
  let root := decide (s.topoSelf c.topo = 0)
  decide (c.status = some 0) && (if c.op = 1 then root else if c.op = 2 then !root else true)

/-- Writes a DST at one stamp (R518): what lies in peer windows is sent there. The flag says that no page failed. -/
def State.writeDst (s : State) (c : CollCmd) : State × Bool :=
  let bs := c.result
  let va := c.dst.toNat
  let place := fun (r : State × Cells × Bool) (p : Nat) =>
    let part := slice bs (p - va) (65536 - p % 65536)
    match r.1.engineTranslate r.1.whoColl (BitVec.ofNat 48 p) { write := true, read := false } part.length 4 with
    | .ok t (pa, _) => match regionOf pa with
      | .peer w => ((t.sendPeer (collKey c.n) w pa (BitVec.ofNat 48 p) (.store part) (.lanes []) false).2, r.2.1, r.2.2)
      | _ => (t, Memory.putN r.2.1 pa part, r.2.2)
    | .stop t _ => (t, r.2.1, false)
    | .wait t => (t, r.2.1, false)
  let r := (pagesFrom va bs.length).foldl place (s, ([], true))
  if r.2.2 = false then (r.1, false)
  else (if r.2.1 = [] then r.1 else r.1.publishCells r.2.1 false, true)

/-- The completion word (R518): the status at DONEW + 8, then DONEW rises by 1 as a release with observers C, X and M. -/
def State.collDone (s : State) (va : Nat) (status : BitVec 32) : State :=
  let s1 := match s.collWrite (va + 8) (leBytes 4 status.toNat) with
    | .done t => t
    | .fault t => t
    | .waits t => t
  match s1.engineTranslate s1.whoColl (BitVec.ofNat 48 va) { write := true, read := true } 8 4 with
  | .ok t (pa, _) => match regionOf pa with
    | .peer w => (t.sendPeer (collKey 0) w pa (BitVec.ofNat 48 va) (.atomic .add true 1 0) (.lanes []) false).2.dropTensors
    | _ => (t.dropTensors).physWrite pa (leBytes 8 (leNat (t.physRead pa 8) + 1))
  | .stop t _ => t
  | .wait t => t

/-- COLLECTIVE_COMPLETE (R518): a command that is over writes its DST, its status and its completion word. -/
def execCollectiveComplete (s : State) : Out :=
  match s.arg with
  | .num n =>
    match s.coll.cmds.find? fun c => decide (c.n = n) with
    | none => .next s
    | some c =>
      match c.status with
      | none => .next s
      | some st =>
        let r := if s.collWrites c then s.writeDst c else (s, true)
        let s1 := r.1.collDone c.doneW.toNat (if r.2 then st else 3)
        .next { s1 with coll := { s1.coll with cmds := s1.coll.cmds.filter fun x => decide (x.n ≠ n) } }
  | _ => .next s

end Sys2Proof.Machine
end

