-- ==== Sys2Proof/Machine/FloatOps.lean ====
section
/-! DEFINITION. Floating-point instructions (05 R124 to R133): each result is exact first and rounded once, and its flags are ORed into the group's FPSTAT. -/

namespace Sys2Proof.Machine

/-- A floating-point word over d, a and b of 32 bits: `op` gets the old d, a and b, and answers d and the flags. -/
def laneF3 (lat : Nat) (d a b : BitVec 7) (op : Nat → Nat → Nat → Nat × FFlags) : State → Issue → Fibre → Except Trap Lane := fun _ _ f =>
  if f.may d.toNat && f.may a.toNat && f.may b.toNat then
    let r := op (f.v d.toNat).toNat (f.v a.toNat).toNat (f.v b.toNat).toNat
    .ok { f := f.setV d.toNat (BitVec.ofNat 32 r.1), flags := r.2, dst := [f.phys d.toNat], lat := lat }
  else .error operandTrap

/-- The same over pairs. -/
def laneD3 (lat : Nat) (d a b : BitVec 7) (op : Nat → Nat → Nat → Nat × FFlags) : State → Issue → Fibre → Except Trap Lane := fun _ _ f =>
  if f.mayPair d.toNat && f.mayPair a.toNat && f.mayPair b.toNat then
    let r := op (f.pair d.toNat).toNat (f.pair a.toNat).toNat (f.pair b.toNat).toNat
    .ok { f := f.setPair d.toNat (BitVec.ofNat 64 r.1), flags := r.2, dst := [f.phys d.toNat, f.phys (d.toNat + 1)], lat := lat }
  else .error operandTrap

/-- A FUN word (R131). -/
def laneF2 (lat : Nat) (d a : BitVec 7) (op : Nat → Nat × FFlags) : State → Issue → Fibre → Except Trap Lane := fun _ _ f =>
  if f.may d.toNat && f.may a.toNat then
    let r := op (f.v a.toNat).toNat
    .ok { f := f.setV d.toNat (BitVec.ofNat 32 r.1), flags := r.2, dst := [f.phys d.toNat], lat := lat }
  else .error operandTrap

/-- A DUN word (R131). -/
def laneD2 (lat : Nat) (d a : BitVec 7) (op : Nat → Nat × FFlags) : State → Issue → Fibre → Except Trap Lane := fun _ _ f =>
  if f.mayPair d.toNat && f.mayPair a.toNat then
    let r := op (f.pair a.toNat).toNat
    .ok { f := f.setPair d.toNat (BitVec.ofNat 64 r.1), flags := r.2, dst := [f.phys d.toNat, f.phys (d.toNat + 1)], lat := lat }
  else .error operandTrap

/-- a + b, or a + (−b) (R126, R127). -/
def Fmt.add (f : Fmt) (negate : Bool) (a b : Nat) : Nat × FFlags := f.finish (exactAdd (f.value a) (if negate then (f.value b).neg else f.value b))

/-- a × b, or −(a × b) (R126). -/
def Fmt.mul (f : Fmt) (negate : Bool) (a b : Nat) : Nat × FFlags :=
  let p := exactMul (f.value a) (f.value b)
  f.finish { p with v := if negate then p.v.neg else p.v }

/-- ± (a × b) + d (R127). -/
def Fmt.fma (f : Fmt) (negate : Bool) (d a b : Nat) : Nat × FFlags := f.finish (exactFma negate (f.value a) (f.value b) (f.value d))

/-- a ÷ b (R126). -/
def Fmt.div (f : Fmt) (a b : Nat) : Nat × FFlags := f.finish (exactDiv (f.value a) (f.value b))

/-- |a|; a NaN gives the default NaN (R132). -/
def Fmt.abs (f : Fmt) (a : Nat) : Nat × FFlags :=
  match f.value a with
  | .nan s => (f.nanCode, if s then flagNV else 0)
  | .inf _ => (a % f.signBit, 0)
  | .fin _ _ _ => (a % f.signBit, 0)

/-- −a; a NaN gives the default NaN (R132). -/
def Fmt.negate (f : Fmt) (a : Nat) : Nat × FFlags :=
  match f.value a with
  | .nan s => (f.nanCode, if s then flagNV else 0)
  | .inf n => (f.signed (!n) (a % f.signBit), 0)
  | .fin n _ _ => (f.signed (!n) (a % f.signBit), 0)

/-- Both 16-bit elements of packed registers, with their flags ORed (R129). -/
def packed (op : Nat → Nat → Nat → Nat × FFlags) (d a b : Nat) : Nat × FFlags :=
  let lo := op (d % 65536) (a % 65536) (b % 65536)
  let hi := op (d / 65536) (a / 65536) (b / 65536)
  (lo.1 + 65536 * hi.1, lo.2 ||| hi.2)

/-- FP16, or BF16 under .B (R130). -/
def packedFmt (m : Bool) : Fmt := if m then bf16 else fp16

/-- FADD and FADD.N (R126). -/
def execFadd (_h _g m : Bool) (d a b : BitVec 7) (s : State) : Out := .next (s.issueLane (laneF3 4 d a b fun _ x y => fp32.add m x y))

/-- FMUL and FMUL.N (R126). -/
def execFmul (_h _g m : Bool) (d a b : BitVec 7) (s : State) : Out := .next (s.issueLane (laneF3 4 d a b fun _ x y => fp32.mul m x y))

/-- FFMA and FFMA.N (R127). -/
def execFfma (_h _g m : Bool) (d a b : BitVec 7) (s : State) : Out := .next (s.issueLane (laneF3 4 d a b fun z x y => fp32.fma m z x y))

/-- FMIN and FMIN.X (R128). -/
def execFmin (_h _g m : Bool) (d a b : BitVec 7) (s : State) : Out := .next (s.issueLane (laneF3 2 d a b fun _ x y => fp32.minMax m x y))

/-- FUN SQRT (R131, R132). -/
def execFunSqrt (_h : Bool) (d a : BitVec 7) (s : State) : Out := .next (s.issueLane (laneF2 12 d a fun x => fp32.finish (exactSqrt (fp32.value x))))

/-- FUN RSQRT (R131, R132). -/
def execFunRsqrt (_h : Bool) (d a : BitVec 7) (s : State) : Out := .next (s.issueLane (laneF2 8 d a fun x => fp32.finish (exactRsqrt (fp32.value x))))

/-- FUN RCP (R131, R132). -/
def execFunRcp (_h : Bool) (d a : BitVec 7) (s : State) : Out := .next (s.issueLane (laneF2 8 d a fun x => fp32.finish (exactRcp (fp32.value x))))

/-- FUN EXP2 (R131, R132). -/
def execFunExp2 (_h : Bool) (d a : BitVec 7) (s : State) : Out := .next (s.issueLane (laneF2 10 d a fun x => fp32.finish (exactExp2 (fp32.value x))))

/-- FUN LOG2 (R131, R132). -/
def execFunLog2 (_h : Bool) (d a : BitVec 7) (s : State) : Out := .next (s.issueLane (laneF2 10 d a fun x => fp32.finish (exactLog2 (fp32.value x))))

/-- FUN SIN (R131, R132). -/
def execFunSin (_h : Bool) (d a : BitVec 7) (s : State) : Out := .next (s.issueLane (laneF2 14 d a fun x => fp32.finish (exactTrig false (fp32.value x))))

/-- FUN COS (R131, R132). -/
def execFunCos (_h : Bool) (d a : BitVec 7) (s : State) : Out := .next (s.issueLane (laneF2 14 d a fun x => fp32.finish (exactTrig true (fp32.value x))))

/-- FUN TANH (R131, R132). -/
def execFunTanh (_h : Bool) (d a : BitVec 7) (s : State) : Out := .next (s.issueLane (laneF2 12 d a fun x => fp32.finish (exactTanh (fp32.value x))))

/-- FUN ABS (R131, R132). -/
def execFunAbs (_h : Bool) (d a : BitVec 7) (s : State) : Out := .next (s.issueLane (laneF2 2 d a fun x => fp32.abs x))

/-- FUN NEG (R131, R132). -/
def execFunNeg (_h : Bool) (d a : BitVec 7) (s : State) : Out := .next (s.issueLane (laneF2 2 d a fun x => fp32.negate x))

/-- FUN FLOOR (R131, R132). -/
def execFunFloor (_h : Bool) (d a : BitVec 7) (s : State) : Out := .next (s.issueLane (laneF2 2 d a fun x => fp32.integral .rdn false x))

/-- FUN CEIL (R131, R132). -/
def execFunCeil (_h : Bool) (d a : BitVec 7) (s : State) : Out := .next (s.issueLane (laneF2 2 d a fun x => fp32.integral .rup false x))

/-- FUN TRUNC (R131, R132). -/
def execFunTrunc (_h : Bool) (d a : BitVec 7) (s : State) : Out := .next (s.issueLane (laneF2 2 d a fun x => fp32.integral .rz false x))

/-- FUN RINT (R131, R132). -/
def execFunRint (_h : Bool) (d a : BitVec 7) (s : State) : Out := .next (s.issueLane (laneF2 2 d a fun x => fp32.integral .rne true x))

/-- FUN CLASS (R133). -/
def execFunClass (_h : Bool) (d a : BitVec 7) (s : State) : Out := .next (s.issueLane (laneF2 2 d a fun x => (fp32.classMask x, 0)))

/-- FDIV (R126). -/
def execFdiv (_h _g : Bool) (d a b : BitVec 7) (s : State) : Out := .next (s.issueLane (laneF3 16 d a b fun _ x y => fp32.div x y))

/-- HADD2 and HADD2.B (R130). -/
def execHadd2 (_h _g m : Bool) (d a b : BitVec 7) (s : State) : Out := .next (s.issueLane (laneF3 4 d a b (packed fun _ x y => (packedFmt m).add false x y)))

/-- HMUL2 and HMUL2.B (R130). -/
def execHmul2 (_h _g m : Bool) (d a b : BitVec 7) (s : State) : Out := .next (s.issueLane (laneF3 4 d a b (packed fun _ x y => (packedFmt m).mul false x y)))

/-- HFMA2 and HFMA2.N (R130). -/
def execHfma2 (_h _g m : Bool) (d a b : BitVec 7) (s : State) : Out := .next (s.issueLane (laneF3 4 d a b (packed fun z x y => fp16.fma m z x y)))

/-- DADD and DADD.N (R126). -/
def execDadd (_h _g m : Bool) (d a b : BitVec 7) (s : State) : Out := .next (s.issueLane (laneD3 6 d a b fun _ x y => fp64.add m x y))

/-- DMUL and DMUL.N (R126). -/
def execDmul (_h _g m : Bool) (d a b : BitVec 7) (s : State) : Out := .next (s.issueLane (laneD3 6 d a b fun _ x y => fp64.mul m x y))

/-- DFMA and DFMA.N (R127). -/
def execDfma (_h _g m : Bool) (d a b : BitVec 7) (s : State) : Out := .next (s.issueLane (laneD3 6 d a b fun z x y => fp64.fma m z x y))

/-- DUN SQRT (R131, R132). -/
def execDunSqrt (_h : Bool) (d a : BitVec 7) (s : State) : Out := .next (s.issueLane (laneD2 24 d a fun x => fp64.finish (exactSqrt (fp64.value x))))

/-- DUN RSQRT (R131, R132). -/
def execDunRsqrt (_h : Bool) (d a : BitVec 7) (s : State) : Out := .next (s.issueLane (laneD2 16 d a fun x => fp64.finish (exactRsqrt (fp64.value x))))

/-- DUN RCP (R131, R132). -/
def execDunRcp (_h : Bool) (d a : BitVec 7) (s : State) : Out := .next (s.issueLane (laneD2 16 d a fun x => fp64.finish (exactRcp (fp64.value x))))

/-- DUN ABS (R131, R132). -/
def execDunAbs (_h : Bool) (d a : BitVec 7) (s : State) : Out := .next (s.issueLane (laneD2 2 d a fun x => fp64.abs x))

/-- DUN NEG (R131, R132). -/
def execDunNeg (_h : Bool) (d a : BitVec 7) (s : State) : Out := .next (s.issueLane (laneD2 2 d a fun x => fp64.negate x))

/-- DUN FLOOR (R131, R132). -/
def execDunFloor (_h : Bool) (d a : BitVec 7) (s : State) : Out := .next (s.issueLane (laneD2 2 d a fun x => fp64.integral .rdn false x))

/-- DUN CEIL (R131, R132). -/
def execDunCeil (_h : Bool) (d a : BitVec 7) (s : State) : Out := .next (s.issueLane (laneD2 2 d a fun x => fp64.integral .rup false x))

/-- DUN TRUNC (R131, R132). -/
def execDunTrunc (_h : Bool) (d a : BitVec 7) (s : State) : Out := .next (s.issueLane (laneD2 2 d a fun x => fp64.integral .rz false x))

/-- DUN RINT (R131, R132). -/
def execDunRint (_h : Bool) (d a : BitVec 7) (s : State) : Out := .next (s.issueLane (laneD2 2 d a fun x => fp64.integral .rne true x))

/-- What DUN CLASS does in a fibre: its d is one register (R131, R133). -/
def laneDclass (d a : BitVec 7) : State → Issue → Fibre → Except Trap Lane := fun _ _ f =>
  if f.may d.toNat && f.mayPair a.toNat then .ok { f := f.setV d.toNat (BitVec.ofNat 32 (fp64.classMask (f.pair a.toNat).toNat)) } else .error operandTrap

/-- DUN CLASS (R133). -/
def execDunClass (_h : Bool) (d a : BitVec 7) (s : State) : Out := .next (s.issueLane (laneDclass d a))

/-- DDIV (R126). -/
def execDdiv (_h _g : Bool) (d a b : BitVec 7) (s : State) : Out := .next (s.issueLane (laneD3 32 d a b fun _ x y => fp64.div x y))

/-- DMIN and DMIN.X (R128). -/
def execDmin (_h _g m : Bool) (d a b : BitVec 7) (s : State) : Out := .next (s.issueLane (laneD3 3 d a b fun _ x y => fp64.minMax m x y))

end Sys2Proof.Machine
end

