-- ==== Sys2Proof/Machine/Convert.lean ====
section
/-! DEFINITION. Conversions (05 R134 to R141) and the lane generator's instructions (R142 to R146). -/

namespace Sys2Proof.Machine

/-- The 16-bit half of a register that H selects (R136). -/
def halfOf (h : Bool) (x : Nat) : Nat := if h then x / 65536 % 65536 else x % 65536

/-- A register with the selected half replaced (R136). -/
def withHalf (h : Bool) (old new : Nat) : Nat := if h then old % 65536 + 65536 * (new % 65536) else old / 65536 * 65536 + new % 65536

/-- A conversion between 32-bit registers: `op` gets the old d and a. -/
def laneCvt (d a : BitVec 7) (op : Nat → Nat → Nat × FFlags) : State → Issue → Fibre → Except Trap Lane := fun _ _ f =>
  if f.may d.toNat && f.may a.toNat then
    let r := op (f.v d.toNat).toNat (f.v a.toNat).toNat
    .ok { f := f.setV d.toNat (BitVec.ofNat 32 r.1), flags := r.2, dst := [f.phys d.toNat] }
  else .error operandTrap

/-- A conversion from a pair to a register. -/
def laneNarrow (d a : BitVec 7) (op : Nat → Nat × FFlags) : State → Issue → Fibre → Except Trap Lane := fun _ _ f =>
  if f.may d.toNat && f.mayPair a.toNat then
    let r := op (f.pair a.toNat).toNat
    .ok { f := f.setV d.toNat (BitVec.ofNat 32 r.1), flags := r.2, dst := [f.phys d.toNat] }
  else .error operandTrap

/-- A conversion from a register to a pair. -/
def laneWide (d a : BitVec 7) (op : Nat → Nat × FFlags) : State → Issue → Fibre → Except Trap Lane := fun _ _ f =>
  if f.mayPair d.toNat && f.may a.toNat then
    let r := op (f.v a.toNat).toNat
    .ok { f := f.setPair d.toNat (BitVec.ofNat 64 r.1), flags := r.2, dst := [f.phys d.toNat, f.phys (d.toNat + 1)] }
  else .error operandTrap

/-- The rounding mode that RM names (R134). -/
def rmMode (r : BitVec 2) : Mode := modeOf r.toNat 0

/-- A conversion between float formats, with SAT = 0 (R137). -/
def cvtFloat (src dst : Fmt) (mode : Mode) (x : Nat) : Nat × FFlags := dst.convert mode false (src.value x)

/-- A conversion of a float to an integer of n bits (R137, R86). -/
def cvtToInt (src : Fmt) (n : Nat) (sgn : Bool) (mode : Mode) (x : Nat) : Nat × FFlags :=
  let r := toRange mode (intRange n sgn).1 (intRange n sgn).2 (src.value x)
  ((r.1 % 2 ^ n).toNat, r.2)

/-- A conversion of an integer to a float (R137). -/
def cvtFromInt (dst : Fmt) (mode : Mode) (i : Int) : Nat × FFlags := dst.convert mode false (ofInt i)

/-- CVT.F32.F64 (R135 to R137). -/
def execCvtF32F64 (_h : Bool) (d a : BitVec 7) (r : BitVec 2) (s : State) : Out := .next (s.issueLane (laneNarrow d a (cvtFloat fp64 fp32 (rmMode r))))

/-- CVT.F64.F32 (R135 to R137). -/
def execCvtF64F32 (_h : Bool) (d a : BitVec 7) (s : State) : Out := .next (s.issueLane (laneWide d a (cvtFloat fp32 fp64 .rne)))

/-- CVT.F16.F32 (R135 to R137). -/
def execCvtF16F32 (_h x : Bool) (d a : BitVec 7) (r : BitVec 2) (s : State) : Out := .next (s.issueLane (laneCvt d a fun z y =>
    let c := cvtFloat fp32 fp16 (rmMode r) y
    (withHalf x z c.1, c.2)))

/-- CVT.F32.F16 (R135 to R137). -/
def execCvtF32F16 (_h x : Bool) (d a : BitVec 7) (s : State) : Out := .next (s.issueLane (laneCvt d a fun _ y => cvtFloat fp16 fp32 .rne (halfOf x y)))

/-- CVT.BF16.F32 (R135 to R137). -/
def execCvtBf16F32 (_h x : Bool) (d a : BitVec 7) (r : BitVec 2) (s : State) : Out := .next (s.issueLane (laneCvt d a fun z y =>
    let c := cvtFloat fp32 bf16 (rmMode r) y
    (withHalf x z c.1, c.2)))

/-- CVT.F32.BF16 (R135 to R137). -/
def execCvtF32Bf16 (_h x : Bool) (d a : BitVec 7) (s : State) : Out := .next (s.issueLane (laneCvt d a fun _ y => cvtFloat bf16 fp32 .rne (halfOf x y)))

/-- CVT.S32.F32 (R135 to R137). -/
def execCvtS32F32 (_h : Bool) (d a : BitVec 7) (r : BitVec 2) (s : State) : Out := .next (s.issueLane (laneCvt d a fun _ y => cvtToInt fp32 32 true (rmMode r) y))

/-- CVT.U32.F32 (R135 to R137). -/
def execCvtU32F32 (_h : Bool) (d a : BitVec 7) (r : BitVec 2) (s : State) : Out := .next (s.issueLane (laneCvt d a fun _ y => cvtToInt fp32 32 false (rmMode r) y))

/-- CVT.F32.S32 (R135 to R137). -/
def execCvtF32S32 (_h : Bool) (d a : BitVec 7) (r : BitVec 2) (s : State) : Out := .next (s.issueLane (laneCvt d a fun _ y => cvtFromInt fp32 (rmMode r) (signed 32 y)))

/-- CVT.F32.U32 (R135 to R137). -/
def execCvtF32U32 (_h : Bool) (d a : BitVec 7) (r : BitVec 2) (s : State) : Out := .next (s.issueLane (laneCvt d a fun _ y => cvtFromInt fp32 (rmMode r) y))

/-- CVT.S32.F64 (R135 to R137). -/
def execCvtS32F64 (_h : Bool) (d a : BitVec 7) (r : BitVec 2) (s : State) : Out := .next (s.issueLane (laneNarrow d a (cvtToInt fp64 32 true (rmMode r))))

/-- CVT.U32.F64 (R135 to R137). -/
def execCvtU32F64 (_h : Bool) (d a : BitVec 7) (r : BitVec 2) (s : State) : Out := .next (s.issueLane (laneNarrow d a (cvtToInt fp64 32 false (rmMode r))))

/-- CVT.F64.S32 (R135 to R137). -/
def execCvtF64S32 (_h : Bool) (d a : BitVec 7) (s : State) : Out := .next (s.issueLane (laneWide d a fun y => cvtFromInt fp64 .rne (signed 32 y)))

/-- CVT.F64.U32 (R135 to R137). -/
def execCvtF64U32 (_h : Bool) (d a : BitVec 7) (s : State) : Out := .next (s.issueLane (laneWide d a fun y => cvtFromInt fp64 .rne y))

/-- CVT.S64.F64 (R135 to R137). -/
def execCvtS64F64 (_h : Bool) (d a : BitVec 7) (r : BitVec 2) (s : State) : Out := .next (s.issueLane (laneD2 4 d a (cvtToInt fp64 64 true (rmMode r))))

/-- CVT.F64.S64 (R135 to R137). -/
def execCvtF64S64 (_h : Bool) (d a : BitVec 7) (r : BitVec 2) (s : State) : Out := .next (s.issueLane (laneD2 4 d a fun y => cvtFromInt fp64 (rmMode r) (signed 64 y)))

/-! Through a format slot. -/

/-- MATRIX_FORMAT of CVTN and CVTW (R139, R429). -/
def formatTrap : Trap := { code := .matrixFormat }

/-- Converts the elements of CVTN in order, drawing a word for each where the rounding is stochastic (R139, R146). -/
def narrowAll (e : Elem) (slot : Word) (b : Word) : List Word → Gen → List Nat × FFlags × Gen
  | [], g => ([], 0, g)
  | x :: r, g =>
    let w := g.drawIf (stochastic slot)
    let p := scaled (fp32.value x.toNat) b
    let c := e.convert (modeOf (slotRnd slot) w.1) (slotSat slot) p.1
    let rest := narrowAll e slot b r w.2
    (c.1 :: rest.1, p.2 ||| c.2 ||| rest.2.1, rest.2.2)

/-- What CVTN does in a fibre (R139). Where the slot names no format and a register lies outside the allocation as well, the manual does not say which fault comes first: the model takes MATRIX_FORMAT (DESIGN CHOICE, log 120). -/
def laneCvtn (i : BitVec 3) (d a b : BitVec 7) : State → Issue → Fibre → Except Trap Lane := fun s _ f =>
  let slot := (s.launch f.wg).slot i
  let e := elemOf (slotA slot)
  let n := perRegister e.width
  if slotA slot = 0 then .error formatTrap
  else if !(f.may d.toNat && f.may b.toNat && f.may a.toNat && f.may (a.toNat + n - 1)) then .error operandTrap
  else
    let r := narrowAll e slot (f.v b.toNat) ((List.range n).map fun k => f.v (a.toNat + k)) f.gen
    .ok { f := { f with gen := r.2.2 }.setV d.toNat (leWord (packElems e.width r.1)), flags := r.2.1, dst := [f.phys d.toNat] }

/-- CVTN (R139). -/
def execCvtn (s : BitVec 3) (d a b : BitVec 7) (t : State) : Out := .next (t.issueLane (laneCvtn s d a b))

/-- A value with its NaN quiet: an element's NaN code gives NaN, and only b's signalling raises NV (R140). -/
def FVal.quieted (v : FVal) : FVal :=
  match v with
  | .nan _ => .nan false
  | .inf n => .inf n
  | .fin n m e => .fin n m e

/-- Converts the elements of CVTW in order (R140). -/
def widenAll (e : Elem) (slot : Word) (b : Word) : List Nat → Gen → List Nat × FFlags × Gen
  | [], g => ([], 0, g)
  | x :: r, g =>
    let w := g.drawIf (stochastic slot)
    let p := scaled (e.value x).quieted b
    let c := fp32.convert (modeOf (slotRnd slot) w.1) (slotSat slot) p.1
    let rest := widenAll e slot b r w.2
    (c.1 :: rest.1, p.2 ||| c.2 ||| rest.2.1, rest.2.2)

/-- What CVTW does in a fibre (R140). -/
def laneCvtw (i : BitVec 3) (d a b : BitVec 7) : State → Issue → Fibre → Except Trap Lane := fun s _ f =>
  let slot := (s.launch f.wg).slot i
  let e := elemOf (slotA slot)
  let n := perRegister e.width
  if slotA slot = 0 then .error formatTrap
  else if !(f.may a.toNat && f.may b.toNat && f.may d.toNat && f.may (d.toNat + n - 1)) then .error operandTrap
  else
    let bs := leBytes 4 (f.v a.toNat).toNat
    let r := widenAll e slot (f.v b.toNat) ((List.range n).map fun k => packedGet e.width bs k) f.gen
    let put := fun (x : Fibre) (k : Nat) => x.setV (d.toNat + k) (BitVec.ofNat 32 (r.1.getD k 0))
    .ok { f := (List.range n).foldl put { f with gen := r.2.2 }, flags := r.2.1, dst := (List.range n).map fun k => f.phys (d.toNat + k) }

/-- CVTW (R140). -/
def execCvtw (s : BitVec 3) (d a b : BitVec 7) (t : State) : Out := .next (t.issueLane (laneCvtw s d a b))

/-! The lane generator. -/

/-- The value of RAND from its 32 drawn bits (R145). -/
def randValue (m : Bool) (u : Nat) : Word := if m then BitVec.ofNat 32 (fp32.convert .rne false (.fin false (u / 256) (-24))).1 else BitVec.ofNat 32 u

/-- What RAND does in a fibre (R145). -/
def laneRand (m : Bool) (d : BitVec 7) : State → Issue → Fibre → Except Trap Lane := fun _ _ f =>
  if f.may d.toNat then
    let lo := f.gen.draw
    let hi := lo.2.draw
    .ok { f := { f with gen := hi.2 }.setV d.toNat (randValue m (hi.1.toNat * 65536 + lo.1.toNat)) }
  else .error operandTrap

/-- RAND and RAND.F (R145). -/
def execRand (m : Bool) (d : BitVec 7) (s : State) : Out := .next (s.issueLane (laneRand m d))

/-- What RSEED does in a fibre (R144). -/
def laneRseed (a b : BitVec 7) : State → Issue → Fibre → Except Trap Lane := fun _ _ f =>
  if f.mayPair a.toNat && f.mayPair b.toNat then .ok { f := { f with gen := { key := f.pair a.toNat, stream := f.pair b.toNat, n := 0 } } } else .error operandTrap

/-- RSEED (R144). -/
def execRseed (a b : BitVec 7) (s : State) : Out := .next (s.issueLane (laneRseed a b))

end Sys2Proof.Machine
end

