-- ==== Sys2Proof/Machine/CopyOps.lean ====
section
/-! DEFINITION. The copy engines (14 R350 to R366): reading and checking commands, streams and channels, tag waits, the movement of rows, completion and stopping, and multicast slots with their drains. A command's rows move in one step (log 31). -/

namespace Sys2Proof.Machine

/-! Commands. -/

/-- The fields of a copy command (R354, R355). -/
structure CopyReq where
  op : Nat
  rows : Nat
  mcast : Nat
  we : Bool
  sf : Bool
  rbytes : Nat
  /-- Bytes 8 to 15. -/
  gaddr : Nat
  soff : Nat
  gstr : Int
  sstr : Nat
  /-- FIRST and LOG2B of a block table. -/
  first : Nat
  log2b : Nat
  /-- G2G: the destination address and both strides. -/
  dst : Nat
  srcStr : Int
  dstStr : Int

/-- The fields of a command's 32 bytes. -/
def copyReq (bs : List Byte) : CopyReq :=
  let w := field bs 0 4
  { op := bits w 5 0, rows := bits w 31 16, mcast := bits w 14 11, we := decide (bits w 10 10 = 1), sf := decide (bits w 9 9 = 1)
    rbytes := bits (field bs 4 4) 20 0, gaddr := field bs 8 8, soff := bits (field bs 16 4) 22 0, gstr := signed 32 (field bs 20 4)
    sstr := bits (field bs 24 4) 22 0, first := bits (field bs 28 4) 19 0, log2b := bits (field bs 28 4) 23 20
    dst := field bs 16 8, srcStr := signed 32 (field bs 24 4), dstStr := signed 32 (field bs 28 4) }

/-- Load forms put rows into scratchpads (R355). -/
def CopyReq.loads (q : CopyReq) : Bool := decide (q.op = 1) || decide (q.op = 2) || decide (q.op = 5)
/-- Store forms take rows from the own scratchpad (R355). -/
def CopyReq.stores (q : CopyReq) : Bool := decide (q.op = 3) || decide (q.op = 4)
def CopyReq.table (q : CopyReq) : Bool := decide (q.op = 2) || decide (q.op = 4)

/-- The checks of R357, and RBYTES at most 1,048,576 (R354). -/
def copyOk (bs : List Byte) (l : Launch) : Bool :=
  let q := copyReq bs
  let pad := decide (field bs 19 1 = 0) && decide (bits (field bs 16 4) 31 23 = 0) && decide (bits (field bs 24 4) 31 23 = 0)
  let shape : Bool := match q.op with
    | 1 => pad && decide (field bs 28 4 = 0)
    | 2 => pad && decide (field bs 31 1 = 0)
    | 3 => pad && decide (field bs 28 4 = 0)
    | 4 => pad && decide (field bs 31 1 = 0)
    | 5 => pad && decide (field bs 12 4 = 0) && decide (field bs 20 4 = 0) && decide (field bs 28 4 = 0)
    | 6 => !q.we && !q.sf
    | _ => false
  shape && decide (bits (field bs 0 4) 15 15 = 0) && decide (bits (field bs 4 4) 31 21 = 0) && decide (1 ≤ q.rows) && decide (1 ≤ q.rbytes) && decide (q.rbytes ≤ 1048576) &&
    (decide (q.mcast = 0) || (q.loads && decide (q.mcast < 2 ^ l.cluster) && decide (q.rows * q.rbytes ≤ 16384))) &&
    (decide (q.op = 6) || decide (q.soff + q.sstr * (q.rows - 1) + q.rbytes ≤ l.padBytes)) &&
    (decide (q.op = 5) || decide (q.gaddr < ownAperture)) && (decide (q.op ≠ 6) || decide (q.dst < ownAperture))

/-- A command that an engine holds, with its core. -/
def State.ccmd? (s : State) (n : Nat) : Option (Nat × CCmd) :=
  (List.range s.cores.length).findSome? fun c => ((s.core c).ccmds.find? fun k => decide (k.n = n)).map fun k => (c, k)

def State.modCcmd (s : State) (n : Nat) (h : CCmd → CCmd) : State :=
  { s with cores := s.cores.map fun c => { c with ccmds := c.ccmds.map fun k => if k.n = n then h k else k } }

/-- The key under which a copy command sends requests to peers. -/
def copyKey (k : CCmd) : FibreKey := ⟨k.wg, k.grp, 2 ^ 40 + k.n⟩

/-- Records a command's fault against the group whose write exposed it (R357, R364). -/
def State.copyFault (s : State) (wg grp : Nat) (token : BitVec 3) (idx : BitVec 32) (c : Code) (a : BitVec 64) : State :=
  s.recordFault wg grp { code := c, addr := a, copy := true, token := token, slot := BitVec.ofNat 10 (idx.toNat % max (s.launch wg).ringSize 1) }

/-- A command that is over: its token is lowered, and its reservations and replies go (R360). -/
def State.endCopy (s : State) (core : Nat) (k : CCmd) : State :=
  ((s.modCore core fun c => { c with ccmds := c.ccmds.filter fun x => decide (x.n ≠ k.n) }).modWg k.wg fun w =>
    (w.lowerToken k.token).release (.copy k.n)).dropReplies (copyKey k)

/-- Whether a version has been squashed (R398). -/
def State.isSquashed (s : State) (v : VID) : Bool :=
  match s.version? v with
  | some x => decide (x.state = .squashed)
  | none => false

/-- COPY_COMMAND_READ (R353, R357, R358): the engine reads the next exposed command of a workgroup's ring. -/
def execCopyCommandRead (s : State) : Out :=
  match s.arg with
  | .num wg =>
    let w := s.wg wg
    match w.exposed with
    | [] => .next s
    | e :: rest =>
      if !w.resident || w.stopping || ((s.core w.core).ccmds.any fun k => decide (k.wg = wg) && decide (k.token = e.token) && decide (k.channel = none)) then .next s
      else
        let l := s.launch wg
        let slot := l.ringOff + 32 * (e.idx.toNat % max l.ringSize 1)
        let bs := s.padRead wg slot 32
        let s1 := (s.modWg wg fun x => { x with exposed := rest, ringC := x.ringC + 1 }).padWrite wg (l.notifyOff + 4) (leBytes 4 (w.ringC + 1).toNat)
        let lower := fun (t : State) => t.modWg wg fun x => x.lowerToken e.token
        if s.isSquashed e.vid then .next (lower s1)
        else if copyOk bs l then
          let k : CCmd := { n := s1.ids, wg := wg, grp := e.grp, idx := e.idx, bytes := bs, token := e.token, vid := e.vid, order := e.order, at_ := e.at_ }
          .next (({ s1 with ids := s1.ids + 1 } : State).modCore w.core fun c => { c with ccmds := c.ccmds ++ [k] })
        else .next (lower (s1.copyFault wg e.grp e.token e.idx .copyCommand (BitVec.ofNat 64 (ownAperture + slot))))
  | _ => .next s

/-! Starting, and tags. -/

/-- The granules that a command's rows touch in a scratchpad (R363). -/
def CopyReq.granules (q : CopyReq) : List Nat := ((List.range q.rows).flatMap fun r => granulesOf (q.soff + q.sstr * r) q.rbytes).eraseDups

/-- A POISONED granule of a scratchpad among some. -/
def State.poisonedAt (s : State) (wg : Nat) (gs : List Nat) : Option Nat := gs.find? fun g => decide ((s.wg wg).tag g = .poisoned)

/-- The address that a POISON of a granule reports: its first byte (R362, R363). -/
def granAddr (g : Nat) : BitVec 64 := BitVec.ofNat 64 (ownAperture + 1024 * g)

/-- Whether a command may start on its core (R358): a channel is free, and no earlier command of its stream is unfinished. -/
def Core.canStart (c : Core) (k : CCmd) : Bool :=
  decide (k.channel = none) && decide ((c.ccmds.filter fun x => decide (x.channel ≠ none)).length < 4) &&
    !(c.ccmds.any fun x => decide (x.wg = k.wg) && decide (x.token = k.token) && decide (x.order < k.order))

/-- The lowest free channel of a core. -/
def Core.freeChannel (c : Core) : Nat := ((List.range 4).find? fun i => !(c.ccmds.any fun x => decide (x.channel = some i))).getD 0

/-- Whether a command waits for the tags of its own scratchpad (R363): WE of a load form without multicast, and WF of a store form. -/
def CopyReq.waits (q : CopyReq) : Bool := q.we && (q.stores || (q.loads && decide (q.mcast = 0)))

/-- Whether a command was exposed before another: ties of a clock go to the lower workgroup placement order (R358). -/
def State.exposedBefore (s : State) (x k : CCmd) : Bool :=
  let p := (s.wg x.wg).order
  let q := (s.wg k.wg).order
  decide (x.at_ < k.at_) || (decide (x.at_ = k.at_) && (decide (p < q) || (decide (p = q) && decide (x.order < k.order))))

/-- Whether a command could start now (R358): no FENCE holds back its reads (R294), and its unit is not being pre-empted (R365). -/
def State.copyCanStart (s : State) (c : Core) (k : CCmd) : Bool := !(s.wg k.wg).stopping && c.canStart k && !(s.fenced k.wg k.order 1)

/-- COPY_COMMAND_START (R358): of the commands that could start, the one exposed earliest. Its WE wait begins, and a POISONED destination stops it (R363). -/
def execCopyCommandStart (s : State) : Out :=
  match s.arg with
  | .num n =>
    match s.ccmd? n with
    | none => .next s
    | some (core, k) =>
      let c := s.core core
      let q := copyReq k.bytes
      if s.copyCanStart c k && !(c.ccmds.any fun x => s.copyCanStart c x && s.exposedBefore x k) then
        let bad := if q.loads && q.waits then (s.poisonedAt k.wg q.granules).map fun g => (Code.poison, granAddr g) else none
        .next (s.modCcmd n fun x => { x with channel := some c.freeChannel, began := s.clock, tagsOk := !q.waits, bad := bad })
      else .next s
  | _ => .next s

/-- Whether every destination granule is EMPTY for a version, and not held by another WE wait (R363). -/
def State.allEmpty (s : State) (wg : Nat) (v : VID) (gs : List Nat) : Bool := gs.all fun g => s.tagMeets wg g v .empty && !((s.wg wg).heldWe g)

/-! Rows. -/

/-- What a command has moved: the state, rows for scratchpads by offset, global bytes by PA, and pieces for peers. -/
structure Xfer where
  s : State
  rows : List (Nat × List Byte) := []
  cells : Cells := []
  posts : List (Nat × Nat × VA × List Byte) := []

/-- How a movement goes. -/
inductive Moved where
  | ok (x : Xfer)
  | stop (x : Xfer) (c : Code) (a : BitVec 64)
  | wait (s : State)

/-- Who a copy command is to translation (R364). -/
def State.copyWho (s : State) (core : Nat) (k : CCmd) : Who := s.whoEngine core k.vid

/-- A row's global address; none where a block table has a hole (R355, R356). -/
inductive RowAt where
  | at_ (s : State) (a : Nat)
  | hole (s : State)
  | stop (s : State) (c : Code) (a : BitVec 64)
  | wait (s : State)

/-- A global address with an offset, modulo 2^48 (R355). -/
def globalAt (base : Nat) (off : Int) : Nat := (((base : Int) + off) % 2 ^ 48).toNat

/-- The address of row `r` of a block-table form (R356). -/
def State.blockRow (s : State) (core : Nat) (k : CCmd) (q : CopyReq) (r : Nat) : RowAt :=
  let l := q.first + r
  let t := globalAt q.gaddr (8 * (l / 2 ^ q.log2b : Nat))
  if ownAperture ≤ t then .stop s .copyCommand (BitVec.ofNat 64 t)
  else match State.engineFetch (copyKey k) none 4 s (s.copyWho core k) (BitVec.ofNat 48 t) 8 with
    | .wait s1 => .wait s1
    | .stop s1 x => .stop s1 x.code x.addr
    | .ok s1 e =>
      if leNat e = 0 then .hole s1
      else if bits (leNat e) 63 48 ≠ 0 then .stop s1 .copyCommand (BitVec.ofNat 64 t)
      else .at_ s1 (globalAt (leNat e) (q.gstr * (l % 2 ^ q.log2b : Nat)))

/-- The global address of row `r` of a load or store form. -/
def State.rowAt (s : State) (core : Nat) (k : CCmd) (q : CopyReq) (r : Nat) : RowAt :=
  if q.table then s.blockRow core k q r else .at_ s (globalAt q.gaddr (q.gstr * (r : Nat)))

/-- The first byte of a global row that is no global address, if any (R357). -/
def rowOver (a n : Nat) : Option (BitVec 64) :=
  if ownAperture ≤ a then some (BitVec.ofNat 64 a) else if ownAperture < a + n then some (BitVec.ofNat 64 ownAperture) else none

/-- Reads a global row over path X (R292). -/
def State.fetchRow (s : State) (core : Nat) (k : CCmd) (a n : Nat) : Eng (List Byte) :=
  match rowOver a n with
  | some b => .stop s { code := .copyCommand, addr := b }
  | none => State.engineFetch (copyKey k) none (n / 65536 + 3) s (s.copyWho core k) (BitVec.ofNat 48 a) n

/-- Pieces of at most 64 bytes for a peer, none across an aligned 64 (R511). -/
def peerPieces (w : Nat) : Nat → Nat → VA → List Byte → List (Nat × Nat × VA × List Byte)
  | 0, _, _, _ => []
  | fuel + 1, pa, va, bs =>
    if bs = [] then []
    else
      let n := 64 - pa % 64
      (w, pa, va, bs.take n) :: peerPieces w fuel (pa + n) (va + BitVec.ofNat 48 n) (bs.drop n)

/-- Puts a global row into a movement, page by page (R364); host and peer pages stop a version that is no root (R392). -/
def State.putRow (core : Nat) (k : CCmd) : Nat → Xfer → VA → List Byte → Moved
  | 0, x, _, _ => .ok x
  | fuel + 1, x, va, bs =>
    if bs = [] then .ok x
    else
      let n := min bs.length (65536 - va.toNat % 65536)
      match x.s.engineTranslate (x.s.copyWho core k) va { write := true, read := false } n 4 with
      | .wait s1 => .wait s1
      | .stop s1 t => .stop { x with s := s1 } t.code t.addr
      | .ok s1 (pa, vid) =>
        if s1.buffered vid pa then .stop { x with s := s1 } .copyCommand (va.setWidth 64)
        else
          let x1 : Xfer := match regionOf pa with
            | .peer w => { x with s := s1, posts := x.posts ++ peerPieces w (n / 64 + 2) pa va (bs.take n) }
            | _ => { x with s := s1, cells := Memory.putN x.cells pa (bs.take n) }
          State.putRow core k fuel x1 (va + BitVec.ofNat 48 n) (bs.drop n)

/-- Puts a whole global row at an address. -/
def storeRow (core : Nat) (k : CCmd) (x : Xfer) (a : Nat) (bs : List Byte) : Moved :=
  match rowOver a bs.length with
  | some b => .stop x .copyCommand b
  | none => State.putRow core k (bs.length / 65536 + 3) x (BitVec.ofNat 48 a) bs

/-- The bytes of a FILL row (R355). -/
def patternRow (p n : Nat) : List Byte := (List.range n).map fun i => BitVec.ofNat 8 (p / 256 ^ (i % 4))

/-- Row `r` of a load form, into the movement. -/
def loadStep (core : Nat) (k : CCmd) (q : CopyReq) (x : Xfer) (r : Nat) : Moved :=
  let put := fun (s : State) (bs : List Byte) => Moved.ok { x with s := s, rows := x.rows ++ [(q.soff + q.sstr * r, bs)] }
  if q.op = 5 then put x.s (patternRow q.gaddr q.rbytes)
  else match x.s.rowAt core k q r with
    | .wait s1 => .wait s1
    | .stop s1 c a => .stop { x with s := s1 } c a
    | .hole s1 => put s1 (List.replicate q.rbytes 0)
    | .at_ s1 a => match s1.fetchRow core k a q.rbytes with
      | .wait s2 => .wait s2
      | .stop s2 t => .stop { x with s := s2 } t.code t.addr
      | .ok s2 bs => put s2 bs

/-- Row `r` of a store form, into the movement. -/
def storeStep (core : Nat) (k : CCmd) (q : CopyReq) (x : Xfer) (r : Nat) : Moved :=
  match x.s.rowAt core k q r with
  | .wait s1 => .wait s1
  | .stop s1 c a => .stop { x with s := s1 } c a
  | .hole s1 => .ok { x with s := s1 }
  | .at_ s1 a => storeRow core k { x with s := s1 } a (s1.padRead k.wg (q.soff + q.sstr * r) q.rbytes)

/-- Whether a command's own source range covers a global address (R355). -/
def CopyReq.covers (q : CopyReq) (a : Nat) : Bool :=
  (List.range q.rows).any fun r => decide ((a + 2 ^ 48 - globalAt q.gaddr (q.srcStr * (r : Nat))) % 2 ^ 48 < q.rbytes)

/-- Bytes of a G2G row as they end: those that the source range also covers are free values (R355, log 6). -/
def blurRow (q : CopyReq) : Nat → State → Nat → List Byte → State × List Byte
  | 0, s, _, bs => (s, bs)
  | _ + 1, s, _, [] => (s, [])
  | n + 1, s, a, b :: r =>
    let v := if q.covers a then ((s.freeVal.1).setWidth 8, s.freeVal.2) else (b, s)
    let rest := blurRow q n v.2 ((a + 1) % 2 ^ 48) r
    (rest.1, v.1 :: rest.2)

/-- Row `r` of G2G, into the movement. -/
def g2gStep (core : Nat) (k : CCmd) (q : CopyReq) (x : Xfer) (r : Nat) : Moved :=
  match x.s.fetchRow core k (globalAt q.gaddr (q.srcStr * (r : Nat))) q.rbytes with
  | .wait s1 => .wait s1
  | .stop s1 t => .stop { x with s := s1 } t.code t.addr
  | .ok s1 bs =>
    let a := globalAt q.dst (q.dstStr * (r : Nat))
    let y := blurRow q q.rbytes s1 a bs
    storeRow core k { x with s := y.1 } a y.2

/-- Moves rows in increasing order (R358). -/
def moveRows (step : Xfer → Nat → Moved) : List Nat → Xfer → Moved
  | [], x => .ok x
  | r :: rest, x =>
    match step x r with
    | .ok y => moveRows step rest y
    | .stop y c a => .stop y c a
    | .wait s => .wait s

/-- A command's whole movement. -/
def State.moveCopy (s : State) (core : Nat) (k : CCmd) (q : CopyReq) : Moved :=
  moveRows (if q.op = 6 then g2gStep core k q else if q.stores then storeStep core k q else loadStep core k q) (List.range q.rows) { s := s }

/-! Landing, completion and stopping. -/

/-- Lands rows in a scratchpad, with their SF events (R249, R363). -/
def State.landXfer (s : State) (wg : Nat) (v : VID) (sf : Bool) (rows : List (Nat × List Byte)) : State :=
  rows.foldl (fun (t : State) r => if sf then State.landRun v wg (r.2.length / 1024 + 2) t r.1 r.2 else t.padWrite wg r.1 r.2) s

/-- Sends a movement's global writes on their way: one publication, and stores to peers (R277, R292, R361). -/
def State.postXfer (s : State) (k : CCmd) (x : Xfer) : State :=
  let s1 := if x.cells = [] then s else s.postPub k.vid k.n x.cells
  x.posts.foldl (fun (t : State) p => (t.sendPeer (copyKey k) p.1 p.2.1 p.2.2.1 (.store p.2.2.2) (.lanes []) false).2) s1

/-- Whether a source granule of a store form with CN is predicted by another version: the command then waits (R405). -/
def State.othersPredict (s : State) (wg : Nat) (v : VID) (gs : List Nat) : Bool :=
  gs.any fun g => decide (((s.wg wg).tagRec g).tag = .predicted) && decide (((s.wg wg).tagRec g).owner ≠ v)

/-- Whether rows of two commands have scratchpad bytes in common. -/
def rowsMeet (xs ys : List (Nat × Nat)) : Bool := xs.any fun x => ys.any fun y => overlap x.1 x.2 y.1 y.2

/-- A slot's rows: offset and length. -/
def McSlot.spans (m : McSlot) : List (Nat × Nat) := m.rows.map fun r => (r.1, r.2.length)

/-- Whether an earlier multicast of a stream has still to drain into bytes of a scratchpad that some rows write: the commands of a stream write their destinations in order (R359). -/
def drainsFirst (slots : List McSlot) (src : Nat) (token : BitVec 3) (wg : Nat) (rows : List (Nat × Nat)) : Bool :=
  slots.any fun m => decide (m.wg = src) && decide (m.token = token) && (m.ranks.any fun r => decide (m.wgs.getD r 0 = wg)) && rowsMeet m.spans rows

/-- A command's scratchpad rows: offset and length. -/
def CopyReq.spans (q : CopyReq) : List (Nat × Nat) := (List.range q.rows).map fun r => (q.soff + q.sstr * r, q.rbytes)

/-- Whether a started command may move its rows now (R359, R363, R405). -/
def State.copyReady (s : State) (k : CCmd) (q : CopyReq) : Bool :=
  k.tagsOk && !(q.loads && drainsFirst s.mem.slots k.wg k.token k.wg q.spans) && (decide (q.op = 6) ||
    (if q.stores then (s.poisonedAt k.wg q.granules).isNone && !(q.sf && s.othersPredict k.wg k.vid q.granules)
     else !q.sf || q.granules.all fun g => s.tagMeets k.wg g k.vid .free))

/-- Whether a command's global writes are published and acknowledged (R285, R361). -/
def State.copyPublished (s : State) (k : CCmd) : Bool :=
  !(s.mem.pubs.any fun p => decide (p.owner = k.n)) && !(s.mem.peers.any fun r => decide (r.fib = copyKey k) && !r.waits)

/-- Moves a command's rows (R355, R356, R363, R364): a load form then completes, the others once their writes are published. -/
def State.runCopy (s : State) (core : Nat) (k : CCmd) (q : CopyReq) : State :=
  match s.moveCopy core k q with
  | .wait s1 => s1
  | .stop x c a =>
    ((x.s.landXfer k.wg k.vid false x.rows).postXfer k x).modCcmd k.n fun y => { y with bad := some (c, a) }
  | .ok x =>
    if q.loads then (x.s.landXfer k.wg k.vid q.sf x.rows).endCopy core k
    else
      let s1 := x.s.postXfer k x
      let s2 := if q.sf && q.stores then q.granules.foldl (fun (t : State) g => t.consume k.wg g) s1 else s1
      s2.modCcmd k.n fun y => { y with moved := true }

/-- COPY_COMMAND_COMPLETE (R361). -/
def execCopyCommandComplete (s : State) : Out :=
  match s.arg with
  | .num n =>
    match s.ccmd? n with
    | none => .next s
    | some (core, k) =>
      let q := copyReq k.bytes
      if k.channel = none ∨ k.bad ≠ none ∨ q.mcast ≠ 0 then .next s
      else if k.moved then .next (if s.copyPublished k then s.endCopy core k else s)
      else .next (if s.copyReady k q then s.runCopy core k q else s)
  | _ => .next s

/-- COPY_COMMAND_STOP (R363, R364): a fault, or a POISONED source granule, stops a command, and it completes. -/
def execCopyCommandStop (s : State) : Out :=
  match s.arg with
  | .num n =>
    match s.ccmd? n with
    | none => .next s
    | some (core, k) =>
      let q := copyReq k.bytes
      let stop := fun (c : Code) (a : BitVec 64) => (s.copyFault k.wg k.grp k.token k.idx c a).endCopy core k
      match k.bad with
      | some (c, a) => .next (if s.copyPublished k then stop c a else s)
      | none =>
        if k.channel ≠ none ∧ k.moved = false ∧ q.stores = true then
          match s.poisonedAt k.wg q.granules with
          | some g => .next (stop .poison (granAddr g))
          | none => .next s
        else .next s
  | _ => .next s

/-! Multicast. -/

/-- The workgroups of a cluster by rank; a rank with none has number 0, which no workgroup has. -/
def State.clusterWgs (s : State) (wg : Nat) : List Nat :=
  (List.range (s.launch wg).cluster).map fun r => ((s.peerWg (s.wg wg) r).map (·.id)).getD 0

/-- MULTICAST_SLOT_ACQUIRE (R362): a command takes a free slot of its cluster, fetches its rows into it, and completes. A drain with WE whose granules hold POISON ends as it begins. -/
def execMulticastSlotAcquire (s : State) : Out :=
  match s.arg with
  | .num n =>
    match s.ccmd? n with
    | none => .next s
    | some (core, k) =>
      let q := copyReq k.bytes
      if k.channel = none ∨ k.bad ≠ none ∨ q.mcast = 0 ∨ 32 ≤ (s.mem.slots.filter fun m => decide (m.core / 4 = core / 4)).length then .next s
      else match s.moveCopy core k q with
        | .wait s1 => .next s1
        | .stop x c a => .next (x.s.modCcmd n fun y => { y with bad := some (c, a) })
        | .ok x =>
          let wgs := x.s.clusterWgs k.wg
          let named := (List.range 4).filter fun r => decide (bits q.mcast r r = 1) && decide (wgs.getD r 0 ≠ 0)
          let bad := if q.we then named.filter fun r => (x.s.poisonedAt (wgs.getD r 0) q.granules).isSome else []
          let note := fun (t : State) (r : Nat) => match t.poisonedAt (wgs.getD r 0) q.granules with
            | some g => t.copyFault k.wg k.grp k.token k.idx .poison (granAddr g)
            | none => t
          let s1 := bad.foldl note x.s
          let ranks := named.filter fun r => !(bad.contains r)
          let m : McSlot := { n := n, core := core, wgs := wgs, ranks := ranks, rows := x.rows, we := q.we, sf := q.sf, wg := k.wg, grp := k.grp, token := k.token, slot := BitVec.ofNat 10 (k.idx.toNat % max (s.launch k.wg).ringSize 1), vid := k.vid }
          let s2 : State := if ranks = [] then s1 else { s1 with mem := { s1.mem with slots := s1.mem.slots ++ [m] } }
          .next (s2.endCopy core k)
  | _ => .next s

/-- The granules that a slot's rows touch. -/
def McSlot.granules (m : McSlot) : List Nat := (m.rows.flatMap fun r => granulesOf r.1 r.2.length).eraseDups

/-- MULTICAST_DRAIN (R362): a rank takes the slot's rows once its tags allow it, after those of the stream's earlier slots that it overlaps (R359). -/
def execMulticastDrain (s : State) : Out :=
  match s.arg with
  | .two n rank =>
    match s.mem.slots.find? fun m => decide (m.n = n) with
    | none => .next s
    | some m =>
      let wg := m.wgs.getD rank 0
      let gs := m.granules
      let ready := (!m.we || s.allEmpty wg m.vid gs) && (!m.sf || gs.all fun g => s.tagMeets wg g m.vid .free)
      let first := !(drainsFirst (s.mem.slots.takeWhile fun x => decide (x.n ≠ n)) m.wg m.token wg m.spans)
      if m.ranks.contains rank && (s.wg wg).resident && !(s.wg wg).stopping && first && ready then
        let s1 := s.landXfer wg m.vid m.sf m.rows
        let left := m.ranks.filter fun r => decide (r ≠ rank)
        .next { s1 with mem := { s1.mem with slots :=
          if left = [] then s1.mem.slots.filter fun x => decide (x.n ≠ n) else s1.mem.slots.map fun x => if x.n = n then { x with ranks := left } else x } }
      else .next s
  | _ => .next s

end Sys2Proof.Machine
end

