-- ==== Sys2Proof/Machine/VersOps.lean ====
section
/-! DEFINITION. The VERS words (15 R393, R401, R411, R412), TLBI (18 R450, R451), dictionary parcels (02 R47 to R53), and a word that is no instruction (R40, R43). -/

namespace Sys2Proof.Machine

/-! VERS. -/

/-- Whether a fibre of a version waits for a victim or for room in the effect buffer, or has a VERSION_POOL_EMPTY that its handler has not yet answered (R387, R390, R391). -/
def State.fibreStalled (s : State) (f : Fibre) : Bool :=
  decide (f.wait.map Wait.why = some .stall) || (decide (f.pl = .h) && decide (f.trap.cause = 0x18#32)) ||
    (match f.wait.map Wait.why with
      | some (.trap t _) => decide (t.code = .versionPoolEmpty)
      | _ => false) ||
    s.mem.loads.any fun l => decide (l.fib = f.key) && (s.committed (l.pa / 1024)).isEmpty && s.noWay (l.pa / 1024)

/-- The STALL bit of a version (R379, R387, R390, R391): of its fibres, its copy commands, and the fault records of its groups. -/
def State.stalled (s : State) (v : VID) : Bool :=
  let empty := fun (b : Option (Code × BitVec 64)) => decide (b.map (·.1) = some .versionPoolEmpty)
  (s.fibres.any fun f => f.live && decide (s.fibreVid f = v) && s.fibreStalled f) ||
    (s.cores.any fun c => c.ccmds.any fun k => decide (k.vid = v) && empty k.bad) ||
    s.groups.any fun g => decide (s.carries g.wg g.grp = v) && decide (g.fault.map (·.code) = some .versionPoolEmpty)

/-- The status word of a version (R379). -/
def State.versionStatus (s : State) (v : VID) : DWord :=
  if vidSlot v = 0 then BitVec.ofNat 64 (min 255 (s.grids.filter fun g => decide (g.launch.version = v) && !g.done).length * 2 ^ 48 + 2 ^ 46)
  else match s.version? v with
    | none => 0
    | some x =>
      let st := match x.state with | .live => 1 | .committed => 2 | .squashed => 3
      let grids := min 255 (s.grids.filter fun g => decide (g.launch.version = v) && !g.done).length
      BitVec.ofNat 64 (grids * 2 ^ 48 + st * 2 ^ 46 + (s.stalled v).toNat * 2 ^ 44 + x.pred.toNat * 2 ^ 43 +
        x.parent.toNat * 2 ^ 37 + (s.depth v % 64) * 2 ^ 31 + min 65535 x.copies.length)

/-- The instant of a RESOLVE (R393): the path commits, what descends from its target stays, re-parented to the root where its parent committed, and every other live version is squashed. Answers the number squashed. -/
def State.resolveTo (s : State) (d : Nat) (target : VID) : State × Nat × Nat :=
  let path := (s.chain 64 target).reverse
  let others := (s.liveOf d).filter fun u => !(path.contains u)
  let keeps := fun (u : VID) => decide (vidSlot target ≠ 0) && (s.chain 64 u).contains target
  let dead := others.filter fun u => !(keeps u)
  let s1 := s.commitAll d path
  let lift := fun (x : Version) => if keeps x.vid && !(path.contains x.vid) && path.contains (vidOf d x.parent.toNat) then { x with parent := 0 } else x
  let s2 : State := { s1 with versions := s1.versions.map lift }
  let s3 := s2.squashAll dead
  let s4 := (s.copiedPages path).foldl (fun (t : State) p => t.splicePage d path p) s3
  ((s4.forgetCopies path).issueEffects d path, path.length, dead.length)

/-- Writes d in a group's fibres of the entry, and 0 in those whose effects are suppressed (R393). -/
def State.giveGroup (s : State) (c : Issue) (g : Nat × Nat) (d : Nat) (x : Word) : State :=
  { s with fibres := s.fibres.map fun f =>
      if f.inEntry c && decide (f.wg = g.1) && decide (f.grp = g.2) then f.setV d (if s.quiet f then 0 else x) else f }

/-- Whether a group's current version is not a root, or not its grid's (R393, R401, R411). -/
def State.notRootGroup (s : State) (g : Nat × Nat) : Bool := s.offGrid g || !(s.isRoot (s.carries g.1 g.2))

/-- What RESOLVE does in a group (R393). -/
def groupResolve (d a b : BitVec 7) : State → Issue → Nat × Nat → List Fibre → Seq := fun s c g fs =>
  match lowestLane fs with
  | none => .done s
  | some f =>
    let acc := (f.v b.toNat).toNat % 65536
    let prop := (f.v b.toNat).toNat / 65536
    let t : VID := (f.v a.toNat).setWidth 10
    if !(f.may d.toNat && f.may a.toNat && f.may b.toNat) || s.notRootGroup g || decide (prop < acc) then .trap s operandTrap
    else
      let s1 := s.boundaryFor c.core fs
      let live : Bool := match s1.version? t with
        | some x => decide (x.state = .live)
        | none => false
      let pred : Bool := match s1.version? t with
        | some x => x.pred
        | none => false
      if vidSlot t ≠ 0 ∧ live = false then .done ((s1.giveGroup c g d.toNat 1).snapshot c.core)
      else if pred then .done ((s1.giveGroup c g d.toNat 2).snapshot c.core)
      else
        let r := s1.resolveTo (vidDomain t) t
        let s2 := r.1.modDomain (vidDomain t) fun x => { x with accept := nextAccept x.accept acc prop }
        .done ((s2.giveGroup c g d.toNat (BitVec.ofNat 32 (r.2.1 * 2 ^ 8 + r.2.2 * 2 ^ 16))).snapshot c.core)

/-- VERS RESOLVE (R393). -/
def execVersResolve (d a b : BitVec 7) (s : State) : Out := .next (s.issueGroups (groupResolve d a b))

/-- Whether an FP32 code is finite and not negative (R401). -/
def finiteTolerance (w : Nat) : Bool := decide (w < 0x7F800000) || decide (w = 0x80000000)

/-- The descriptor of PTILE in order (R401), but for what the workgroup's other ranges decide. -/
def ptileOk (l : Launch) (bs : List Byte) : Bool :=
  let r := field bs 0 4
  let cnt := bits r 20 13
  let m := field bs 4 1
  let mode := bits m 1 0
  decide (bits r 31 21 = 0) && decide (1 ≤ cnt) && decide (cnt ≤ 16) && rangeFits r l.gran.toNat && decide (bits m 7 5 = 0) && decide (bits m 3 2 ≠ 3) && decide (mode ≠ 3) &&
    decide (field bs 5 1 = 0) && (decide (mode = 0) || decide (mode ≤ field bs 6 1)) && finiteTolerance (field bs 8 4) && finiteTolerance (field bs 12 4) &&
    decide (field bs 17 1 = 0) && decide (field bs 18 14 = 0)

/-- The effect of a PTILE whose descriptor is in order (R401); none when the workgroup's ranges forbid it. -/
def State.ptile (s : State) (wg : Nat) (bs : List Byte) : Option State :=
  let w := s.wg wg
  let r := field bs 0 4
  let first := bits r 12 0
  let cnt := bits r 20 13
  let m := field bs 4 1
  let slot := field bs 16 1
  let d := vidDomain (s.launch wg).version
  let s1 := if bits m 4 4 = 1 then s.physWrite (s.histAt d slot 0x10000) [0, 0, 0, 0] else s
  if bits m 1 0 = 0 then
    if w.ranges.any fun p => decide (p.first = first) && decide (p.cnt = cnt) then
      some (s1.modWg wg fun x => { x with ranges := x.ranges.filter fun p => !(decide (p.first = first) && decide (p.cnt = cnt)) })
    else none
  else if (w.ranges.any fun p => decide (p.first < first + cnt) && decide (first < p.first + p.cnt)) || decide (8 ≤ w.ranges.length) then none
  else
    let p : PRange := { first := first, cnt := cnt, ty := BitVec.ofNat 2 (bits m 3 2), linear := decide (bits m 1 0 = 2), warm := field bs 6 1, backoffInit := field bs 7 1, abs := BitVec.ofNat 32 (field bs 8 4), rel := BitVec.ofNat 32 (field bs 12 4), hslot := slot }
    some (s1.modWg wg fun x => { x with ranges := x.ranges ++ [p] })

/-- What PTILE does in a group (R401). -/
def groupPtile (a : BitVec 7) : State → Issue → Nat × Nat → List Fibre → Seq := fun s _ g fs =>
  match lowestLane fs with
  | none => .done s
  | some f =>
    let va := vaOf (f.pair a.toNat) 0
    if !(f.mayPair a.toNat) || s.notRootGroup g then .trap s operandTrap
    else if va.toNat % 32 ≠ 0 then .trap s (misalignedTrap va.toNat)
    else match s.readRecord f va 32 with
      | (s1, .trap t) => .trap s1 t
      | (s1, .wait w) => .wait s1 w
      | (s1, .bytes bs) =>
        if ptileOk (s1.launch g.1) bs then match s1.ptile g.1 bs with
          | some s2 => .done s2
          | none => .trap s1 operandTrap
        else .trap s1 operandTrap

/-- VERS PTILE (R401). -/
def execVersPtile (a : BitVec 7) (s : State) : Out := .next (s.issueGroups (groupPtile a))

/-- What VERS STATE does in a fibre (R412). -/
def laneState (d a : BitVec 7) : State → Issue → Fibre → Except Trap Lane := fun s _ f =>
  if f.mayPair d.toNat && f.may a.toNat then
    .ok { f := f.setPair d.toNat (if s.quiet f then 0 else s.versionStatus ((f.v a.toNat).setWidth 10)) }
  else .error operandTrap

/-- VERS STATE (R412). -/
def execVersState (d a : BitVec 7) (s : State) : Out := .next (s.issueLane (laneState d a))

/-! TLBI. -/

/-- Brings every access in flight in the device to its end, as far as that is the part's to do: what a sweep waits for (R451). -/
def State.drainAll (s : State) : State := s.fibres.foldl (fun (t : State) f => t.drainFibre f.key) s

/-- Whether some access of before an identity is in flight: a load, store, atomic or post, or a request at a peer that is not answered (R451, R511). -/
def State.inFlight (s : State) (mark : Nat) : Bool :=
  (s.mem.loads.any fun l => decide (l.n < mark)) || (s.mem.stores.any fun p => decide (p.n < mark)) || (s.mem.atomics.any fun p => decide (p.n < mark)) ||
    (s.mem.posts.any fun p => decide (p.n < mark)) || s.mem.peers.any fun r => decide (r.n < mark) && r.got.isNone && r.bad.isNone

/-- The sweep of one issue (R451): the boundary, and the removal of the translations of the named pages. -/
def State.tlbiSweep (s : State) (c : Issue) (fs : List Fibre) (gone : Trans → Bool) : State := (s.boundaryFor c.core fs).dropTrans gone

/-- What TLBI leaves to do in a fibre once its sweep has been taken (R450, R451): it waits while accesses of before are in flight. -/
def seqSwept (trap? : Fibre → Option Trap) : State → Issue → Fibre → Seq := fun s _ f =>
  if s.quiet f then .done s
  else match trap? f with
    | some t => .trap s t
    | none =>
      if s.mem.sweeps.any fun x => decide (x.1 = f.key) then .wait s .walk else .done s

/-- TLBI in an entry: `trap?` tells the fibres that fault, `gone` the translations that a fibre's sweep removes. -/
def State.tlbi (s : State) (trap? : Fibre → Option Trap) (gone : List Fibre → Trans → Bool) : State :=
  match s.cur with
  | none => s
  | some c =>
    let fs := (s.liveMembers c).filter fun f => !f.muted && (trap? f).isNone && decide (f.wait.map Wait.why ≠ some .walk)
    let s1 := if fs = [] then s else s.tlbiSweep c fs (gone fs)
    let s2 := if fs = [] ∨ s1.late = true then s1 else s1.drainAll
    let s2 := if s2.inFlight s.ids then { s2 with mem := { s2.mem with sweeps := s2.mem.sweeps ++ fs.map fun f => (f.key, s.ids) } } else s2
    s2.issueSeq (seqSwept trap?)

/-- TLBI [va] (R451). -/
def execTlbi (a : BitVec 7) (s : State) : Out :=
  .next (s.tlbi (fun f => if f.pl = .u then some privilegeTrap else if f.mayPair a.toNat then none else some operandTrap)
    fun fs t => fs.any fun f => t.covers ((f.pair a.toNat).toNat % 2 ^ 48))

/-- TLBI.ALL (R451). -/
def execTlbiAll (s : State) : Out := .next (s.tlbi (fun f => if f.pl = .u then some privilegeTrap else none) fun _ _ => true)

/-! Dictionary parcels. -/

/-- The word that a parcel expands to (R50); none is ILLEGAL_INSTRUCTION. -/
def expandParcel (bytes : Cells) (idx : BitVec 10) (dsp : BitVec 5) : Option Word :=
  let e := leNat (Memory.readN bytes (8 * idx.toNat) 8)
  let w := e % 2 ^ 32
  if bits w 31 31 = 1 ∨ bits w 30 24 = 0x4A then none
  else
    let add := fun (on lo : Nat) => (bits w (lo + 6) lo + (if bits e on on = 1 then dsp.toNat else 0)) % 128 * 2 ^ lo
    some (BitVec.ofNat 32 (bits w 31 21 * 2 ^ 21 + add 32 14 + add 33 7 + add 34 0))

/-- Every live fibre of the entry takes a fault. -/
def State.allTrap (s : State) (t : Trap) : State := s.issueSeq fun u _ _ => .trap u t

/-- DICTIONARY_WORD (R50): the parcel at the entry's pc expands, and its word then takes effect, no sooner than it may issue (R8, R346). -/
def execDictionaryWord (h : BitVec 10) (d : BitVec 5) (_v : Bool) (l : BitVec 10) (x : BitVec 5) (s : State) : Out :=
  match s.cur with
  | none => .next s
  | some c =>
    let low := decide (c.form = .low)
    match s.liveMembers c with
    | [] => .next s
    | f :: _ =>
      let addr := (s.launch f.wg).dict
      let run := fun (t : State) (bytes : Cells) =>
        match expandParcel bytes (if low then l else h) (if low then x else d) with
        | none => t.allTrap illegalTrap
        | some w =>
          if (t.members c).any fun x => t.awaitsLd x w then t.issueSeq fun u _ _ => .wait u .acc
          else { (t.holdFor (t.liveMembers c) w) with cur := some { c with expanded := some w } }
      if addr = 0 then .next (s.allTrap illegalTrap)
      else match (s.core c.core).dicts.find? fun e => decide (e.addr = addr) && e.filled with
        | some e => .next (run s e.bytes)
        | none => match s.readDict c.core addr with
          | .ok s1 bs => .next (run (s1.fillDict c.core addr bs) (Memory.writeN [] 0 bs))
          | .stop s1 t => .next (s1.allTrap { t with info := t.info ||| 0x800 })
          | .wait s1 => .next (s1.issueSeq fun u _ _ => .wait u .data)

/-- ILLEGAL_INSTRUCTION (R40, R43): a word that is no instruction. -/
def execIllegalInstruction (s : State) : Out := .next (s.allTrap illegalTrap)

end Sys2Proof.Machine
end

