-- ==== Sys2Proof/Machine/Pressure.lean ====
section
/-! DEFINITION. Events of memory under pressure (19): the sweeper, compression, demotion and expansion, migration, the frame rings, channel retirement, and uncorrectable errors. -/

namespace Sys2Proof.Machine

/-! The sweeper. -/

/-- SWEEPEN (R459). -/
def State.sweepEn (s : State) (d : Nat) : Bool := decide (bits (s.pressReg d 0) 0 0 = 1)
def State.compEn (s : State) (d : Nat) : Bool := decide (bits (s.pressReg d 0) 1 1 = 1)
def State.coldAge (s : State) (d : Nat) : Nat := bits (s.pressReg d 0) 9 8
def State.cmaxKib (s : State) (d : Nat) : Nat := bits (s.pressReg d 0) 23 16
def State.lowWm (s : State) (d : Nat) : Nat := bits (s.pressReg d 0x10) 31 0
def State.highWm (s : State) (d : Nat) : Nat := bits (s.pressReg d 0x10) 63 32

/-- Whether a die's sweeper pauses (R459, R462): once READY has reached HIGHWM, until it falls below LOWWM. -/
def State.sweepPaused (s : State) (d : Nat) : Bool :=
  let n := (s.pressOf d).ready.length
  if s.highWm d ≤ n then true else if n < s.lowWm d then false else (s.pressOf d).paused

/-- The leaf at a frame's PTEPA, if it maps the frame (R462). -/
def State.frameLeaf (s : State) (d f : Nat) : Option (BitVec 64) :=
  let pte := s.readEntry (s.ftPte d f)
  if leafV pte && decide (65536 * leafFrame pte = framePa d f) then some pte else none

/-- What the sweeper does to one entry (R462). -/
def State.sweepFrame (s : State) (d f : Nat) : State :=
  let w := s.ftWord d f
  if ftState w ≠ ftInuse ∧ ftState w ≠ ftCold then s
  else match s.frameLeaf d f with
    | none => s
    | some pte =>
      if leafA pte then
        let s1 := s.physWrite (s.ftPte d f) (leBytes 8 (pte &&& ~~~(0x40#64)).toNat)
        s1.setFt d f (ftWith w ftInuse 0)
      else
        let age := min (ftAge w + 1) 3
        if s.coldAge d ≤ age ∧ ftState w = ftInuse then
          (s.setFt d f (ftWith w ftCold age)).modPress d fun p => { p with ready := p.ready ++ [(f, pte)] }
        else s.setFt d f (ftWith w (ftState w) age)

/-- SWEEP_ENTRY (R462): the sweeper of a die examines its next entry. -/
def execSweepEntry (s : State) : Out :=
  match s.arg with
  | .die d =>
    let s0 := s.modPress d fun p => { p with paused := s.sweepPaused d }
    if !(s.sweepEn d) || s.sweepPaused d then .next s0
    else
      let f := (s.pressOf d).sweepAt
      let s1 := s0.sweepFrame d f
      .next (s1.modPress d fun p => { p with sweepAt := if f + 1 = Config.framesPerDie then 0 else f + 1, paused := s1.sweepPaused d })
  | _ => .next s

/-! Write windows. -/

/-- Whether a page's lines hold a speculative frame or an overflow copy (R463). It is asked again once the cores have published: what a version had in a tile store stands in a speculative frame then, and the page stays where it is, so that nothing is lost (R475; log 116). -/
def State.pageSpec (s : State) (pa : Nat) : Bool :=
  s.mem.frames.any fun f => decide (f.line / 64 = pa / 65536) && (decide (f.kind = .spec) || f.overflow)

/-- WPW of a leaf. -/
def wpwBit : BitVec 64 := 1#64 <<< 59

/-- Sets WPW, publishes it, and sweeps (R463): every access that used a translation of before is performed. -/
def State.openWindow (s : State) (leafPa : Nat) : State := (s.putLeaf leafPa (s.readEntry leafPa ||| wpwBit)).drainAll

/-- Rewrites the leaf, publishes it, and sweeps a second time (R464). -/
def State.closeWindow (s : State) (leafPa : Nat) (leaf : BitVec 64) : State := (s.putLeaf leafPa (leaf &&& ~~~wpwBit)).drainAll

/-- Whether a core holds unpublished data in lines of a page (R464). -/
def State.holdsPage (s : State) (core pa : Nat) : Bool :=
  let mine := fun (x : Host.Cell) => decide (x.1 / 65536 = pa / 65536)
  (s.core core).lines.any (fun l => !l.tensor && l.cells.any mine) || s.mem.frames.any fun f => decide (f.kind = .priv) && decide (f.core = core) && decide (f.line / 64 = pa / 65536)

/-- Leaves one committed frame of a line, clean, and its bytes in DRAM (R261, R464). -/
def State.flushLine (s : State) (line : Nat) : State :=
  let s1 : State := { s with mem := { s.mem with frames := mergeDown 1 line s.mem.frames.length (s.retagLine s.mem.frames line) } }
  let cs := ((s1.committed line).map (·.2.dirtyOnly)).foldr (fun c acc => Memory.overlay acc c) []
  { s1 with mem := { s1.mem with
      dram := Memory.writeAll s1.mem.dram cs
      frames := s1.mem.frames.map fun f => if f.line = line ∧ f.kind = .committed then { f with dirty := 0 } else f } }

/-- The first steps of R464 for a page: publishing boundaries, one committed frame for each line, and its data in DRAM. -/
def State.settlePage (s : State) (pa : Nat) : State :=
  let s1 := ((List.range s.cores.length).filter fun c => s.holdsPage c pa).foldl (fun (t : State) c => t.publishCore c) s.drainPubs
  (((s1.mem.frames.filter fun f => decide (f.line / 64 = pa / 65536)).map (·.line)).eraseDups).foldl (fun (t : State) l => t.flushLine l) s1

/-- Forgets the L2 frames of a page that nothing maps. -/
def State.dropPage (s : State) (pa : Nat) : State :=
  { s with mem := { s.mem with frames := s.mem.frames.filter fun f => decide (f.line / 64 ≠ pa / 65536) } }

/-- Moves a frame to FREE, and pushes it onto its die's free-frame ring (R464). -/
def State.freeFrame (s : State) (d f : Nat) : State :=
  let s1 := s.dropPage (framePa d f)
  (s1.setFt d f (ftWith (s1.ftWord d f) ftFree (ftAge (s1.ftWord d f)))).pushFrame d f

/-- COMPRESS_START (R463): the oldest cold frame of a die goes under a window, if its three steps succeed. -/
def execCompressStart (s : State) : Out :=
  match s.arg with
  | .die d =>
    let p := s.pressOf d
    if !(s.compEn d) || decide (bits (s.pressReg d 0x18) 31 0 ≤ p.free.length) || p.window.isSome then .next s
    else match p.ready with
      | [] => .next s
      | (f, left) :: r =>
        let s1 := s.modPress d fun x => { x with ready := r }
        let w := s1.ftWord d f
        if ftState w ≠ ftCold then .next s1
        else if s1.readEntry (s1.ftPte d f) ≠ left then .next (s1.setFt d f (ftWith w ftInuse 0))
        else if s1.pageSpec (framePa d f) then .next (s1.setFt d f (ftWith w ftInuse (ftAge w)))
        else
          let leafPa := s1.ftPte d f
          let s2 := (s1.setFt d f (ftWith w ftWindow (ftAge w))).openWindow leafPa
          .next (s2.modPress d fun x => { x with window := some ⟨f, leafPa⟩ })
  | _ => .next s

/-- The lowest index that no record of a zone has. -/
def Press.freeIndex (p : Press) : Nat := ((List.range (p.zone.length + 1)).find? fun i => !(p.zone.any fun r => decide (r.index = i))).getD 0

/-- The bytes of a page. -/
def pageBytes (page : Cells) : List Byte := (List.range 65536).map fun i => Memory.read page i

/-- How the compression of a page ends (R464): the leaf, the state with its new place, and whether the frame becomes free. -/
def State.placePage (s : State) (d f : Nat) (leaf : BitVec 64) : State × BitVec 64 × Bool :=
  let pa := framePa d f
  let page := s.pageCells pa
  let kib := Config.compressedKib (pageBytes page)
  let p := s.pressOf d
  if kib ≤ s.cmaxKib d ∧ (p.zone.foldl (fun n r => n + r.kib) kib) ≤ 1024 * bits (s.pressReg d 0x28) 31 0 then
    let rec_ : ZoneRec := { index := p.freeIndex, gran := BitVec.ofNat 3 (ftGran (s.ftWord d f)), kib := kib, cells := page, stamps := s.pageStamps pa }
    ((s.modPress d fun x => { x with zone := x.zone ++ [rec_] }).moveBarriers (s.ftPte d f) (fun _ => true) (fun _ => .gone), setFrame (leaf ||| (1#64 <<< 57)) (65536 * (rec_.index + d * 2 ^ 33)), true)
  else match s.popCxl d with
    | (some c, s1) => (((s1.installPage c page).stampPage c (s.pageStamps pa)).moveBarriers (s.ftPte d f) (fun _ => true) (GbarWait.inFrame c), setFrame ((leaf &&& ~~~(3#64 <<< 55)) ||| (1#64 <<< 55)) c, true)
    | (none, _) => (s, leaf, false)

/-- COMPRESS_FINISH (R464). -/
def execCompressFinish (s : State) : Out :=
  match s.arg with
  | .die d =>
    match (s.pressOf d).window with
    | none => .next s
    | some w =>
      let s0 := s.modPress d fun x => { x with window := none }
      if ftState (s0.ftWord d w.frame) ≠ ftWindow then .next (s0.closeWindow w.leafPa (s0.readEntry w.leafPa))
      else
        let s1 := s0.settlePage (framePa d w.frame)
        let leaf := s1.readEntry w.leafPa
        let r := if s1.pageSpec (framePa d w.frame) then (s1, leaf, false) else s1.placePage d w.frame leaf
        let s2 := r.1.closeWindow w.leafPa r.2.1
        .next (if r.2.2 then s2.freeFrame d w.frame else s2.setFt d w.frame (ftWith (s2.ftWord d w.frame) ftInuse 0))
  | _ => .next s

/-! Expansion. -/

/-- The live fibres of a fibre's entry that wait for the expansion of a page, each with its address and whether it writes. -/
def State.expanding (s : State) (f : Fibre) (leafPa : Nat) : List (FibreKey × VA × Bool) :=
  let wants := fun (x : Fibre) => match x.wait.map Wait.why with
    | some (.hardware .compressedPage va w) => if s.leafAt va.toNat = some leafPa then some (x.key, va, w) else none
    | _ => none
  (match f.issue? with | some c => s.liveMembers c | none => [f]).filterMap wants

/-- PAGE_EXPANSION (R465): the expansion of the page on which a fibre waits begins, or ends, as does one that its leaf's address names; where its record is gone, the fibres that wait take PAGE_PROTECTION. -/
def execPageExpansion (s : State) : Out :=
  match s.arg with
  | .fibre k =>
    match s.fibre? k with
    | none => .next s
    | some f =>
      match f.wait.map Wait.why with
      | some (.hardware .compressedPage va _) =>
        match s.leafAt va.toNat with
        | none => .next s
        | some leafPa =>
          match s.expandPage leafPa, f.issue? with
          | .done s1, _ => .next s1
          | .begun s1, _ => .next s1
          | .waits, _ => .next s
          | .gone, none => .next s
          | .gone, some c =>
            let ts := (s.expanding f leafPa).map fun x => (x.1, memTrap .pageProtection x.2.1 { read := !x.2.2, write := x.2.2 } 0)
            let s1 := ts.foldl (fun (t : State) x => t.modFibre x.1 fun y => { y with wait := none }) s
            .next (s1.afterTraps c ts)
      | _ => .next s
  | .num leafPa =>
    match s.expansionOf leafPa with
    | some x => .next (s.endExpansion x.1 x.2)
    | none => .next s
  | _ => .next s

/-! Migration. -/

/-- Sets the state of a die's migration command (R522). -/
def State.migState (s : State) (d n : Nat) : State := s.setCtl (pressBase d + 0x90) 8 n

/-- Whether a migration's destination may be used (R466): in HBM4E its entry must be FREE. -/
def State.destFree (s : State) (pa tier : Nat) : Bool :=
  match regionOf pa with
  | .hbm d => decide (tier = 0) && decide (ftState (s.ftWord d ((pa - hbmBase d) / 65536)) = ftFree)
  | .cxl => decide (tier = 1)
  | .host => decide (tier = 2)
  | .control => false
  | .peer _ => false
  | .none => false

/-- MIGRATE (R466, R522): a write of `v` to the second word of a die's migration command; with GO, the window of R463 opens on the leaf that the first word names. -/
def execMigrate (s : State) : Out :=
  match s.arg with
  | .dieVal d v =>
    if (s.pressOf d).move.isSome then .next s
    else
      let s1 := s.setCtl (pressBase d + 0x88) 8 (v &&& 0x01F3FFFFFFFF0000#64).toNat
      if v.getLsbD 0 then
        let leafPa := bits (s1.pressReg d 0x80) 49 3 * 8
        let leaf := s1.readEntry leafPa
        let m : Move := { leafPa := leafPa, src := 65536 * leafFrame leaf, dest := 65536 * bits v.toNat 49 16, tier := bits v.toNat 56 55, gran := bits v.toNat 54 52 }
        if s1.destFree m.dest m.tier && leafV leaf && !leafZ leaf && !leafWpw leaf && !(s1.pageSpec m.src) then
          .next (((s1.openWindow leafPa).migState d 1).modPress d fun p => { p with move := some m })
        else .next (s1.migState d 3)
      else .next s1
  | _ => .next s

/-- MIGRATION_DONE (R464, R466): the page is copied, FRAME, TIER and GRAN are written together, and the old frame becomes free. -/
def execMigrationDone (s : State) : Out :=
  match s.arg with
  | .die d =>
    match (s.pressOf d).move with
    | none => .next s
    | some m =>
      let s0 := s.modPress d fun p => { p with move := none }
      let s1 := s0.settlePage m.src
      if s1.pageSpec m.src then .next ((s1.closeWindow m.leafPa (s1.readEntry m.leafPa)).migState d 3)
      else
      let s2 := ((s1.installPage m.dest (s1.pageCells m.src)).stampPage m.dest (s1.pageStamps m.src)).moveBarriers m.leafPa (fun _ => true) (GbarWait.inFrame m.dest)
      let keep := s2.readEntry m.leafPa &&& ~~~(0x1F#64 <<< 52)
      let s3 := (s2.closeWindow m.leafPa (setFrame (keep ||| BitVec.ofNat 64 (m.tier * 2 ^ 55 + m.gran * 2 ^ 52)) m.dest)).migState d 2
      match frameIndex m.src with
      | some (x, f) => .next (if ftState (s3.ftWord x f) = ftInuse ∨ ftState (s3.ftWord x f) = ftCold then s3.freeFrame x f else s3)
      | none => .next s3
  | _ => .next s

/-! The frame rings. -/

/-- FRPOP (R459): a read of FRPOP takes the head of the free-frame ring. -/
def execFrpop (s : State) : Out :=
  match s.arg with
  | .die d => .next (s.popFrame d).2
  | _ => .next s

/-- FRPUSH (R459). -/
def execFrpush (s : State) : Out :=
  match s.arg with
  | .dieVal d v => .next (s.pushFrame d v.toNat)
  | _ => .next s

/-- CXLPOP (R459). -/
def execCxlpop (s : State) : Out :=
  match s.arg with
  | .die d => .next (s.popCxl d).2
  | _ => .next s

/-- CXLPUSH (R459). -/
def execCxlpush (s : State) : Out :=
  match s.arg with
  | .dieVal d v => .next (s.pushCxl d v.toNat)
  | _ => .next s

/-! Channel retirement. -/

/-- The bytes by which a retired channel lowers TOP (R471). -/
def retireStep : Nat := 0x78000000

/-- Whether an area of memory reaches above a limit within a die's HBM4E. -/
def above (d top base len : Nat) : Bool := decide (0 < len) && decide (regionOf base = .hbm d) && decide (top < base + len)

/-- Whether a die's zone, a domain's areas or its frame table lie above a limit (R471, R377). -/
def State.areasAbove (s : State) (d top : Nat) : Bool :=
  above d top (s.pressReg d 0x20) (2 ^ 20 * bits (s.pressReg d 0x28) 31 0) || above d top (s.pressReg d 0x08) (32 * Config.framesPerDie) ||
    (List.range 16).any fun x => s.domEnabled x &&
      (above d top (s.domField x 0 8) (2 ^ 20 * s.ovfMib x) || above d top (s.poolBase x) (8 * s.poolCap x) || above d top (s.domField x 32 8) 65536 ||
        above d top (s.histBase x) (2 ^ 25) || above d top (s.domField x 48 8) (32 * s.poolCap x))

/-- Whether some frame from a limit on is neither FREE nor RETIRED (R471). -/
def State.framesUsed (s : State) (d top : Nat) : Bool :=
  let lo := (top - hbmBase d) / 65536
  (List.range (Config.framesPerDie - lo)).any fun i =>
    let st := ftState (s.ftWord d (lo + i))
    decide (st ≠ ftFree) && decide (st ≠ ftRetired)

/-- Moves the FREE frames from a limit on to RETIRED, and off the die's ring (R461, R471; log 117). -/
def State.retireFrames (s : State) (d top : Nat) : State :=
  let lo := (top - hbmBase d) / 65536
  let s1 := (List.range (Config.framesPerDie - lo)).foldl (fun (t : State) i =>
    let w := t.ftWord d (lo + i)
    if ftState w = ftFree then t.setFt d (lo + i) (ftWith w ftRetired (ftAge w)) else t) s
  s1.modPress d fun p => { p with free := p.free.filter fun f => decide (f < lo) }

/-- Writes STAT, and DONE, of a die's RETIRE register (R471). -/
def State.setRetire (s : State) (d stat done : Nat) : State :=
  s.setCtl (pressBase d + 0x58) 8 (done * 2 ^ 32 + stat * 2 ^ 10 + bits (s.pressReg d 0x58) 7 0)

/-- CHANNEL_RETIRE_GO (R471): a write of `v` to RETIRE; with GO, a retirement starts or is refused. -/
def execChannelRetireGo (s : State) : Out :=
  match s.arg with
  | .dieVal d v =>
    let old := s.pressReg d 0x58
    let stack := bits v.toNat 2 0
    let named := if stack < 6 then bits v.toNat 7 0 else bits old 7 0
    let s1 := s.setCtl (pressBase d + 0x58) 8 (old / 2 ^ 8 * 2 ^ 8 + named)
    if !(v.getLsbD 9) then .next s1
    else
      let rs := (s1.pressOf d).rebuilds
      let mine := (rs.find? fun r => decide (r.stack.toNat = bits named 2 0)).getD { stack := BitVec.ofNat 3 named }
      let top := s1.pressReg d 0x60 - retireStep
      if rs.any (·.running) || decide (2 ≤ mine.chans.length) || s1.framesUsed d top || s1.areasAbove d top then
        .next (s1.setRetire d 3 (bits old 63 32))
      else
        let mine' : Rebuild := { mine with chans := mine.chans ++ [BitVec.ofNat 5 (named / 8)], running := true }
        let s2 := s1.modPress d fun p => { p with rebuilds := mine' :: p.rebuilds.filter fun r => decide (r.stack ≠ mine.stack) }
        .next (((s2.retireFrames d top).setCtl (pressBase d + 0x60) 8 top).setRetire d 1 0)
  | _ => .next s

/-- STRIPE_REBUILD (R472): the rebuild of a die rewrites one stripe, which changes no value. -/
def execStripeRebuild (s : State) : Out :=
  match s.arg with
  | .die d =>
    if (s.pressOf d).rebuilds.any (·.running) then
      let n := (bits (s.pressReg d 0x58) 63 32 + 1) % 2 ^ 32
      let spent := decide (Config.stripes ≤ n)
      let s1 := s.setRetire d (if spent then 2 else bits (s.pressReg d 0x58) 11 10) n
      .next (if spent then s1.modPress d fun p => { p with rebuilds := p.rebuilds.map fun r => { r with running := false } } else s1)
    else .next s
  | _ => .next s

/-! Uncorrectable errors. -/

/-- The leaves through which cached translations reach a line: how the part finds the leaf of a page that no frame table lists (log 67). -/
def State.cachedLeaves (s : State) (line : Nat) : List Nat :=
  ((s.cores.flatMap fun c => c.tlb ++ c.lastPages.map (·.page)).filter fun t =>
    let a := 65536 * leafFrame t.leaf / 2 ^ t.log2 * 2 ^ t.log2
    decide (a / 1024 ≤ line) && decide (line < a / 1024 + 2 ^ t.log2 / 1024)).map (·.leafPa) |>.eraseDups

/-- Quarantines the page of a line (R474): P is set in its leaf, which is swept, and its frame becomes QUARANTINED where the part may change it (R461). -/
def State.quarantine (s : State) (line : Nat) : State :=
  let s0 : State := { s with mem := { s.mem with poison := if s.mem.poison.contains line then s.mem.poison else line :: s.mem.poison, refetch := s.mem.refetch.filter fun l => decide (l ≠ line) } }
  match frameIndex (1024 * line) with
  | none => (s0.cachedLeaves line).foldl (fun (t : State) p => (t.putLeaf p (t.readEntry p ||| (1#64 <<< 63))).drainAll) s0
  | some (d, f) =>
    let s1 := match s0.frameLeaf d f with
      | some leaf => (s0.putLeaf (s0.ftPte d f) (leaf ||| (1#64 <<< 63))).drainAll
      | none => s0
    let w := s1.ftWord d f
    if ftState w = ftInuse ∨ ftState w = ftCold ∨ ftState w = ftWindow then s1.setFt d f (ftWith w ftQuarantined (ftAge w)) else s1

/-- A line is poisoned (R473, R474): it is refetched from its host page where R473 allows that, else its page is quarantined. -/
def State.uncorrectable (s : State) (line : Nat) : State :=
  match frameIndex (1024 * line) with
  | none => if (regionOf (1024 * line)).cached then s.quarantine line else s
  | some (d, f) =>
    let w := s.ftWord d f
    let backed : Bool := match s.frameLeaf d f with
      | some leaf => leafHb leaf
      | none => false
    if (ftState w = ftInuse ∨ ftState w = ftCold) ∧ s.ftHbpa d f ≠ 0 ∧ ftRf w = false ∧ backed = true then
      let from_ := s.ftHbpa d f + 1024 * (line % 64)
      let data := (List.range 1024).map fun i => Memory.read s.mem.dram (from_ + i)
      let s1 : State := { s with mem := { s.mem with
        dram := Memory.writeN s.mem.dram (1024 * line) data
        frames := s.mem.frames.filter fun x => !(decide (x.line = line) && decide (x.kind = .committed))
        poison := line :: s.mem.poison.filter fun l => decide (l ≠ line)
        refetch := line :: s.mem.refetch.filter fun l => decide (l ≠ line) } }
      s1.setFt d f (w + 2 ^ 54)
    else s.quarantine line

/-- UNCORRECTABLE_ERROR (R473, R474). -/
def execUncorrectableError (s : State) : Out :=
  match s.arg with
  | .num line => .next (s.uncorrectable line)
  | _ => .next s

/-- The lines of a die's HBM4E of which a second failed channel of a stack leaves two blocks missing, a rebuild having rewritten `n` stripes (R472). -/
def linesLost (d : Nat) (stack : BitVec 3) (a b : BitVec 5) (n : Nat) : List Nat :=
  ((List.range (64 * Config.framesPerDie)).map (hbmBase d / 1024 + ·)).filter (Config.stripeLost stack a b n)

/-- A channel of a stack fails (R472): during a rebuild of the stack, every stripe with two missing blocks is uncorrectable. -/
def State.channelLost (s : State) (d : Nat) (stack : BitVec 3) (chan : BitVec 5) : State :=
  match (s.pressOf d).rebuilds.find? fun r => decide (r.stack = stack) && r.running with
  | none => s
  | some r => match r.chans.getLast? with
    | none => s
    | some a => if a = chan then s else (linesLost d stack a chan (bits (s.pressReg d 0x58) 63 32)).foldl (fun (t : State) l => t.uncorrectable l) s

/-- HOST_REFETCH_DONE (R473, R474): the refetched line is sound, and its waiting accesses complete; or the host read failed, and the page is quarantined. -/
def execHostRefetchDone (s : State) : Out :=
  match s.arg with
  | .refetched pa ok =>
    let line := pa / 1024
    if s.mem.refetch.contains line then
      let clear := fun (ls : List Nat) => ls.filter fun l => decide (l ≠ line)
      .next (if ok then { s with mem := { s.mem with poison := clear s.mem.poison, refetch := clear s.mem.refetch } } else s.quarantine line)
    else .next s
  | _ => .next s

/-! Key-value victims. -/

/-- The header of a ring (R470): HEAD, TAIL and LOG2. -/
structure RingHead where
  head : BitVec 32
  tail : BitVec 32
  log2 : Nat

def State.ringHead (s : State) (q : BitVec 8) (va : Nat) : Option RingHead :=
  (s.kvLoad q va 16).map fun bs => ⟨BitVec.ofNat 32 (field bs 0 4), BitVec.ofNat 32 (field bs 4 4), field bs 8 1⟩

def RingHead.count (r : RingHead) : Nat := (r.tail - r.head).toNat

/-- Writes an entry at a ring's TAIL, and then advances TAIL; none when the ring is full (R470). -/
def State.ringPush (s : State) (q : BitVec 8) (va es : Nat) (bs : List Byte) : Option State :=
  match s.ringHead q va with
  | none => none
  | some r =>
    if 2 ^ r.log2 ≤ r.count then none
    else (s.kvStore q (va + 64 + es * (r.tail.toNat % 2 ^ r.log2)) bs).bind fun t => t.kvStore q (va + 4) (leBytes 4 (r.tail + 1).toNat)

/-- A sequence's record (R469): its address and its bytes. -/
structure SeqRec where
  va : Nat
  bytes : List Byte

def SeqRec.state (x : SeqRec) : Nat := field x.bytes 32 1
def SeqRec.prio (x : SeqRec) : Nat := field x.bytes 33 1
def SeqRec.admission (x : SeqRec) : Nat := field x.bytes 24 8

/-- The records of a queue's sequence table that can be read. -/
def State.sequences (s : State) (q : BitVec 8) : List SeqRec :=
  (List.range (Config.sequences q)).filterMap fun i =>
    let va := s.seqVa q i
    (s.kvLoad q va 64).map fun bs => ⟨va, bs⟩

/-- The victim among active sequences: the lowest PRIO, and among equals the largest ADMIT (R469). -/
def victimOf : List SeqRec → Option SeqRec
  | [] => none
  | x :: r => match victimOf r with
    | none => some x
    | some y => if x.prio < y.prio ∨ (x.prio = y.prio ∧ y.admission ≤ x.admission) then some x else some y

/-- KV_RING_COUNT (R469, R470): below the low mark, with no eviction under way, a victim's STATE becomes 2. -/
def execKvRingCount (s : State) : Out :=
  match s.arg with
  | .queue q =>
    if !(s.evicts q) then .next s
    else match s.ringHead q (s.qKvring q) with
      | none => .next s
      | some r =>
        let seqs := s.sequences q
        if s.qKvlow q ≤ r.count ∨ (seqs.any fun x => decide (x.state = 2)) = true then .next s
        else match victimOf (seqs.filter fun x => decide (x.state = 1)) with
          | none => .next s
          | some x => .next ((s.kvStore q (x.va + 32) [2]).getD s)
  | _ => .next s

/-- Step 2 of R469: the frames of a victim's entries go onto the ring, each entry becoming 0, as far as the ring has room; the flag says that none is left. -/
def State.reclaim (q : BitVec 8) (bt : Nat) : Nat → State → Nat → State × Bool
  | 0, s, _ => (s, true)
  | n + 1, s, i =>
    match (s.kvLoad q (bt + 8 * i) 8).map leNat with
    | none => (s, false)
    | some e =>
      if e = 0 then State.reclaim q bt n s (i + 1)
      else match (s.kvStore q (bt + 8 * i) (leBytes 8 0)).bind fun t => t.ringPush q (s.qKvring q) 8 (leBytes 8 e) with
        | none => (s, false)
        | some t => State.reclaim q bt n t (i + 1)

/-- Step 3 of R469: the prompt is requeued, STATE becomes 3, and the eviction is reported; a full prompt ring leaves the victim as it is. What the EVICT entry tells of a packet is free (R502 names no packet). -/
def State.requeue (s : State) (q : BitVec 8) (x : SeqRec) : State :=
  let prompt := leBytes 8 x.va ++ slice x.bytes 16 8 ++ slice x.bytes 12 4 ++ slice x.bytes 24 8 ++ List.replicate 4 0
  match (if s.qPring q = 0 then some s else s.ringPush q (s.qPring q) 32 prompt).bind fun t => t.kvStore q (x.va + 32) [3] with
  | none => s
  | some t =>
    let r := t.freeVal
    r.2.offerEntry q { kind := 3, status := r.1.setWidth 8, seq := r.1.toNat, page := BitVec.ofNat 64 x.va }

/-- KV_VICTIM_RECLAIM (R469, R470): steps 2 and 3 for the sequence that a queue evicts, once no launch of it is left. -/
def execKvVictimReclaim (s : State) : Out :=
  match s.arg with
  | .queue q =>
    if !(s.evicts q) then .next s
    else match (s.sequences q).find? fun x => decide (x.state = 2) && decide (field x.bytes 34 2 = 0) with
      | none => .next s
      | some x =>
        match State.reclaim q (field x.bytes 0 8) (field x.bytes 8 4) s 0 with
        | (s1, false) => .next s1
        | (s1, true) => .next (((s1.kvStore q (x.va + 8) (leBytes 4 0)).map fun t => t.requeue q x).getD s1)
  | _ => .next s

end Sys2Proof.Machine
end

