-- ==== Sys2Proof/Machine/Platform.lean ====
section
/-! DEFINITION. Events of the platform (23): writes of the control space (R520 to R524, R528, R530; 15 R377, R378; 18 R454; 19 R459; 21 R487; 22 R509), status bits, reset, quotes, and power. -/

namespace Sys2Proof.Machine

/-! Registers with fields. -/

/-- A field of a 64-bit register: its bits, and which values it takes. -/
structure CtlField where
  hi : Nat
  lo : Nat
  ok : Nat → Bool

/-- A field that takes every value. -/
def anyField (hi lo : Nat) : CtlField := ⟨hi, lo, fun _ => true⟩

/-- A field that a write leaves as it is. -/
def readOnly (hi lo : Nat) : CtlField := ⟨hi, lo, fun _ => false⟩

/-- A register after a write: a field keeps its value when the new one lies outside its range (R521); every other bit is zero. -/
def ctlMerge (old new : Nat) (fs : List CtlField) : Nat :=
  fs.foldl (fun n f => n + (if f.ok (bits new f.hi f.lo) then bits new f.hi f.lo else bits old f.hi f.lo) * 2 ^ f.lo) 0

/-- Whether a workgroup with stacks is resident or saved (R530). -/
def State.stacksHeld (s : State) : Bool := s.wgs.any fun w => decide ((s.launch w.id).stack ≠ 0)

/-- The fields of the device registers (R521), with those that a write finds locked. -/
def State.deviceFields (s : State) (off : Nat) : List CtlField :=
  match off with
  | 0x08 => [anyField 9 0]
  | 0x10 => [⟨13, 8, fun n => decide (20 ≤ n) && decide (n ≤ 40)⟩, ⟨4, 0, fun n => decide (6 ≤ n) && decide (n ≤ 24)⟩]
  | 0x18 => [anyField 49 17]
  | 0x20 => [anyField 49 20]
  | 0x40 => [⟨47, 0, fun n => decide (s.crLog2 = 0) && decide (n % 64 = 0)⟩]
  | 0x50 => [⟨47, 0, fun n => decide (s.crLog2 = 0) && decide (n % 8 = 0)⟩]
  | 0x60 => [⟨49, 16, fun _ => decide (s.front.saveHeld = 0)⟩]
  | 0x68 => [⟨23, 0, fun _ => decide (s.front.saveHeld = 0)⟩]
  | 0x70 => [⟨47, 32, fun _ => !s.stacksHeld⟩]
  | 0x78 => [⟨15, 0, fun n => !s.stacksHeld && decide (s.stkBase + 2 ^ 32 * n ≤ 0xFFFF00000000)⟩]
  | _ => [readOnly 63 0]

/-- The fields of a queue descriptor (R487): ERR, ERRW and EN are not written as plain bits. -/
def queueFields (off : Nat) : List CtlField :=
  if off = 8 then [anyField 63 20, readOnly 19 19, anyField 18 0]
  else if off = 32 then [readOnly 63 40, anyField 39 0]
  else if off < 192 then [anyField 63 0]
  else []

/-- The fields of a domain descriptor (R377, R378): POOLN of an enabled domain, EN and DROPN are not written as plain bits. -/
def domainFields (on : Bool) (off : Nat) : List CtlField :=
  match off with
  | 0 => [⟨63, 0, fun n => decide (n % 2 ^ 20 = 0)⟩]
  | 8 => [anyField 31 0]
  | 16 => [anyField 63 0]
  | 24 => [anyField 63 32, ⟨31, 0, fun _ => !on⟩]
  | 32 => [⟨63, 0, fun n => decide (n % 2 ^ 16 = 0)⟩]
  | 40 => [⟨63, 0, fun n => decide (n % 2 ^ 17 = 0)⟩]
  | 48 => [anyField 63 0]
  | 56 => [readOnly 31 16, ⟨3, 1, fun n => decide (n ≤ 5)⟩, readOnly 0 0]
  | _ => []

/-- The fields of a die's pressure block (R459, R522) that a write changes as plain bits. -/
def State.pressFields (s : State) (d off : Nat) : List CtlField :=
  match off with
  | 0x00 => [⟨23, 16, fun n => decide (1 ≤ n) && decide (n ≤ 63)⟩, ⟨9, 8, fun n => decide (1 ≤ n)⟩, anyField 7 4, anyField 1 0]
  | 0x08 => [⟨63, 0, fun n => decide (n % 4096 = 0)⟩]
  | 0x10 => [⟨63, 32, fun n => decide (n ≤ 65536)⟩, anyField 31 0]
  | 0x18 => [anyField 31 0]
  | 0x20 => [⟨63, 0, fun n => decide (n % 2 ^ 20 = 0) && decide (regionOf n = .hbm d)⟩]
  | 0x28 => [anyField 31 0]
  | 0x80 => [⟨49, 3, fun _ => (s.pressOf d).move.isNone⟩]
  | _ => [readOnly 63 0]

/-- The fields of a peer window's descriptor (R509): ERRVA and ERRCNT are read-only. -/
def windowFields (off : Nat) : List CtlField :=
  match off with
  | 0 => [⟨47, 0, fun n => decide (n % 65536 = 0)⟩]
  | 8 => [anyField 57 48, anyField 41 32, ⟨31, 0, fun n => decide (n ≤ 2 ^ 25)⟩]
  | 16 => [readOnly 63 32, anyField 2 0]
  | _ => [readOnly 63 0]

/-- The fields of the world block (R524). -/
def worldFields (off : Nat) : List CtlField :=
  if off = 0 then [anyField 47 0]
  else if off < 0x28 then [anyField 63 0]
  else if off = 0x28 then [anyField 0 0]
  else if 0x100 ≤ off ∧ off < 0x200 then (if off % 16 = 0 then [anyField 49 16] else [anyField 49 16, anyField 1 0])
  else []

/-- The fields of the power block (R528). -/
def powerFields (off : Nat) : List CtlField :=
  match off with
  | 0x00 => [⟨11, 0, fun n => decide (500 ≤ n) && decide (n ≤ 2800)⟩]
  | 0x08 => [⟨11, 8, fun n => decide (n ≤ 8)⟩]
  | _ => [readOnly 63 0]

/-- The fields of the register at an aligned offset of the control space (R520); none where a writer of the given world finds no register. -/
def State.ctlFields (s : State) (secure : Bool) (reg : Nat) : Option (List CtlField) :=
  if reg < 0x80 then some (s.deviceFields reg)
  else if 0x10000 ≤ reg ∧ reg < 0x20000 then some (queueFields (reg % 256))
  else if 0x20000 ≤ reg ∧ reg < 0x20400 then some (domainFields (s.domEnabled ((reg - 0x20000) / 64)) (reg % 64))
  else if (0x30000 ≤ reg ∧ reg < 0x30098) ∨ (0x31000 ≤ reg ∧ reg < 0x31098) then some (s.pressFields ((reg - 0x30000) / 0x1000) (reg % 0x1000))
  else if 0x40000 ≤ reg ∧ reg < 0x40800 then some (windowFields (reg % 32))
  else if 0x50000 ≤ reg ∧ reg < 0x50200 ∧ secure = true then some (worldFields (reg - 0x50000))
  else if 0x60000 ≤ reg ∧ reg < 0x60020 then some (powerFields (reg - 0x60000))
  else none

/-! Writes. -/

/-- The event that a write of a register starts, where the write has a behaviour of its own (R459, R471, R488, R516, R521, R522, R529); `v` is the register's whole value, `old` what it held, `hit` whether the write covers a byte. -/
def State.ctlEvent (s : State) (reg : Nat) (v : BitVec 64) (hit : Nat → Bool) : Option Turn :=
  let die := (reg - 0x30000) / 0x1000
  let press := decide (0x30000 ≤ reg) && decide (reg < 0x32000)
  if reg = 0x28 ∨ reg = 0x58 then some (.event .statusW1c (.control reg 8 v))
  else if reg = 0x30 then some (.event .collectiveTableLoad (.num v.toNat))
  else if reg = 0x48 then some (.event .collectiveRingConfig (.num v.toNat))
  else if press && decide (reg % 0x1000 = 0x38) then some (.event .frpush (.dieVal die v))
  else if press && decide (reg % 0x1000 = 0x48) then some (.event .cxlpush (.dieVal die v))
  else if press && decide (reg % 0x1000 = 0x58) then some (.event .channelRetireGo (.dieVal die v))
  else if press && decide (reg % 0x1000 = 0x88) then some (.event .migrate (.dieVal die v))
  else if reg = 0x60018 ∧ v.getLsbD 0 = true then some (.event .enterLow .none)
  else if 0x10000 ≤ reg ∧ reg < 0x20000 ∧ reg % 256 = 8 ∧ hit (reg + 2) = true then
    let q := BitVec.ofNat 8 ((reg - 0x10000) / 256)
    if v.getLsbD 19 == s.qEnabled q then none
    else some (if v.getLsbD 19 then .event .queueEnable (.queue q) else .event .queueDisable (.queue q))
  else if 0x20000 ≤ reg ∧ reg < 0x20400 then
    let n := (reg - 0x20000) / 64
    let d := BitVec.ofNat 4 n
    if reg % 64 = 24 ∧ s.domEnabled n = true ∧ hit reg = true then some (.event .domainPoolGrow (.domainVal d (v.setWidth 32)))
    else if reg % 64 = 56 ∧ hit reg = true ∧ (v.getLsbD 0 != s.domEnabled n) = true then
      some (if v.getLsbD 0 then .event .domainEnable (.domain d) else .event .domainDisable (.domain d))
    else none
  else none

/-- A change of world bits takes effect at once on the cores with no resident workgroup (R524). -/
def State.setWorlds (s : State) : State :=
  { s with cores := (List.range s.cores.length).zipWith (fun i c => if s.wgs.any fun w => w.resident && decide (w.core = i) then c else { c with world := s.nextWorld i }) s.cores }

/-- A write of `n` bytes at an offset, within one 64-bit register: plain fields change, and a register with a behaviour of its own has its event in the next turn. -/
def State.ctlWrite (s : State) (secure : Bool) (off n : Nat) (v : BitVec 64) : State :=
  let reg := off / 8 * 8
  match s.ctlFields secure reg with
  | none => s
  | some fs =>
    let old := s.ctlNat reg 8
    let size := min n (8 - off % 8)
    let new := leNat (splice (leBytes 8 old) (off % 8) (leBytes size v.toNat))
    let s1 := s.setCtl reg 8 (ctlMerge old new fs)
    let s2 := if reg = 0x78 ∧ s.stacksHeld = false ∧ s1.stkN = bits new 15 0 then { s1 with front := { s1.front with stackTaken := [] } } else if reg = 0x50000 then s1.setWorlds else s1
    match s.ctlEvent reg (BitVec.ofNat 64 new) (fun b => decide (off ≤ b) && decide (b < off + size)) with
    | some t => { s2 with agenda := t :: s2.agenda }
    | none => s2

/-- CONTROL_REGISTER_WRITE (R520, R521): a write at level S in the non-secure world, through BAR0 or by a fibre; with bytes, one of the monitor, which is secure (R524); with a number, one of BAR2WIN, and with two, one of a word of the MSI-X table (R485). -/
def execControlRegisterWrite (s : State) : Out :=
  match s.arg with
  | .control off n v => .next (s.ctlWrite false off n v)
  | .bytesAt off data => .next (s.ctlWrite true off data.length (BitVec.ofNat 64 (leNat (data.take 8))))
  | .num v => .next { s with bar2win := BitVec.ofNat 16 v }
  | .two off v => .next (s.msixWrite off (BitVec.ofNat 32 v))
  | _ => .next s

/-! Status. -/

/-- STATUS_W1C (R521): a 1 clears LINK, CHFAIL, CROVF or CRBAD; a change of the first two raises the device-status vector. -/
def execStatusW1c (s : State) : Out :=
  match s.arg with
  | .control off _ v =>
    if off = 0x28 then
      let old := s.ctlNat 0x28 8
      let new := (BitVec.ofNat 64 old &&& ~~~(v &&& 0xC000)).toNat
      .next (if new = old then s else (s.setCtl 0x28 8 new).statusVector)
    else if off = 0x58 then .next (s.setCtl 0x58 8 (BitVec.ofNat 64 (s.ctlNat 0x58 8) &&& ~~~(v &&& 3)).toNat)
    else .next s
  | _ => .next s

/-- CHANNEL_FAILURE_REPORT (R521): CHFAIL, with the channel that a base die reports; one that fails during a rebuild of its stack takes lines with it (R472). -/
def execChannelFailureReport (s : State) : Out :=
  match s.arg with
  | .channel d stack chan =>
    let old := s.ctlNat 0x28 8
    let s1 := s.setCtl 0x28 8 (old / 2 ^ 15 * 2 ^ 15 + 2 ^ 14 + d % 2 * 2 ^ 13 + stack.toNat * 2 ^ 10 + chan.toNat * 2 ^ 5)
    .next ((if bits old 14 14 = 1 then s1 else s1.statusVector).channelLost (d % 2) stack chan)
  | _ => .next s

/-! Reset and quotes. -/

/-- DEVICE_RESET (R523): the machine right after reset. Host memory is not the device's; what moves next, and the counter of free values, are the model's own. -/
def execDeviceReset (s : State) : Out :=
  .next { State.reset with mem := { State.reset.mem with dram := s.mem.dram.filter fun c => decide (regionOf c.1 = .host) }, agenda := s.agenda, fresh := s.fresh }

/-- ATTESTATION_QUOTE (R526): the answer to a 48-byte nonce holds the eight registers and the nonce, signed. -/
def execAttestationQuote (s : State) : Out :=
  match s.arg with
  | .nonce bytes =>
    if bytes.length = 48 then
      let msg := (s.meas.flatMap fun m => leBytes 48 m.toNat) ++ bytes
      .next { s with quotes := (msg ++ Config.sign msg) :: s.quotes }
    else .next s
  | _ => .next s

/-! Power. -/

/-- The step after a millisecond (R528): `watts` is the power, `avg` its average over 10 ms. -/
def nextStep (step plimit cap temp watts avg : Nat) : Nat :=
  if 105 ≤ temp then 0
  else if 95 ≤ temp ∨ plimit < avg then step - 1
  else if temp ≤ 85 ∧ watts + 100 < plimit ∧ step < cap then step + 1
  else step

/-- POWER_TICK (R528). -/
def execPowerTick (s : State) : Out :=
  match s.arg with
  | .power temp watts avg =>
    let step := nextStep s.power.step.toNat (bits (s.ctlNat 0x60000 8) 11 0) (bits (s.ctlNat 0x60008 8) 11 8) temp watts avg
    let s1 : State := { s with power := { s.power with step := BitVec.ofNat 4 step, junction := BitVec.ofNat 8 temp } }
    .next (if 110 ≤ temp then s1.stopFor .heat else s1)
  | _ => .next s

/-- ENTER_LOW (R529): refused unless every queue is disabled and no workgroup is resident. The cores lose power, and with it what they cache. -/
def execEnterLow (s : State) : Out :=
  if ((List.range 256).any fun q => s.qEnabled (BitVec.ofNat 8 q)) || (s.wgs.any (·.resident)) then .next s
  else
    let cold := fun (c : Core) => { c with tlb := [], lastPages := [], dicts := [] }
    .next { s with power := { s.power with low := true }, cores := s.cores.map cold }

end Sys2Proof.Machine
end

