-- ==== Sys2Proof/Machine/Predicate.lean ====
section
/-! DEFINITION. Compares, predicates and selection (04 R101 to R106), and the group-uniform registers (R107 to R111). -/

namespace Sys2Proof.Machine

/-- A fibre after a compare whose condition gave a bit: the bit combines into predicate PD (R102). -/
def Fibre.compared (f : Fibre) (p : BitVec 4) (comb : BitVec 2) (c : Bool) : Fibre := f.setP p.toNat (combine comb (f.p p.toNat) c)

/-- A compare over two 32-bit registers. -/
def laneCmp (lat : Nat) (p : BitVec 4) (comb : BitVec 2) (a b : BitVec 7) (cond : Word → Word → Bool × FFlags) : State → Issue → Fibre → Except Trap Lane := fun _ _ f =>
  if f.may a.toNat && f.may b.toNat then
    let r := cond (f.v a.toNat) (f.v b.toNat)
    .ok { f := f.compared p comb r.1, flags := r.2, pred := true, lat := lat }
  else .error operandTrap

/-- A compare over two pairs. -/
def laneCmpW (lat : Nat) (p : BitVec 4) (comb : BitVec 2) (a b : BitVec 7) (cond : DWord → DWord → Bool × FFlags) : State → Issue → Fibre → Except Trap Lane := fun _ _ f =>
  if f.mayPair a.toNat && f.mayPair b.toNat then
    let r := cond (f.pair a.toNat) (f.pair b.toNat)
    .ok { f := f.compared p comb r.1, flags := r.2, pred := true, lat := lat }
  else .error operandTrap

/-- ICMP (R101, R102). -/
def execIcmp (c p : BitVec 4) (e : BitVec 2) (a b : BitVec 7) (s : State) : Out := .next (s.issueLane (laneCmp 2 p e a b fun x y => (intCond 32 c.toNat x y, 0)))

/-- What ICMPI does in a fibre (R101). -/
def laneIcmpi (c p : BitVec 4) (e : BitVec 2) (a i : BitVec 7) : State → Issue → Fibre → Except Trap Lane := fun _ _ f =>
  if f.may a.toNat then .ok { f := f.compared p e (intCond 32 c.toNat (f.v a.toNat) (icmpiImm c.toNat i)) } else .error operandTrap

/-- ICMPI (R101, R102). -/
def execIcmpi (c p : BitVec 4) (e : BitVec 2) (a i : BitVec 7) (s : State) : Out := .next (s.issueLane (laneIcmpi c p e a i))

/-- ICMPW (R101, R102). -/
def execIcmpw (c p : BitVec 4) (e : BitVec 2) (a b : BitVec 7) (s : State) : Out := .next (s.issueLane (laneCmpW 2 p e a b fun x y => (intCond 64 c.toNat x y, 0)))

/-- FCMP (R103). -/
def execFcmp (c p : BitVec 4) (e : BitVec 2) (a b : BitVec 7) (s : State) : Out := .next (s.issueLane (laneCmp 3 p e a b fun x y => fp32.compare c.toNat x.toNat y.toNat))

/-- DCMP (R103). -/
def execDcmp (c p : BitVec 4) (e : BitVec 2) (a b : BitVec 7) (s : State) : Out := .next (s.issueLane (laneCmpW 3 p e a b fun x y => fp64.compare c.toNat x.toNat y.toNat))

/-- What PLOG does in a fibre (R104). -/
def lanePlog (t p x y : BitVec 4) : State → Issue → Fibre → Except Trap Lane := fun _ _ f =>
  .ok { f := f.setP p.toNat (truthTable t (f.p x.toNat) (f.p y.toNat)) }

/-- PLOG (R104). -/
def execPlog (t p x y : BitVec 4) (s : State) : Out := .next (s.issueLane (lanePlog t p x y))

/-- What PMOV to a lane register does in a fibre (R105). -/
def lanePmovToLane (d : BitVec 7) (p : BitVec 4) : State → Issue → Fibre → Except Trap Lane := fun _ _ f =>
  if f.may d.toNat then .ok { f := f.setV d.toNat (if f.p p.toNat then 1 else 0) } else .error operandTrap

/-- PMOV vd, pi (R105). -/
def execPmovToLane (_h _g : Bool) (d : BitVec 7) (p : BitVec 4) (s : State) : Out := .next (s.issueLane (lanePmovToLane d p))

/-- What PMOV to a predicate does in a fibre (R105). -/
def lanePmovToPred (p : BitVec 4) (a : BitVec 7) : State → Issue → Fibre → Except Trap Lane := fun _ _ f =>
  if f.may a.toNat then .ok { f := f.setP p.toNat (decide (f.v a.toNat ≠ 0)) } else .error operandTrap

/-- PMOV pi, va (R105). -/
def execPmovToPred (_h _g : Bool) (p : BitVec 4) (a : BitVec 7) (s : State) : Out := .next (s.issueLane (lanePmovToPred p a))

/-- What SEL does in a fibre (R106). -/
def laneSel (p : BitVec 3) (d a b : BitVec 7) : State → Issue → Fibre → Except Trap Lane := fun _ _ f =>
  if f.may d.toNat && f.may a.toNat && f.may b.toNat then
    .ok { f := f.setV d.toNat (if f.p p.toNat then f.v a.toNat else f.v b.toNat) }
  else .error operandTrap

/-- SEL (R106). -/
def execSel (p : BitVec 3) (d a b : BitVec 7) (s : State) : Out := .next (s.issueLane (laneSel p d a b))

/-! Group-uniform registers. -/

/-- k register n of a group (R12). -/
def Group.k (g : Group) (n : Nat) : DWord := g.kregs.getD n 0

def Group.setK (g : Group) (n : Nat) (x : DWord) : Group := { g with kregs := g.kregs.set n x }

/-- KALU's eight operations (R108). -/
def kaluResult (o : BitVec 3) (a b : DWord) : DWord :=
  match o.toNat with
  | 0 => a + b
  | 1 => a - b
  | 2 => a &&& b
  | 3 => a ||| b
  | 4 => a ^^^ b
  | 5 => if b.toNat < 64 then a <<< b.toNat else 0
  | 6 => if b.toNat < 64 then a >>> b.toNat else 0
  | _ => a * b

/-- What KALU does in a group; a field from 32 on names no k register (R41, R108). -/
def groupKalu (o : BitVec 3) (d a b : BitVec 7) : State → Issue → Nat × Nat → List Fibre → Seq := fun s _ g _ =>
  if d.toNat < 32 ∧ a.toNat < 32 ∧ b.toNat < 32 then
    .done (s.modGroup g.1 g.2 fun x => x.setK d.toNat (kaluResult o (x.k a.toNat) (x.k b.toNat)))
  else .trap s operandTrap

/-- KALU (R108). -/
def execKalu (o : BitVec 3) (d a b : BitVec 7) (s : State) : Out := .next (s.issueGroups (groupKalu o d a b))

/-- What KADDI does in a group (R109). -/
def groupKaddi (i : BitVec 10) (d a : BitVec 5) : State → Issue → Nat × Nat → List Fibre → Seq := fun s _ g _ =>
  .done (s.modGroup g.1 g.2 fun x => x.setK d.toNat (x.k a.toNat + i.signExtend 64))

/-- KADDI (R109). -/
def execKaddi (i : BitVec 10) (d a : BitVec 5) (s : State) : Out := .next (s.issueGroups (groupKaddi i d a))

/-- What KMOV to a k register does in a group: the value comes from its lowest lane in the entry (R107, R110). -/
def groupKmovToK (d : BitVec 5) (a : BitVec 7) : State → Issue → Nat × Nat → List Fibre → Seq := fun s _ g fs =>
  match lowestLane fs with
  | none => .done s
  | some f => if f.mayPair a.toNat then .done (s.modGroup g.1 g.2 fun x => x.setK d.toNat (f.pair a.toNat)) else .trap s operandTrap

/-- KMOV kd, va (R110). -/
def execKmovToK (_h : Bool) (d : BitVec 5) (a : BitVec 7) (s : State) : Out := .next (s.issueGroups (groupKmovToK d a))

/-- What KMOV to a lane pair does in a fibre (R110). -/
def laneKmovToLane (d : BitVec 7) (a : BitVec 5) : State → Issue → Fibre → Except Trap Lane := fun s _ f =>
  if f.mayPair d.toNat then .ok { f := f.setPair d.toNat ((s.group f.wg f.grp).k a.toNat) } else .error operandTrap

/-- KMOV vd, ka (R110). -/
def execKmovToLane (_h : Bool) (d : BitVec 7) (a : BitVec 5) (s : State) : Out := .next (s.issueLane (laneKmovToLane d a))

/-- The address of KLD and KST: a k register and eight times a signed 7-bit offset (R111). -/
def kAddr (k : DWord) (o : BitVec 7) : VA := vaOf k (8 * o.toInt)

/-- The state in which a group's one access takes place: the earlier accesses of all its fibres in the entry have been performed, and the access is performed at once, so that each of them finds it done (R111, R165). -/
def State.groupAccess (s : State) (fs : List Fibre) : State := { fs.foldl (fun (t : State) f => t.drainFibre f.key) s with late := false }

/-- What KLD does in a group: one access, as a load of its lowest lane in the entry (R107, R111). -/
def groupKld (h : BitVec 2) (d a o : BitVec 7) : State → Issue → Nat × Nat → List Fibre → Seq := fun s c g fs =>
  match lowestLane fs with
  | none => .done s
  | some f =>
    if d.toNat < 32 ∧ a.toNat < 32 then (s.groupAccess fs).load f h.toNat false 8 (.k d.toNat) (kAddr ((s.group g.1 g.2).k a.toNat) o) (nextOf c f)
    else .trap s operandTrap

/-- KLD (R111). -/
def execKld (h : BitVec 2) (d a o : BitVec 7) (s : State) : Out := .next (s.issueGroups (groupKld h d a o))

/-- What KST does in a group (R111). -/
def groupKst (h : BitVec 2) (d a o : BitVec 7) : State → Issue → Nat × Nat → List Fibre → Seq := fun s c g fs =>
  match lowestLane fs with
  | none => .done s
  | some f =>
    if d.toNat < 32 ∧ a.toNat < 32 then
      (s.groupAccess fs).store f h.toNat false (kAddr ((s.group g.1 g.2).k a.toNat) o) (leBytes 8 ((s.group g.1 g.2).k d.toNat).toNat) (nextOf c f)
    else .trap s operandTrap

/-- KST (R111). -/
def execKst (h : BitVec 2) (d a o : BitVec 7) (s : State) : Out := .next (s.issueGroups (groupKst h d a o))

end Sys2Proof.Machine
end

