-- ==== Sys2Proof/Machine/VersEvents.lean ====
section
/-! DEFINITION. Events of versions and of predicted tiles (15 R377, R378, R387, R388, R395, R399, R402, R406 to R410). -/

namespace Sys2Proof.Machine

/-! Waits. -/

/-- STALLED_ACCESS_RESUME (R387, R391): the access is tried again. -/
def execStalledAccessResume (s : State) : Out :=
  match s.arg with
  | .fibre k => .next (s.tryAgain k fun w => decide (w = .stall))
  | _ => .next s

/-! Versions. -/

/-- VERSION_PAGE_COPY (R388): the version of a fibre that waits under VERSION_PAGE gets its copy frame; FAULT_REPLAY then replays the access. -/
def execVersionPageCopy (s : State) : Out :=
  match s.arg with
  | .fibre k =>
    match s.fibre? k with
    | none => .next s
    | some f =>
      match f.wait.map Wait.why with
      | some (.hardware .versionPage va _) =>
        let v := s.actual (s.fibreVid f)
        match s.leafAt va.toNat with
        | none => .next s
        | some leaf =>
          if ((s.version? v).map fun x => x.copies.any fun c => decide (c.1 = leaf)) ≠ some false then .next s
          else .next ((s.copyVersionPage (some f.core) v leaf).getD s)
      | _ => .next s
  | _ => .next s

/-- FRAME_RETAG (R395): a line's frames of a committed version. -/
def execFrameRetag (s : State) : Out :=
  match s.arg with
  | .two v line => .next (s.retag (BitVec.ofNat 10 v) line)
  | _ => .next s

/-- Whether work of a version is left anywhere: workgroups and grids, groups that carry it, commands, publications, dirty lines, effects and task entries. -/
def State.versionUsed (s : State) (v : VID) : Bool :=
  (s.wgs.any fun w => decide ((s.launch w.id).version = v)) || (s.grids.any fun g => decide (g.launch.version = v) && !g.done) ||
    (s.groups.any fun g => decide (g.carried = some v)) || (s.wgs.any fun w => w.exposed.any fun e => decide (e.vid = v)) ||
    (s.cores.any fun c => (c.ccmds.any fun k => decide (k.vid = v)) || (c.mcmds.any fun m => decide (m.vid = v)) || (c.lines.any fun l => decide (l.vid = v) && !l.tensor && decide (l.cells ≠ [])) || c.tasks.any fun t => decide (t.pred = some v)) ||
    (s.mem.pubs.any fun p => decide (p.vid = v)) || (s.mem.slots.any fun m => decide (m.vid = v)) || (s.mem.stores.any fun p => decide (p.vid = v)) ||
    (s.mem.loads.any fun l => decide (l.vid = v)) || (s.mem.atomics.any fun p => decide (p.vid = v)) || (s.mem.topk.any fun r => decide (r.vid = v)) ||
    s.domains.any fun d => d.effects.any fun e => decide (e.vid = v)

/-- A version's slot becomes FREE: its frames go, and its copy frames go onto the free list (R398, R399). -/
def State.freeVersion (s : State) (x : Version) : State :=
  let s1 := x.copies.foldl (fun (t : State) c => t.pushPool (vidDomain x.vid) c.2) s
  { s1 with versions := s1.versions.filter fun y => decide (y.vid ≠ x.vid)
            cores := s1.cores.map fun c => { c with lines := c.lines.filter fun l => decide (l.vid ≠ x.vid) }
            mem := { s1.mem with frames := s1.mem.frames.filter fun f => !(decide (f.kind = .spec) && decide (f.vid = x.vid)) } }

/-- VERSION_SLOT_FREE (R399). -/
def execVersionSlotFree (s : State) : Out :=
  match s.arg with
  | .vid v =>
    match s.version? v with
    | none => .next s
    | some x =>
      let framed := s.mem.frames.any fun f => decide (f.kind = .spec) && decide (f.vid = v)
      match x.state with
      | .live => .next s
      | .squashed => .next (if s.versionUsed v then s else s.freeVersion x)
      | .committed => .next (if s.versionUsed v || framed then s else s.freeVersion x)
  | _ => .next s

/-! Domains. -/

/-- Writes EN of a domain descriptor. -/
def State.setEn (s : State) (d : Nat) (on : Bool) : State :=
  let b := s.domField d 56 1
  s.setCtl (domDesc d + 56) 1 (b / 2 * 2 + on.toNat)

/-- Retags every frame of the committed versions of a domain, whose slots are about to be free (R378, R395). -/
def State.retagDomain (s : State) (d : Nat) : State :=
  (s.mem.frames.filter fun f => decide (f.kind = .spec) && decide (vidDomain f.vid = d)).foldl (fun (t : State) f => t.retag f.vid f.line) s

/-- DOMAIN_ENABLE (R378). -/
def execDomainEnable (s : State) : Out :=
  match s.arg with
  | .domain d =>
    let n := d.toNat
    if s.domEnabled n then .next s
    else
      let s1 := (s.retagDomain n).setEn n true
      let s2 : State := { s1 with
        versions := s1.versions.filter fun x => decide (vidDomain x.vid ≠ n)
        mem := { s1.mem with frames := s1.mem.frames.filter fun f => !(decide (f.kind = .spec) && decide (vidDomain f.vid = n)) } }
      .next (s2.modDomain n fun _ => { accept := 256, floor := 0, effects := [] })
  | _ => .next s

/-- DOMAIN_DISABLE (R378): every live version is squashed first. -/
def execDomainDisable (s : State) : Out :=
  match s.arg with
  | .domain d => .next (if s.domEnabled d.toNat then (s.squashAll (s.liveOf d.toNat)).setEn d.toNat false else s)
  | _ => .next s

/-- DOMAIN_POOL_GROW (R378): a larger POOLN, within POOLCAP, adds frames. -/
def execDomainPoolGrow (s : State) : Out :=
  match s.arg with
  | .domainVal d v =>
    .next (if s.domEnabled d.toNat && decide (s.poolN d.toNat < v.toNat) && decide (v.toNat ≤ s.poolCap d.toNat) then s.setCtl (domDesc d.toNat + 24) 4 v.toNat else s)
  | _ => .next s

/-! Arrivals and the loupe. -/

/-- A declared range of a workgroup by its place in the list. -/
def State.range? (s : State) (wg i : Nat) : Option PRange := (s.wg wg).ranges[i]?

/-- Changes the declared range that begins at a granule. -/
def State.modRange (s : State) (wg first : Nat) (h : PRange → PRange) : State :=
  s.modWg wg fun w => { w with ranges := w.ranges.map fun p => if p.first = first then h p else p }

/-- The domain whose history a workgroup's ranges use (R377, R402). -/
def State.histDomain (s : State) (wg : Nat) : Nat := vidDomain (s.launch wg).version

/-- What a range's ARRIVAL buffer holds: diverted bytes over what memory holds there (R402, R405). -/
def State.arrivalBytes (s : State) (wg : Nat) (p : PRange) : List Byte :=
  let at_ := s.histAt (s.histDomain wg) p.hslot 0xC000
  (List.range (1024 * p.cnt)).map fun i =>
    (((s.wg wg).diverted.find? fun x => decide (x.1 = p.first + i / 1024)).bind fun x => Memory.get x.2 (i % 1024)).getD (s.newestByte (at_ + i))

/-- The history moves on at an arrival (R402): H1 to H2, the arrived data to H1, and the count up to 255. -/
def State.shiftHistory (s : State) (wg : Nat) (p : PRange) (data : List Byte) : State :=
  let d := s.histDomain wg
  let h1 := s.physRead (s.histAt d p.hslot 0) (1024 * p.cnt)
  let s1 := (s.physWrite (s.histAt d p.hslot 0x4000) h1).physWrite (s.histAt d p.hslot 0) data
  s1.physWrite (s.histAt d p.hslot 0x10000) (leBytes 4 (min 255 (s.hcount d p.hslot + 1)))

/-- RANGE_ARRIVAL (R402, R408): every granule of the range has had its set-FULL event. -/
def execRangeArrival (s : State) : Out :=
  match s.arg with
  | .two wg i =>
    match s.range? wg i with
    | none => .next s
    | some p =>
      if p.done ∨ p.arrived.length < p.cnt then .next s
      else
        let data := if p.owner.isSome then s.arrivalBytes wg p else s.padRead wg (1024 * p.first) (1024 * p.cnt)
        let s1 := if p.owner.isSome then s.physWrite (s.histAt (s.histDomain wg) p.hslot 0xC000) data else s
        let empty := (List.range p.cnt).all fun j => decide ((s.wg wg).tag (p.first + j) = .empty)
        .next ((s1.shiftHistory wg p data).modRange wg p.first fun q =>
          { q with done := !empty, arrived := if empty then [] else q.arrived, backoff := q.backoff - 1, pending := q.owner.isSome })
  | _ => .next s

/-- A value without its sign. -/
def FVal.magnitude (v : FVal) : FVal :=
  match v with
  | .nan x => .nan x
  | .inf _ => .inf false
  | .fin _ m e => .fin false m e

/-- Whether one element passes (R406). -/
def elementPasses (p : PRange) (real pred : FVal) : Bool :=
  match real, pred with
  | .nan _, .nan _ => true
  | .inf a, .inf b => decide (a = b)
  | .fin _ _ _, .fin _ _ _ =>
    let diff := (exactAdd real pred.neg).v.magnitude
    let room := (exactAdd (fp32.value p.abs.toNat) (exactMul (fp32.value p.rel.toNat) real.magnitude).v).v
    match (exactAdd room diff.neg).v with
    | .fin neg m _ => !neg || decide (m = 0)
    | _ => true
  | _, _ => false

/-- Whether a range's arrival agrees with its prediction (R406). -/
def State.loupePasses (s : State) (wg : Nat) (p : PRange) : Bool :=
  let d := s.histDomain wg
  let n := if p.ty = 0 then 4 else 2
  let real := s.physRead (s.histAt d p.hslot 0xC000) (1024 * p.cnt)
  let pred := s.physRead (s.histAt d p.hslot 0x8000) (1024 * p.cnt)
  (List.range (1024 * p.cnt / n)).all fun i => elementPasses p ((rangeFmt p.ty).value (field real (n * i) n)) ((rangeFmt p.ty).value (field pred (n * i) n))

/-- The predicted granules of a workgroup when their owner commits (R407). -/
def State.settleGranules (s : State) (wg : Nat) (c : VID) : State :=
  let mine := (s.wg wg).tags.filter fun x => decide (x.2.tag = .predicted) && decide (x.2.owner = c)
  let one := fun (t : State) (x : Nat × TagRec) =>
    let r : TagRec := if x.2.consume then {} else { tag := .full }
    if x.2.out then t.putTag wg x.1 r
    else match (t.wg wg).rangeAt x.1 with
      | none => t.putTag wg x.1 r
      | some p =>
        let t1 := t.padWrite wg (1024 * x.1) (slice (t.arrivalBytes wg p) (1024 * (x.1 - p.first)) 1024)
        t1.putTag wg x.1 r
  let s1 := mine.foldl one s
  s1.modWg wg fun w =>
    { w with diverted := w.diverted.filter fun x => !(mine.any fun y => decide (y.1 = x.1))
             ranges := w.ranges.map fun p => if p.owner = some c then { p with owner := none, pending := false } else p }

/-- The commit of a prediction version (R407, R394): its stamp and floor, its copy frames, its buffered effects and its granules. -/
def State.loupeCommit (s : State) (c : VID) : State :=
  let d := vidDomain c
  let s1 := s.commitAll d [c]
  let s2 := ((s.copiedPages [c]).foldl (fun (t : State) p => t.splicePage d [c] p) s1).forgetCopies [c]
  (s2.issueEffects d [c]).wgs.foldl (fun (t : State) w => t.settleGranules w.id c) (s2.issueEffects d [c])

/-- The fibre in whose name a task entry's late decrement is made (R410). -/
def State.lateFibre (s : State) (t : Task) : Fibre :=
  { (((s.fibres.find? fun f => decide (f.wg = t.wg)).getD { wg := t.wg, grp := 0, lane := 0 }) : Fibre) with lane := 2 ^ 41 + t.index }

/-- Completes the entries in VERIFY whose version has committed (R410): the decrement, with no fault at 0, and FREE. -/
def State.finishVerify (s : State) : State :=
  (List.range s.cores.length).foldl (fun (t : State) c =>
    ((t.core c).tasks.filter fun x => decide (x.state = .verify) && !(x.pred.any t.isPred)).foldl (fun (u : State) x =>
      if x.succ = 0 then u.freeTask c x
      else
        let f := u.lateFibre x
        match u.decrement f x.succ with
        | (v, .wait _, _) => v
        | (v, .bytes _, _) => (v.freeTask c x).dropReplies f.key
        | (v, .trap _, _) => (v.freeTask c x).dropReplies f.key) t) s

/-- LOUPE_COMPARE (R406 to R408, R410). -/
def execLoupeCompare (s : State) : Out :=
  match s.arg with
  | .two wg i =>
    match s.range? wg i with
    | none => .next s.finishVerify
    | some p =>
      match p.owner with
      | none => .next s.finishVerify
      | some c =>
        if !p.pending then .next s.finishVerify
        else if s.loupePasses wg p then .next (s.loupeCommit c).finishVerify
        else .next ((s.squash c).modRange wg p.first fun q => { q with backoff := q.backoffInit, owner := none, pending := false })
  | _ => .next s.finishVerify

end Sys2Proof.Machine
end

