-- ==== Sys2Proof/Machine/TrapEvents.lean ====
section
/-! DEFINITION. Events of traps and translation (18 R434, R437, R444, R448, R451), and pre-emption with the restoring of units (21 R503; 18 R452 to R456). -/

namespace Sys2Proof.Machine

/-! Traps. -/

/-- The live fibres that share a fibre's entry, itself included. -/
def State.mates (s : State) (f : Fibre) : List Fibre :=
  match f.issue? with
  | some c => s.liveMembers c
  | none => [f]

/-- TRAP_ENTRY (R434): the parked fibres of an entry enter their handler once their loads have written. -/
def execTrapEntry (s : State) : Out :=
  match s.arg with
  | .fibre k =>
    match s.fibre? k with
    | none => .next s
    | some f =>
      let ts := (s.mates f).filterMap fun x => match x.wait.map Wait.why with
        | some (.trap t lanes) => some (x, t, lanes)
        | _ => none
      if f.seat = .saved ∨ (ts.any fun x => decide (s.owedLds x.1 ≠ [])) = true then .next s
      else .next ((ts.foldl (fun (t : State) x => t.enterTrap x.1.key x.2.1 x.1.pc x.2.2) s).mirror)
  | _ => .next s

/-- Whether what made a fibre wait under R437 is over: a translation as the instruction would make it no longer takes that fault. -/
def State.resolved (s : State) (f : Fibre) (c : Code) (va : VA) (write : Bool) : Bool :=
  match (s.translate (s.who f) va { read := !write, write := write }).2 with
  | .fault t => decide (t.code ≠ c)
  | .ok _ _ _ _ => true

/-- FAULT_REPLAY (R437). -/
def execFaultReplay (s : State) : Out :=
  match s.arg with
  | .fibre k =>
    match s.fibre? k with
    | none => .next s
    | some f => match f.wait.map Wait.why with
      | some (.hardware c va write) => .next (if s.resolved f c va write then s.modFibre k fun x => { x with wait := none } else s)
      | _ => .next s
  | _ => .next s

/-- Whether the watchdog covers a wait (R444). -/
def Why.watched (w : Why) : Bool :=
  match w with
  | .access _ => true
  | .clasp => true
  | .gbar => true
  | .cons _ _ _ => true
  | .trun _ _ _ => true
  | .counts _ _ => true
  | .queueFull => true
  | .hardware _ _ _ => true
  | _ => false

/-- Whether a fibre's wait has passed the limit of R444. -/
def State.overdue (s : State) (f : Fibre) : Bool :=
  match f.wait with
  | some w => w.why.watched && decide (w.since + 2 ^ s.wdShift < s.clock)
  | none => false

/-- The fault that ends an overdue wait: a record that is due at a WAIT comes first (R443, R444). -/
def State.overdueTrap (s : State) (f : Fibre) : Trap :=
  match f.wait.map Wait.why with
  | some (.counts matrix mask) => (s.dueFault f matrix mask).getD { code := .watchdog }
  | _ => { code := .watchdog }

/-- What an abandoned wait leaves (R444): a GBAR's arrival stays counted, and a LAUNCH appends nothing. -/
def State.abandon (s : State) (f : Fibre) : State :=
  match f.wait.map Wait.why with
  | some .gbar => s.modFibre f.key fun x => { x with gbar := x.gbar.map fun w => { w with away := true } }
  | some .queueFull => { s with mem := { s.mem with appends := s.mem.appends.filter fun a => !(a.fibs.contains f.key) } }
  | some (.counts matrix mask) => if (s.dueFault f matrix mask).isSome then s.faultTaken f else s
  | _ => s

/-- The issue of a fibre's entry; a fibre in the pool stands in an entry that holds nothing. -/
def Fibre.place (f : Fibre) : Option Issue :=
  match f.seat with
  | .entry i => some { core := f.core, part := f.part, entry := i }
  | .pool _ _ => some { core := f.core, part := f.part, entry := 16 }
  | .saved => none

/-- WATCHDOG (R444): the fibres of an entry whose wait is overdue, or one in the pool. -/
def execWatchdog (s : State) : Out :=
  match s.arg with
  | .fibre k =>
    match s.fibre? k with
    | none => .next s
    | some f => match f.place with
      | none => .next s
      | some c =>
        let late := (s.mates f).filter s.overdue
        if late = [] then .next s
        else
          let s1 := late.foldl (fun (t : State) x => t.abandon x) s
          let keys := late.map Fibre.key
          let s2 : State := { s1 with fibres := s1.fibres.map fun x => if keys.contains x.key then { x with wait := none } else x }
          .next (s2.afterTraps c (late.map fun x => (x.key, s.overdueTrap x)))
  | _ => .next s

/-! Translation. -/

/-- TABLE_WALK (R448, R449): a walk for a fibre's address sets A, and D for a write that passes, and fills the caches. -/
def execTableWalk (s : State) : Out :=
  match s.arg with
  | .walk k va write =>
    match s.fibre? k with
    | none => .next s
    | some f => .next (s.translate (s.who f) va { read := !write, write := write }).1
  | _ => .next s

/-- TLBI_SWEEP_DONE (R451): every access that used a removed translation has been performed. -/
def execTlbiSweepDone (s : State) : Out :=
  match s.arg with
  | .fibre k =>
    match s.fibre? k with
    | none => .next s
    | some f =>
      match s.mem.sweeps.find? fun x => decide (x.1 = k) with
      | none => .next s
      | some m =>
        let keys := (s.mates f).map Fibre.key
        let s1 := s.drainAll
        if s1.inFlight m.2 then .next s1
        else .next (({ s1 with mem := { s1.mem with sweeps := s1.mem.sweeps.filter fun x => !(keys.contains x.1) } } : State).tryAgain k fun w => decide (w = .walk))
  | _ => .next s

/-! Pre-emption. -/

/-- The unit of pre-emption that a workgroup belongs to (R452): a cluster, or the whole of a persistent grid. -/
def State.unitOf (s : State) (w : Workgroup) : List Workgroup :=
  s.wgs.filter fun x => x.resident && decide (x.grid = w.grid) && ((s.launch w.id).persist || decide (s.clusterOf x.id = s.clusterOf w.id))

/-- The save blocks that a unit needs (R454, R457). -/
def saveBlocks (l : Launch) (n : Nat) : Nat := (n * (4 * l.regs.toNat * l.groups * l.width + l.padBytes + l.accBytes) + 65535) / 65536 + n

/-- Whether a unit may be pre-empted for a queue (R454, R503): it stands on the queue's die, its own queue has a lower priority, and the pool has its blocks. -/
def State.mayStop (s : State) (q : BitVec 8) (w : Workgroup) : Bool :=
  w.resident && !w.stopping && decide (w.core / 24 = queueDie q) && decide (s.qPrio (s.grid w.grid).queue < s.qPrio q) &&
    decide (s.front.saveHeld + saveBlocks (s.launch w.id) (s.unitOf w).length ≤ s.saveN)

/-- The workgroup whose unit is pre-empted first (R503): the lowest priority, then the most recent placement. -/
def State.bestVictim (s : State) : List Workgroup → Option Workgroup
  | [] => none
  | w :: r => match State.bestVictim s r with
    | none => some w
    | some x =>
      let pw := s.qPrio (s.grid w.grid).queue
      let px := s.qPrio (s.grid x.grid).queue
      if pw < px ∨ (pw = px ∧ x.order < w.order) then some w else some x

/-- What a wait becomes when its unit stops (R452): it ends without effect, but for what the part still has to bring or to resolve, and for a sign that is made. -/
def Wait.keeps (w : Wait) : Bool :=
  match w.why with
  | .hardware _ _ _ => true
  | .trap _ _ => true
  | .peer _ => true
  | .clasp => true
  | _ => false

/-- Step 1 of R452 for a unit: its blocks are taken, and none of its fibres issues again; a GBAR waiter leaves the waiter list (R306). -/
def State.stopUnit (s : State) (unit : List Workgroup) (blocks : Nat) : State :=
  let ids := unit.map (·.id)
  let share := fun (w : Workgroup) => if some w.id = ids.head? then blocks - (ids.length - 1) else 1
  let stop := fun (f : Fibre) =>
    { f with seat := .saved, wait := f.wait.filter Wait.keeps, gbar := f.gbar.map fun g => if g.done then g else { g with away := true } }
  let s1 : State := { s with
    wgs := s.wgs.map fun w => if ids.contains w.id then { w with stopping := true, saved := share w } else w
    fibres := s.fibres.map fun f => if ids.contains f.wg && decide (f.run ≠ .ended) then stop f else f
    front := { s.front with saveHeld := s.front.saveHeld + blocks }
    mem := { s.mem with appends := s.mem.appends.filter fun a => !(ids.contains a.wg)
                        sweeps := s.mem.sweeps.filter fun k => !(ids.contains k.1.wg) } }
  unit.foldl (fun (t : State) w => (List.range 4).foldl (fun (u : State) p => (u.pruneEntries w.core).refill w.core p) t) s1

/-- PREEMPT_WAIT_TIMEOUT (R503): a head that has not fitted for 2^PWAIT clocks has a unit of lower priority stopped; one at a time, until the head fits. -/
def execPreemptWaitTimeout (s : State) : Out :=
  match s.arg with
  | .queue q =>
    let x := s.queue q
    let due : Bool := match x.unfit with
      | some t => decide (s.qPwait q ≠ 0) && decide (t + 2 ^ s.qPwait q ≤ s.clock)
      | none => false
    let busy := s.wgs.any fun w => w.stopping && decide (w.core / 24 = queueDie q)
    if !due || busy || s.headFits q || decide (x.heads = []) then .next s
    else match s.bestVictim (s.wgs.filter fun w => s.mayStop q w) with
      | none => .next s
      | some w => .next (s.stopUnit (s.unitOf w) (saveBlocks (s.launch w.id) (s.unitOf w).length))
  | _ => .next s

/-- Whether steps 2 and 3 of R452 are over for a unit: no load is on its way, no matrix command runs, and no copy command has started. -/
def State.unitQuiet (s : State) (ids : List Nat) : Bool :=
  !(s.mem.peers.any fun r => r.waits && decide (r.got = none) && ids.contains r.fib.wg && decide (r.fib.lane < 64)) &&
    !(s.cores.any fun c => (c.mcmds.any fun m => (ids.contains m.wg || ids.contains m.src) && decide (m.phase ≠ .queued)) || c.ccmds.any fun k => ids.contains k.wg && decide (k.channel ≠ none)) &&
    !(s.mem.topk.any fun t => ids.contains t.wg) && !(s.mem.posts.any fun p => ids.contains p.fib.wg)

/-- Whether a reservation is a matrix command's. -/
def Holder.isMatrix (h : Holder) : Bool :=
  match h with
  | .matrix _ => true
  | .copy _ => false
  | .task _ => false

/-- Saves one workgroup (R452, R453): its core's tables give up what they hold of it, and its place is free. -/
def State.saveWg (s : State) (w : Workgroup) : State :=
  let c := s.core w.core
  let cmds := (c.mcmds.filter fun m => decide (m.wg = w.id)).map fun m => { m with age := s.cmdAge m }
  let s1 := s.modWg w.id fun x =>
    { x with resident := false, stopping := false, reserved := x.reserved.filter fun r => !r.2.isMatrix, keptTasks := c.tasks.filter fun t => decide (t.wg = w.id), keptCmds := cmds, keptCopies := c.ccmds.filter fun k => decide (k.wg = w.id) }
  let s2 := s1.modCore w.core fun x =>
    { x with tasks := x.tasks.filter fun t => decide (t.wg ≠ w.id), mcmds := x.mcmds.filter fun m => decide (m.wg ≠ w.id), ccmds := x.ccmds.filter fun k => decide (k.wg ≠ w.id) }
  let keep := fun (f : Fibre) => if f.wg = w.id ∧ f.pl = .h then { f with kept := s.physRead (s.saveRec f) 128 } else f
  ({ s2 with fibres := s2.fibres.map keep } : State).leaveCore w

/-- PREEMPT (R452, R503): a stopped unit's accesses end, its cores publish, it is saved, and it becomes the head of its queue. -/
def execPreempt (s : State) : Out :=
  match s.arg with
  | .num n =>
    match s.wg? n with
    | none => .next s
    | some w =>
      let unit := s.unitOf w
      let ids := unit.map (·.id)
      if w.stopping && w.resident && s.unitQuiet ids then
        let s1 := (s.fibres.filter fun f => ids.contains f.wg).foldl (fun (t : State) f => t.drainFibre f.key) s
        let s2 := unit.foldl (fun (t : State) x => t.publishCore x.core) s1
        let s3 := unit.foldl (fun (t : State) x => t.saveWg x) s2
        .next (s3.modQueue (s.grid w.grid).queue fun x => { x with heads := { grid := w.grid, restore := ids } :: x.heads })
      else .next s
  | _ => .next s

/-! Restoring. -/

/-- The column slot of a restored fibre: the lowest that no resident allocation of its new column holds, and no group of its workgroup before its own. -/
def State.restoreSlot (s : State) (f : Fibre) (core part home : Nat) : Nat :=
  ((List.range 16).find? fun i => !(s.fibres.any fun g => decide (g.core = core) && decide (g.part = part) && decide (g.home.toNat = home) && decide (g.colSlot.toNat = i) &&
    ((s.wg g.wg).resident || (decide (g.wg = f.wg) && decide (g.grp < f.grp))))).getD 0

/-- A restored fibre in its new place. 01 R10 says that HOME is fixed for the life of the fibre and 18 R455 that it may change on restore; the model follows R455, and the fibre takes the home column of the span that it is restored to (DESIGN CHOICE, log 118). -/
def State.replace (s : State) (f : Fibre) (core : Nat) (p : Span) : Fibre :=
  { f with core := core, part := p.part, home := BitVec.ofNat 6 (p.off + f.lane), colSlot := BitVec.ofNat 4 (s.restoreSlot f core p.part (p.off + f.lane)), notBefore := s.clock }

/-- Fresh indices for restored task entries: old index and new. -/
def newIndices (used : List Nat) : List Task → List (Nat × Nat)
  | [] => []
  | t :: r =>
    let i := ((List.range (used.length + 1)).find? fun i => !(used.contains i)).getD 0
    (t.index, i) :: newIndices (i :: used) r

/-- The new number of a task entry. -/
def renumber (xs : List (Nat × Nat)) (i : Nat) : Nat := ((xs.find? fun x => decide (x.1 = i)).map (·.2)).getD i

/-- Restores one workgroup on a core (R453, R455), with a snapshot boundary (R282). -/
def State.restoreWg (s : State) (w : Workgroup) (core : Nat) (spans : List Span) : State :=
  let move := fun (t : State) (g : Nat) =>
    let p := spans.getD g ⟨0, 0, 0, 0⟩
    { t with fibres := t.fibres.map fun f => if f.wg = w.id ∧ f.grp = g then t.replace f core p else f }
  let s1 : State := (List.range spans.length).foldl move s
  let ix := newIndices ((s1.core core).tasks.map (·.index)) w.keptTasks
  let held := fun (h : Holder) => match h with
    | .task i => .task (renumber ix i)
    | .matrix m => .matrix m
    | .copy c => Holder.copy c
  let s2 := s1.modCore core fun c =>
    { c with tasks := c.tasks ++ w.keptTasks.map (fun t => { t with index := renumber ix t.index })
             mcmds := c.mcmds ++ w.keptCmds.map (fun m => { m with since := s.clock })
             ccmds := c.ccmds ++ w.keptCopies }
  let s3 : State := { s2 with groups := s2.groups.map fun g => if g.wg = w.id then { g with task := g.task.map (renumber ix) } else g
                              front := { s2.front with saveHeld := s2.front.saveHeld - w.saved } }
  let s4 := s3.modWg w.id fun x =>
    { x with core := core, resident := true, order := s.order, saved := 0, keptTasks := [], keptCmds := [], keptCopies := [], reserved := x.reserved.map fun r => (r.1, held r.2) }
  let mine := (s4.fibres.filter fun f => decide (f.wg = w.id) && f.live).map fun f => (f.key, f.part)
  let s5 := mine.foldl (fun (t : State) k => t.seatClass core k.2 fun f => decide (f.key = k.1)) { s4 with order := s4.order + 1 }
  let put := fun (t : State) (f : Fibre) => if f.kept = [] then t else (t.physWrite (t.saveRec f) f.kept).modFibre f.key fun x => { x with kept := [] }
  let s6 := (s5.fibres.filter fun f => decide (f.wg = w.id)).foldl put s5
  (s6.mirror.takeDict core (s.launch w.id).dict).snapshot core

/-- RESTORE_UNIT (R455, R503): a die's dispatcher places the head of the queue that wins, when it is a saved unit. -/
def execRestoreUnit (s : State) : Out :=
  match s.arg with
  | .die d =>
    let s0 := s.noteUnfit d
    if s.power.low ∨ (s0.placingOn d).isSome = true then .next s0
    else match s0.choose d 4 with
      | none => .next s0
      | some (s1, q) =>
        match (s1.queue q).heads with
        | [] => .next s0
        | h :: rest =>
          let l := (s1.grid h.grid).launch
          if h.restore = [] then .next s0
          else match s1.fitSaved q l h.restore with
            | none => .next s0
            | some places =>
              if !(s0.dictsReady (places.map (·.1)) l.dict).2 then .next (s0.dictsReady (places.map (·.1)) l.dict).1
              else
              let s2 := (List.range places.length).foldl (fun (t : State) i =>
                let p := places.getD i (0, [])
                t.restoreWg (t.wg (h.restore.getD i 0)) p.1 p.2) s1
              .next (s2.modQueue q fun x => { x with heads := rest })
  | _ => .next s

end Sys2Proof.Machine
end

