-- ==== Sys2Proof/Machine/Waits.lean ====
section
/-! DEFINITION. What waits for granules of scratchpads and how it is served (10 R250): waiting accesses (R155, R156), TAG CONS (11 R302), answers of a work distributor (09 R222), copy commands with WE and WF (14 R363) and MACC STs (13 R348); and the groups that wait in TRUN (14 R373). -/

namespace Sys2Proof.Machine

/-- What waits: a fibre, an answer, a copy command, or a MACC ST of a core. -/
inductive Waiter where
  | fibre (k : FibreKey)
  | answer (n : Nat)
  | copy (n : Nat)
  | st (core seq : Nat)
deriving DecidableEq, Repr

/-- A waiter in its line: its place in the order of R250, the granules that it waits for, and whether they are now as it awaits them. -/
structure InLine where
  who : Waiter
  place : List Nat
  grans : List (Nat × Nat)
  ready : Bool
deriving DecidableEq, Repr

/-- Whether one place comes before another. -/
def before : List Nat → List Nat → Bool
  | [], [] => false
  | [], _ :: _ => true
  | _ :: _, [] => false
  | a :: x, b :: y => decide (a < b) || (decide (a = b) && before x y)

/-- The place of a fibre's wait at a scratchpad (R250): oldest first; then other cores by number, then the own core's partitions and entries, and the home columns of an entry. -/
def State.fibrePlace (s : State) (f : Fibre) (since wg : Nat) : List Nat :=
  let own := (s.wg wg).core
  let e := match f.seat with
    | .entry i => i
    | .pool n _ => 16 + n
    | .saved => 0
  [since, if f.core = own then 2 else 1, if f.core = own then 0 else f.core, f.part, e, f.home.toNat]

/-- A fibre's wait in line: a `.W` or `.SF` access, or a TAG CONS. A POISONED granule ends a wait too (R249, R302). -/
def State.fibreInLine (s : State) (f : Fibre) : Option InLine :=
  match f.wait with
  | none => none
  | some w =>
    let here := decide (f.seat ≠ .saved) && f.live
    match w.why with
    | .access a => some ⟨.fibre f.key, s.fibrePlace f w.since a.wg, [(a.wg, a.off / 1024)], here && (s.accessReady f a || (decide (a.need ≠ .free) && decide ((s.wg a.wg).tag (a.off / 1024) = .poisoned)))⟩
    | .cons gs _ _ => some ⟨.fibre f.key, s.fibrePlace f w.since ((gs.head?.map (·.1)).getD 0), gs.map fun x => (x.1, x.2.1),
        here && ((gs.all fun x => s.tagMeets x.1 x.2.1 (s.fibreVid f) .full) || gs.any fun x => decide ((s.wg x.1).tag x.2.1 = .poisoned))⟩
    | _ => none

/-- An answer of a distributor in line (R222). -/
def State.answerInLine (s : State) (r : WdReq) : Option InLine :=
  let g := r.off / 1024
  let w := s.wg r.wg
  r.answer.map fun _ => ⟨.answer r.n, [r.since, 0, r.n], [(r.wg, g)], w.resident && !w.stopping && s.tagMeets r.wg g (s.launch r.wg).version .empty && !(w.heldWe g)⟩

/-- A copy command in line (R363): WE of a load form, WF of a store form. -/
def State.copyInLine (s : State) (k : CCmd) : Option InLine :=
  let q := copyReq k.bytes
  if k.channel = none ∨ k.tagsOk = true ∨ k.bad ≠ none then none
  else some ⟨.copy k.n, [k.began, 0, k.order], q.granules.map fun g => (k.wg, g),
    if q.loads then s.allEmpty k.wg k.vid q.granules else q.granules.all fun g => s.tagMeets k.wg g k.vid .full⟩

/-- A MACC ST in line (R348): an OUT granule of another version holds its event (R405). -/
def State.stInLine (s : State) (core : Nat) (m : MCmd) : Option InLine :=
  match m.kind with
  | .st _ _ _ _ _ _ _ _ => some ⟨.st core m.seq, [m.since, 0, m.seq], s.stGrans m, (s.macc? core m.seq).isSome && (s.stGrans m).all fun g => s.tagMeets g.1 g.2 m.vid .free⟩
  | _ => none

/-- Everything that waits for granules. -/
def State.line (s : State) : List InLine :=
  s.fibres.filterMap s.fibreInLine ++ s.mem.wdq.filterMap s.answerInLine ++
    (List.range s.cores.length).flatMap fun c => (s.core c).ccmds.filterMap s.copyInLine ++ (s.core c).mcmds.filterMap (s.stInLine c)

/-- Of some waiters, the first in the order of R250. -/
def firstInLine : List InLine → Option InLine
  | [] => none
  | x :: r => match firstInLine r with
    | none => some x
    | some y => some (if before y.place x.place then y else x)

/-- Whether a waiter's turn has come: it is ready, and no ready waiter for one of its granules comes before it. -/
def State.turnOf (s : State) (w : Waiter) : Bool :=
  s.line.any fun x => decide (x.who = w) && x.ready && !(s.line.any fun y => y.ready && before y.place x.place && y.grans.any x.grans.contains)

/-- A fibre goes on past the instruction at which it waits. -/
def State.passOn (s : State) (k : FibreKey) (pc : VA) (rep : Word) : State := s.modFibre k fun x => { x with pc := pc, rep := rep, wait := none }

/-- Serves a waiting fibre: its access is performed (R250) or its granules consumed (R302), and it goes on; on a POISONED granule it takes POISON. -/
def State.serveFibre (s : State) (f : Fibre) : State :=
  match f.wait.map Wait.why with
  | some (.access a) =>
    if a.need ≠ .free ∧ (s.wg a.wg).tag (a.off / 1024) = .poisoned then s.waitTrap f (poisonTrap a.va.toNat (if a.store then storeNeed false else {}))
    else (s.performAccess f a).passOn f.key a.pc a.rep
  | some (.cons gs pc rep) =>
    match gs.find? fun x => decide ((s.wg x.1).tag x.2.1 = .poisoned) with
    | some x => s.waitTrap f (poisonTrap x.2.2)
    | none => (gs.foldl (fun (u : State) x => u.consume x.1 x.2.1) s).passOn f.key pc rep
  | _ => s

/-- Serves a waiter: an answer lands with its set-FULL event (R222), a WE wait reserves its granules and a WF wait ends (R363), a MACC ST stores (R348). -/
def State.serve (s : State) (w : Waiter) : State :=
  match w with
  | .fibre k => ((s.fibre? k).map s.serveFibre).getD s
  | .answer n =>
    match s.mem.wdq.find? fun r => decide (r.n = n) with
    | none => s
    | some r =>
      let s1 := s.landFull r.wg r.off (leBytes 4 (r.answer.getD 0).toNat) (s.launch r.wg).version
      { s1 with mem := { s1.mem with wdq := s1.mem.wdq.filter fun x => decide (x.n ≠ n) } }
  | .copy n =>
    match s.ccmd? n with
    | none => s
    | some (_, k) =>
      let q := copyReq k.bytes
      let s1 := s.modCcmd n fun x => { x with tagsOk := true }
      if q.loads then s1.modWg k.wg fun w => { w with reserved := w.reserved ++ q.granules.map fun g => (g, Holder.copy n) } else s1
  | .st core seq => ((s.cmd? core seq).map (s.finishSt core)).getD s

/-- The fibre that a waiter is. -/
def Waiter.key? (w : Waiter) : Option FibreKey :=
  match w with
  | .fibre k => some k
  | .answer _ => none
  | .copy _ => none
  | .st _ _ => none

/-- Settles the entries of fibres that have gone on (R201). -/
def State.settleServed (s : State) (ks : List FibreKey) : State :=
  ks.foldl (fun (t : State) k => match t.fibre? k with
    | some f => if f.wait = none then t.settleFor f ks else t
    | none => t) s

/-- Serves what waits for granules, in the order of R250, until nothing that waits is ready: each sees the tags as those before it left them. Answers the fibres served. -/
def State.serveLine : Nat → State → List FibreKey → State × List FibreKey
  | 0, s, ks => (s, ks)
  | n + 1, s, ks => match firstInLine (s.line.filter (·.ready)) with
    | none => (s, ks)
    | some x => State.serveLine n (s.serve x.who) (ks ++ x.who.key?.toList)

/-- The waiters of a clock go on (R250): the fibres of one entry that go on in it stay together (R201). -/
def State.serveAll (s : State) : State :=
  let r := State.serveLine s.line.length s []
  r.1.settleServed r.2

/-- Serves one waiter, if its turn has come. -/
def State.serveIf (s : State) (w : Waiter) : State :=
  if s.turnOf w then (s.serve w).settleServed w.key?.toList else s

/-! The events. -/

/-- WAITED_ACCESS_PROCEEDS (R250). -/
def execWaitedAccessProceeds (s : State) : Out :=
  match s.arg with
  | .fibre k => .next (s.serveIf (.fibre k))
  | _ => .next s

/-- WDQ_ANSWER (R222): the answer waits until its granule is EMPTY. -/
def execWdqAnswer (s : State) : Out :=
  match s.arg with
  | .num n => .next (s.serveIf (.answer n))
  | _ => .next s

/-- COPY_TAG_WAIT_SATISFIED (R363). -/
def execCopyTagWaitSatisfied (s : State) : Out :=
  match s.arg with
  | .num n => .next (s.serveIf (.copy n))
  | _ => .next s

/-- MACC_ST_COMPLETE (R348, R405). -/
def execMaccStComplete (s : State) : Out :=
  match s.arg with
  | .two core seq => .next (s.serveIf (.st core seq))
  | _ => .next s

/-! TRUN. -/

/-- The groups that wait in TRUN, each with its entry, by core, partition, entry and the order of R224 (R373). -/
def State.trunLine (s : State) : List (Issue × Nat × Nat) :=
  (List.range s.cores.length).flatMap fun core => ((s.core core).entries.map fun e => (e.part, e.index)).flatMap fun e =>
    let c : Issue := { core := core, part := e.1, entry := e.2 }
    let waits := fun (g : Nat × Nat) => (s.share c g).any fun f => match f.wait.map Wait.why with
      | some (.trun _ _ _) => true
      | _ => false
    ((s.groupsOf c).filter waits).map fun g => (c, g.1, g.2)

/-- Tries the TRUN of a waiting group again (R373): once an entry is to be had, its fibres go on. Answers them. -/
def State.retryTrun (s : State) (x : Issue × Nat × Nat) : State × List FibreKey :=
  let fs := (s.share x.1 x.2).filter fun f => !f.muted
  match fs.head?.bind fun f => f.wait.map Wait.why with
  | some (.trun p pc rep) => match groupTrun p s x.1 x.2 fs with
    | .done t => (fs.foldl (fun (u : State) f => u.passOn f.key pc rep) t, fs.map Fibre.key)
    | _ => (s, [])
  | _ => (s, [])

/-- The entry order of R373: partition, then entry index. -/
def State.trunOrder (s : State) : List (Issue × Nat × Nat) :=
  s.trunLine.foldr (fun x acc =>
    let rec ins : List (Issue × Nat × Nat) → List (Issue × Nat × Nat)
      | [] => [x]
      | y :: r => if before [y.1.core, y.1.part, y.1.entry] [x.1.core, x.1.part, x.1.entry] then y :: ins r else x :: y :: r
    ins acc) []

/-- Every waiting TRUN is evaluated again, in order (R373). -/
def State.retryTruns (s : State) : State :=
  let r := s.trunOrder.foldl (fun (t : State × List FibreKey) x => let u := t.1.retryTrun x; (u.1, t.2 ++ u.2)) (s, [])
  r.1.settleServed r.2

/-- TRUN_RETRY (R373): every TRUN that waits is evaluated. -/
def execTrunRetry (s : State) : Out :=
  match s.arg with
  | .fibre _ => .next s.retryTruns
  | _ => .next s

end Sys2Proof.Machine
end

