-- ==== Sys2Proof/Machine/Dispatch.lean ====
section
/-! DEFINITION. The dispatch: one arm for each constructor of `Instr`, each a call of its meaning. -/

namespace Sys2Proof.Machine

def exec (i : Instr) (s : State) : Host.Outcome State Fault Refusal :=
  match i with
  | .add a1 a2 a3 a4 a5 a6 => Sys2Proof.Machine.execAdd a1 a2 a3 a4 a5 a6 s
  | .sub a1 a2 a3 a4 a5 a6 => Sys2Proof.Machine.execSub a1 a2 a3 a4 a5 a6 s
  | .mul a1 a2 a3 a4 a5 => Sys2Proof.Machine.execMul a1 a2 a3 a4 a5 s
  | .mulh a1 a2 a3 a4 a5 a6 => Sys2Proof.Machine.execMulh a1 a2 a3 a4 a5 a6 s
  | .imad a1 a2 a3 a4 a5 a6 => Sys2Proof.Machine.execImad a1 a2 a3 a4 a5 a6 s
  | .div a1 a2 a3 a4 a5 a6 => Sys2Proof.Machine.execDiv a1 a2 a3 a4 a5 a6 s
  | .rem a1 a2 a3 a4 a5 a6 => Sys2Proof.Machine.execRem a1 a2 a3 a4 a5 a6 s
  | .and a1 a2 a3 a4 a5 a6 => Sys2Proof.Machine.execAnd a1 a2 a3 a4 a5 a6 s
  | .or a1 a2 a3 a4 a5 a6 => Sys2Proof.Machine.execOr a1 a2 a3 a4 a5 a6 s
  | .xor a1 a2 a3 a4 a5 a6 => Sys2Proof.Machine.execXor a1 a2 a3 a4 a5 a6 s
  | .shl a1 a2 a3 a4 a5 => Sys2Proof.Machine.execShl a1 a2 a3 a4 a5 s
  | .shr a1 a2 a3 a4 a5 a6 => Sys2Proof.Machine.execShr a1 a2 a3 a4 a5 a6 s
  | .min a1 a2 a3 a4 a5 a6 => Sys2Proof.Machine.execMin a1 a2 a3 a4 a5 a6 s
  | .max a1 a2 a3 a4 a5 a6 => Sys2Proof.Machine.execMax a1 a2 a3 a4 a5 a6 s
  | .iunMov a1 a2 a3 a4 => Sys2Proof.Machine.execIunMov a1 a2 a3 a4 s
  | .iunNot a1 a2 a3 a4 => Sys2Proof.Machine.execIunNot a1 a2 a3 a4 s
  | .iunNeg a1 a2 a3 a4 => Sys2Proof.Machine.execIunNeg a1 a2 a3 a4 s
  | .iunAbs a1 a2 a3 a4 => Sys2Proof.Machine.execIunAbs a1 a2 a3 a4 s
  | .iunClz a1 a2 a3 a4 => Sys2Proof.Machine.execIunClz a1 a2 a3 a4 s
  | .iunCtz a1 a2 a3 a4 => Sys2Proof.Machine.execIunCtz a1 a2 a3 a4 s
  | .iunPopc a1 a2 a3 a4 => Sys2Proof.Machine.execIunPopc a1 a2 a3 a4 s
  | .iunBrev a1 a2 a3 a4 => Sys2Proof.Machine.execIunBrev a1 a2 a3 a4 s
  | .iunBswap a1 a2 a3 a4 => Sys2Proof.Machine.execIunBswap a1 a2 a3 a4 s
  | .iunSextb a1 a2 a3 => Sys2Proof.Machine.execIunSextb a1 a2 a3 s
  | .iunSexth a1 a2 a3 => Sys2Proof.Machine.execIunSexth a1 a2 a3 s
  | .iunZextb a1 a2 a3 => Sys2Proof.Machine.execIunZextb a1 a2 a3 s
  | .iunZexth a1 a2 a3 => Sys2Proof.Machine.execIunZexth a1 a2 a3 s
  | .rot a1 a2 a3 a4 a5 a6 => Sys2Proof.Machine.execRot a1 a2 a3 a4 a5 a6 s
  | .bfx a1 a2 a3 a4 a5 a6 => Sys2Proof.Machine.execBfx a1 a2 a3 a4 a5 a6 s
  | .bfi a1 a2 a3 a4 a5 => Sys2Proof.Machine.execBfi a1 a2 a3 a4 a5 s
  | .lea a1 a2 a3 a4 a5 a6 => Sys2Proof.Machine.execLea a1 a2 a3 a4 a5 a6 s
  | .leaw a1 a2 a3 a4 a5 a6 => Sys2Proof.Machine.execLeaw a1 a2 a3 a4 a5 a6 s
  | .addw a1 a2 a3 a4 a5 a6 => Sys2Proof.Machine.execAddw a1 a2 a3 a4 a5 a6 s
  | .mulw a1 a2 a3 a4 a5 => Sys2Proof.Machine.execMulw a1 a2 a3 a4 a5 s
  | .shlw a1 a2 a3 a4 a5 => Sys2Proof.Machine.execShlw a1 a2 a3 a4 a5 s
  | .shrw a1 a2 a3 a4 a5 a6 => Sys2Proof.Machine.execShrw a1 a2 a3 a4 a5 a6 s
  | .sel a1 a2 a3 a4 => Sys2Proof.Machine.execSel a1 a2 a3 a4 s
  | .addi a1 a2 a3 => Sys2Proof.Machine.execAddi a1 a2 a3 s
  | .andi a1 a2 a3 => Sys2Proof.Machine.execAndi a1 a2 a3 s
  | .ori a1 a2 a3 => Sys2Proof.Machine.execOri a1 a2 a3 s
  | .xori a1 a2 a3 => Sys2Proof.Machine.execXori a1 a2 a3 s
  | .shi a1 a2 a3 a4 => Sys2Proof.Machine.execShi a1 a2 a3 a4 s
  | .muli a1 a2 a3 => Sys2Proof.Machine.execMuli a1 a2 a3 s
  | .li a1 a2 => Sys2Proof.Machine.execLi a1 a2 s
  | .lih a1 a2 => Sys2Proof.Machine.execLih a1 a2 s
  | .addiw a1 a2 a3 => Sys2Proof.Machine.execAddiw a1 a2 a3 s
  | .icmp a1 a2 a3 a4 a5 => Sys2Proof.Machine.execIcmp a1 a2 a3 a4 a5 s
  | .icmpi a1 a2 a3 a4 a5 => Sys2Proof.Machine.execIcmpi a1 a2 a3 a4 a5 s
  | .icmpw a1 a2 a3 a4 a5 => Sys2Proof.Machine.execIcmpw a1 a2 a3 a4 a5 s
  | .fcmp a1 a2 a3 a4 a5 => Sys2Proof.Machine.execFcmp a1 a2 a3 a4 a5 s
  | .dcmp a1 a2 a3 a4 a5 => Sys2Proof.Machine.execDcmp a1 a2 a3 a4 a5 s
  | .plog a1 a2 a3 a4 => Sys2Proof.Machine.execPlog a1 a2 a3 a4 s
  | .pmovToLane a1 a2 a3 a4 => Sys2Proof.Machine.execPmovToLane a1 a2 a3 a4 s
  | .pmovToPred a1 a2 a3 a4 => Sys2Proof.Machine.execPmovToPred a1 a2 a3 a4 s
  | .kalu a1 a2 a3 a4 => Sys2Proof.Machine.execKalu a1 a2 a3 a4 s
  | .kaddi a1 a2 a3 => Sys2Proof.Machine.execKaddi a1 a2 a3 s
  | .kmovToK a1 a2 a3 => Sys2Proof.Machine.execKmovToK a1 a2 a3 s
  | .kmovToLane a1 a2 a3 => Sys2Proof.Machine.execKmovToLane a1 a2 a3 s
  | .kld a1 a2 a3 a4 => Sys2Proof.Machine.execKld a1 a2 a3 a4 s
  | .kst a1 a2 a3 a4 => Sys2Proof.Machine.execKst a1 a2 a3 a4 s
  | .fadd a1 a2 a3 a4 a5 a6 => Sys2Proof.Machine.execFadd a1 a2 a3 a4 a5 a6 s
  | .fmul a1 a2 a3 a4 a5 a6 => Sys2Proof.Machine.execFmul a1 a2 a3 a4 a5 a6 s
  | .ffma a1 a2 a3 a4 a5 a6 => Sys2Proof.Machine.execFfma a1 a2 a3 a4 a5 a6 s
  | .fmin a1 a2 a3 a4 a5 a6 => Sys2Proof.Machine.execFmin a1 a2 a3 a4 a5 a6 s
  | .funSqrt a1 a2 a3 => Sys2Proof.Machine.execFunSqrt a1 a2 a3 s
  | .funRsqrt a1 a2 a3 => Sys2Proof.Machine.execFunRsqrt a1 a2 a3 s
  | .funRcp a1 a2 a3 => Sys2Proof.Machine.execFunRcp a1 a2 a3 s
  | .funExp2 a1 a2 a3 => Sys2Proof.Machine.execFunExp2 a1 a2 a3 s
  | .funLog2 a1 a2 a3 => Sys2Proof.Machine.execFunLog2 a1 a2 a3 s
  | .funSin a1 a2 a3 => Sys2Proof.Machine.execFunSin a1 a2 a3 s
  | .funCos a1 a2 a3 => Sys2Proof.Machine.execFunCos a1 a2 a3 s
  | .funTanh a1 a2 a3 => Sys2Proof.Machine.execFunTanh a1 a2 a3 s
  | .funAbs a1 a2 a3 => Sys2Proof.Machine.execFunAbs a1 a2 a3 s
  | .funNeg a1 a2 a3 => Sys2Proof.Machine.execFunNeg a1 a2 a3 s
  | .funFloor a1 a2 a3 => Sys2Proof.Machine.execFunFloor a1 a2 a3 s
  | .funCeil a1 a2 a3 => Sys2Proof.Machine.execFunCeil a1 a2 a3 s
  | .funTrunc a1 a2 a3 => Sys2Proof.Machine.execFunTrunc a1 a2 a3 s
  | .funRint a1 a2 a3 => Sys2Proof.Machine.execFunRint a1 a2 a3 s
  | .funClass a1 a2 a3 => Sys2Proof.Machine.execFunClass a1 a2 a3 s
  | .fdiv a1 a2 a3 a4 a5 => Sys2Proof.Machine.execFdiv a1 a2 a3 a4 a5 s
  | .hadd2 a1 a2 a3 a4 a5 a6 => Sys2Proof.Machine.execHadd2 a1 a2 a3 a4 a5 a6 s
  | .hmul2 a1 a2 a3 a4 a5 a6 => Sys2Proof.Machine.execHmul2 a1 a2 a3 a4 a5 a6 s
  | .hfma2 a1 a2 a3 a4 a5 a6 => Sys2Proof.Machine.execHfma2 a1 a2 a3 a4 a5 a6 s
  | .dadd a1 a2 a3 a4 a5 a6 => Sys2Proof.Machine.execDadd a1 a2 a3 a4 a5 a6 s
  | .dmul a1 a2 a3 a4 a5 a6 => Sys2Proof.Machine.execDmul a1 a2 a3 a4 a5 a6 s
  | .dfma a1 a2 a3 a4 a5 a6 => Sys2Proof.Machine.execDfma a1 a2 a3 a4 a5 a6 s
  | .dunSqrt a1 a2 a3 => Sys2Proof.Machine.execDunSqrt a1 a2 a3 s
  | .dunRsqrt a1 a2 a3 => Sys2Proof.Machine.execDunRsqrt a1 a2 a3 s
  | .dunRcp a1 a2 a3 => Sys2Proof.Machine.execDunRcp a1 a2 a3 s
  | .dunAbs a1 a2 a3 => Sys2Proof.Machine.execDunAbs a1 a2 a3 s
  | .dunNeg a1 a2 a3 => Sys2Proof.Machine.execDunNeg a1 a2 a3 s
  | .dunFloor a1 a2 a3 => Sys2Proof.Machine.execDunFloor a1 a2 a3 s
  | .dunCeil a1 a2 a3 => Sys2Proof.Machine.execDunCeil a1 a2 a3 s
  | .dunTrunc a1 a2 a3 => Sys2Proof.Machine.execDunTrunc a1 a2 a3 s
  | .dunRint a1 a2 a3 => Sys2Proof.Machine.execDunRint a1 a2 a3 s
  | .dunClass a1 a2 a3 => Sys2Proof.Machine.execDunClass a1 a2 a3 s
  | .ddiv a1 a2 a3 a4 a5 => Sys2Proof.Machine.execDdiv a1 a2 a3 a4 a5 s
  | .dmin a1 a2 a3 a4 a5 a6 => Sys2Proof.Machine.execDmin a1 a2 a3 a4 a5 a6 s
  | .cvtF32F64 a1 a2 a3 a4 => Sys2Proof.Machine.execCvtF32F64 a1 a2 a3 a4 s
  | .cvtF64F32 a1 a2 a3 => Sys2Proof.Machine.execCvtF64F32 a1 a2 a3 s
  | .cvtF16F32 a1 a2 a3 a4 a5 => Sys2Proof.Machine.execCvtF16F32 a1 a2 a3 a4 a5 s
  | .cvtF32F16 a1 a2 a3 a4 => Sys2Proof.Machine.execCvtF32F16 a1 a2 a3 a4 s
  | .cvtBf16F32 a1 a2 a3 a4 a5 => Sys2Proof.Machine.execCvtBf16F32 a1 a2 a3 a4 a5 s
  | .cvtF32Bf16 a1 a2 a3 a4 => Sys2Proof.Machine.execCvtF32Bf16 a1 a2 a3 a4 s
  | .cvtS32F32 a1 a2 a3 a4 => Sys2Proof.Machine.execCvtS32F32 a1 a2 a3 a4 s
  | .cvtU32F32 a1 a2 a3 a4 => Sys2Proof.Machine.execCvtU32F32 a1 a2 a3 a4 s
  | .cvtF32S32 a1 a2 a3 a4 => Sys2Proof.Machine.execCvtF32S32 a1 a2 a3 a4 s
  | .cvtF32U32 a1 a2 a3 a4 => Sys2Proof.Machine.execCvtF32U32 a1 a2 a3 a4 s
  | .cvtS32F64 a1 a2 a3 a4 => Sys2Proof.Machine.execCvtS32F64 a1 a2 a3 a4 s
  | .cvtU32F64 a1 a2 a3 a4 => Sys2Proof.Machine.execCvtU32F64 a1 a2 a3 a4 s
  | .cvtF64S32 a1 a2 a3 => Sys2Proof.Machine.execCvtF64S32 a1 a2 a3 s
  | .cvtF64U32 a1 a2 a3 => Sys2Proof.Machine.execCvtF64U32 a1 a2 a3 s
  | .cvtS64F64 a1 a2 a3 a4 => Sys2Proof.Machine.execCvtS64F64 a1 a2 a3 a4 s
  | .cvtF64S64 a1 a2 a3 a4 => Sys2Proof.Machine.execCvtF64S64 a1 a2 a3 a4 s
  | .cvtn a1 a2 a3 a4 => Sys2Proof.Machine.execCvtn a1 a2 a3 a4 s
  | .cvtw a1 a2 a3 a4 => Sys2Proof.Machine.execCvtw a1 a2 a3 a4 s
  | .rand a1 a2 => Sys2Proof.Machine.execRand a1 a2 s
  | .rseed a1 a2 => Sys2Proof.Machine.execRseed a1 a2 s
  | .bra a1 a2 a3 => Sys2Proof.Machine.execBra a1 a2 a3 s
  | .brx a1 a2 a3 => Sys2Proof.Machine.execBrx a1 a2 a3 s
  | .call a1 a2 => Sys2Proof.Machine.execCall a1 a2 s
  | .calli a1 a2 => Sys2Proof.Machine.execCalli a1 a2 s
  | .ret => Sys2Proof.Machine.execRet s
  | .wbase a1 a2 a3 => Sys2Proof.Machine.execWbase a1 a2 a3 s
  | .rep a1 a2 a3 a4 => Sys2Proof.Machine.execRep a1 a2 a3 a4 s
  | .trap a1 => Sys2Proof.Machine.execTrap a1 s
  | .rettResume => Sys2Proof.Machine.execRettResume s
  | .rettSkip => Sys2Proof.Machine.execRettSkip s
  | .rettKillfibre => Sys2Proof.Machine.execRettKillfibre s
  | .rettTaskretry => Sys2Proof.Machine.execRettTaskretry s
  | .rettTaskskip => Sys2Proof.Machine.execRettTaskskip s
  | .rettTaskkill => Sys2Proof.Machine.execRettTaskkill s
  | .fend => Sys2Proof.Machine.execFend s
  | .srd a1 a2 a3 => Sys2Proof.Machine.execSrd a1 a2 a3 s
  | .swr a1 a2 a3 a4 => Sys2Proof.Machine.execSwr a1 a2 a3 a4 s
  | .ldb a1 a2 a3 a4 a5 => Sys2Proof.Machine.execLdb a1 a2 a3 a4 a5 s
  | .ldh a1 a2 a3 a4 a5 => Sys2Proof.Machine.execLdh a1 a2 a3 a4 a5 s
  | .ldw a1 a2 a3 a4 a5 => Sys2Proof.Machine.execLdw a1 a2 a3 a4 a5 s
  | .ldd a1 a2 a3 a4 a5 => Sys2Proof.Machine.execLdd a1 a2 a3 a4 a5 s
  | .ldq a1 a2 a3 a4 a5 => Sys2Proof.Machine.execLdq a1 a2 a3 a4 a5 s
  | .stb a1 a2 a3 a4 a5 => Sys2Proof.Machine.execStb a1 a2 a3 a4 a5 s
  | .sth a1 a2 a3 a4 a5 => Sys2Proof.Machine.execSth a1 a2 a3 a4 a5 s
  | .stw a1 a2 a3 a4 a5 => Sys2Proof.Machine.execStw a1 a2 a3 a4 a5 s
  | .std a1 a2 a3 a4 a5 => Sys2Proof.Machine.execStd a1 a2 a3 a4 a5 s
  | .stq a1 a2 a3 a4 a5 => Sys2Proof.Machine.execStq a1 a2 a3 a4 a5 s
  | .pfetch a1 a2 a3 => Sys2Proof.Machine.execPfetch a1 a2 a3 s
  | .cline a1 a2 a3 => Sys2Proof.Machine.execCline a1 a2 a3 s
  | .yield => Sys2Proof.Machine.execYield s
  | .sleep a1 => Sys2Proof.Machine.execSleep a1 s
  | .brk a1 => Sys2Proof.Machine.execBrk a1 s
  | .nop => Sys2Proof.Machine.execNop s
  | .aadd a1 a2 a3 a4 a5 => Sys2Proof.Machine.execAadd a1 a2 a3 a4 a5 s
  | .aand a1 a2 a3 a4 a5 => Sys2Proof.Machine.execAand a1 a2 a3 a4 a5 s
  | .aor a1 a2 a3 a4 a5 => Sys2Proof.Machine.execAor a1 a2 a3 a4 a5 s
  | .axor a1 a2 a3 a4 a5 => Sys2Proof.Machine.execAxor a1 a2 a3 a4 a5 s
  | .amin a1 a2 a3 a4 a5 => Sys2Proof.Machine.execAmin a1 a2 a3 a4 a5 s
  | .amax a1 a2 a3 a4 a5 => Sys2Proof.Machine.execAmax a1 a2 a3 a4 a5 s
  | .axch a1 a2 a3 a4 a5 => Sys2Proof.Machine.execAxch a1 a2 a3 a4 a5 s
  | .acas a1 a2 a3 a4 a5 => Sys2Proof.Machine.execAcas a1 a2 a3 a4 a5 s
  | .afadd a1 a2 a3 a4 a5 => Sys2Proof.Machine.execAfadd a1 a2 a3 a4 a5 s
  | .ald a1 a2 a3 a4 => Sys2Proof.Machine.execAld a1 a2 a3 a4 s
  | .ast a1 a2 a3 a4 => Sys2Proof.Machine.execAst a1 a2 a3 a4 s
  | .phase => Sys2Proof.Machine.execPhase s
  | .fence a1 a2 => Sys2Proof.Machine.execFence a1 a2 s
  | .wait a1 a2 a3 a4 => Sys2Proof.Machine.execWait a1 a2 a3 a4 s
  | .tagSetf a1 a2 => Sys2Proof.Machine.execTagSetf a1 a2 s
  | .tagSete a1 a2 => Sys2Proof.Machine.execTagSete a1 a2 s
  | .tagCons a1 a2 => Sys2Proof.Machine.execTagCons a1 a2 s
  | .tagGet a1 a2 => Sys2Proof.Machine.execTagGet a1 a2 s
  | .tagPoison a1 a2 => Sys2Proof.Machine.execTagPoison a1 a2 s
  | .gbar a1 a2 a3 a4 => Sys2Proof.Machine.execGbar a1 a2 a3 a4 s
  | .fspawn a1 a2 a3 a4 a5 => Sys2Proof.Machine.execFspawn a1 a2 a3 a4 a5 s
  | .voteAll a1 a2 => Sys2Proof.Machine.execVoteAll a1 a2 s
  | .voteAny a1 a2 => Sys2Proof.Machine.execVoteAny a1 a2 s
  | .voteBallot a1 a2 => Sys2Proof.Machine.execVoteBallot a1 a2 s
  | .voteEq a1 a2 => Sys2Proof.Machine.execVoteEq a1 a2 s
  | .shfl a1 a2 a3 a4 a5 => Sys2Proof.Machine.execShfl a1 a2 a3 a4 a5 s
  | .qswap a1 a2 a3 a4 a5 => Sys2Proof.Machine.execQswap a1 a2 a3 a4 a5 s
  | .gred a1 a2 a3 a4 => Sys2Proof.Machine.execGred a1 a2 a3 a4 s
  | .claspDecl a1 a2 => Sys2Proof.Machine.execClaspDecl a1 a2 s
  | .claspSign a1 => Sys2Proof.Machine.execClaspSign a1 s
  | .claspWait a1 => Sys2Proof.Machine.execClaspWait a1 s
  | .claspArrive a1 => Sys2Proof.Machine.execClaspArrive a1 s
  | .claspRead a1 a2 => Sys2Proof.Machine.execClaspRead a1 a2 s
  | .wdq a1 a2 => Sys2Proof.Machine.execWdq a1 a2 s
  | .mma a1 a2 a3 a4 a5 a6 => Sys2Proof.Machine.execMma a1 a2 a3 a4 a5 a6 s
  | .mmc a1 a2 a3 a4 => Sys2Proof.Machine.execMmc a1 a2 a3 a4 s
  | .maccZero a1 => Sys2Proof.Machine.execMaccZero a1 s
  | .maccLd a1 a2 a3 => Sys2Proof.Machine.execMaccLd a1 a2 a3 s
  | .maccSt a1 a2 => Sys2Proof.Machine.execMaccSt a1 a2 s
  | .taskTq a1 a2 => Sys2Proof.Machine.execTaskTq a1 a2 s
  | .taskTrun a1 => Sys2Proof.Machine.execTaskTrun a1 s
  | .taskTend => Sys2Proof.Machine.execTaskTend s
  | .versResolve a1 a2 a3 => Sys2Proof.Machine.execVersResolve a1 a2 a3 s
  | .versPtile a1 => Sys2Proof.Machine.execVersPtile a1 s
  | .versState a1 a2 => Sys2Proof.Machine.execVersState a1 a2 s
  | .topk a1 a2 a3 => Sys2Proof.Machine.execTopk a1 a2 a3 s
  | .launch a1 a2 => Sys2Proof.Machine.execLaunch a1 a2 s
  | .launchSpec a1 a2 => Sys2Proof.Machine.execLaunchSpec a1 a2 s
  | .tlbi a1 => Sys2Proof.Machine.execTlbi a1 s
  | .tlbiAll => Sys2Proof.Machine.execTlbiAll s
  | .dictionaryWord a1 a2 a3 a4 a5 => Sys2Proof.Machine.execDictionaryWord a1 a2 a3 a4 a5 s
  | .qli a1 a2 => Sys2Proof.Machine.execQli a1 a2 s
  | .qlsh a1 a2 => Sys2Proof.Machine.execQlsh a1 a2 s
  | .qaddi a1 a2 a3 => Sys2Proof.Machine.execQaddi a1 a2 a3 s
  | .qadd a1 a2 a3 => Sys2Proof.Machine.execQadd a1 a2 a3 s
  | .qsub a1 a2 a3 => Sys2Proof.Machine.execQsub a1 a2 a3 s
  | .qand a1 a2 a3 => Sys2Proof.Machine.execQand a1 a2 a3 s
  | .qor a1 a2 a3 => Sys2Proof.Machine.execQor a1 a2 a3 s
  | .qxor a1 a2 a3 => Sys2Proof.Machine.execQxor a1 a2 a3 s
  | .qshl a1 a2 a3 => Sys2Proof.Machine.execQshl a1 a2 a3 s
  | .qshr a1 a2 a3 => Sys2Proof.Machine.execQshr a1 a2 a3 s
  | .qmul a1 a2 a3 => Sys2Proof.Machine.execQmul a1 a2 a3 s
  | .qdivu a1 a2 a3 => Sys2Proof.Machine.execQdivu a1 a2 a3 s
  | .qminu a1 a2 a3 => Sys2Proof.Machine.execQminu a1 a2 a3 s
  | .qldp a1 a2 => Sys2Proof.Machine.execQldp a1 a2 s
  | .qstp a1 a2 => Sys2Proof.Machine.execQstp a1 a2 s
  | .qldm a1 a2 a3 a4 => Sys2Proof.Machine.execQldm a1 a2 a3 a4 s
  | .qstm a1 a2 a3 a4 => Sys2Proof.Machine.execQstm a1 a2 a3 a4 s
  | .qbr a1 => Sys2Proof.Machine.execQbr a1 s
  | .qbz a1 a2 => Sys2Proof.Machine.execQbz a1 a2 s
  | .qbnz a1 a2 => Sys2Proof.Machine.execQbnz a1 a2 s
  | .qbltu a1 a2 a3 => Sys2Proof.Machine.execQbltu a1 a2 a3 s
  | .qloop a1 a2 => Sys2Proof.Machine.execQloop a1 a2 s
  | .qwait a1 a2 => Sys2Proof.Machine.execQwait a1 a2 s
  | .qsig a1 => Sys2Proof.Machine.execQsig a1 s
  | .qtlr a1 a2 => Sys2Proof.Machine.execQtlr a1 a2 s
  | .qlayer a1 => Sys2Proof.Machine.execQlayer a1 s
  | .qgo => Sys2Proof.Machine.execQgo s
  | .qrepeat => Sys2Proof.Machine.execQrepeat s
  | .qcancel a1 => Sys2Proof.Machine.execQcancel a1 s
  | .entryMerge => Sys2Proof.Machine.execEntryMerge s
  | .poolStarvationTimeout => Sys2Proof.Machine.execPoolStarvationTimeout s
  | .matrixQueuePlaceWait => Sys2Proof.Machine.execMatrixQueuePlaceWait s
  | .matrixStepStart => Sys2Proof.Machine.execMatrixStepStart s
  | .matrixFetchDone => Sys2Proof.Machine.execMatrixFetchDone s
  | .matrixKstepEnd => Sys2Proof.Machine.execMatrixKstepEnd s
  | .matrixCommandComplete => Sys2Proof.Machine.execMatrixCommandComplete s
  | .maccLdDeliver => Sys2Proof.Machine.execMaccLdDeliver s
  | .maccZeroComplete => Sys2Proof.Machine.execMaccZeroComplete s
  | .maccStComplete => Sys2Proof.Machine.execMaccStComplete s
  | .workDistributorRequest => Sys2Proof.Machine.execWorkDistributorRequest s
  | .wdqAnswer => Sys2Proof.Machine.execWdqAnswer s
  | .topkComplete => Sys2Proof.Machine.execTopkComplete s
  | .deviceFifoAppend => Sys2Proof.Machine.execDeviceFifoAppend s
  | .dispatchHead => Sys2Proof.Machine.execDispatchHead s
  | .workgroupRetire => Sys2Proof.Machine.execWorkgroupRetire s
  | .gridRetire => Sys2Proof.Machine.execGridRetire s
  | .loadDataReturn => Sys2Proof.Machine.execLoadDataReturn s
  | .storeLands => Sys2Proof.Machine.execStoreLands s
  | .atomicAtHome => Sys2Proof.Machine.execAtomicAtHome s
  | .waitedAccessProceeds => Sys2Proof.Machine.execWaitedAccessProceeds s
  | .publicationComplete => Sys2Proof.Machine.execPublicationComplete s
  | .dramAnswer => Sys2Proof.Machine.execDramAnswer s
  | .notifyPost => Sys2Proof.Machine.execNotifyPost s
  | .copyCommandRead => Sys2Proof.Machine.execCopyCommandRead s
  | .copyCommandStart => Sys2Proof.Machine.execCopyCommandStart s
  | .copyTagWaitSatisfied => Sys2Proof.Machine.execCopyTagWaitSatisfied s
  | .copyCommandComplete => Sys2Proof.Machine.execCopyCommandComplete s
  | .copyCommandStop => Sys2Proof.Machine.execCopyCommandStop s
  | .multicastSlotAcquire => Sys2Proof.Machine.execMulticastSlotAcquire s
  | .multicastDrain => Sys2Proof.Machine.execMulticastDrain s
  | .trunRetry => Sys2Proof.Machine.execTrunRetry s
  | .versionPageCopy => Sys2Proof.Machine.execVersionPageCopy s
  | .frameRetag => Sys2Proof.Machine.execFrameRetag s
  | .versionSlotFree => Sys2Proof.Machine.execVersionSlotFree s
  | .stalledAccessResume => Sys2Proof.Machine.execStalledAccessResume s
  | .rangeArrival => Sys2Proof.Machine.execRangeArrival s
  | .loupeCompare => Sys2Proof.Machine.execLoupeCompare s
  | .domainEnable => Sys2Proof.Machine.execDomainEnable s
  | .domainDisable => Sys2Proof.Machine.execDomainDisable s
  | .domainPoolGrow => Sys2Proof.Machine.execDomainPoolGrow s
  | .trapEntry => Sys2Proof.Machine.execTrapEntry s
  | .faultReplay => Sys2Proof.Machine.execFaultReplay s
  | .watchdog => Sys2Proof.Machine.execWatchdog s
  | .tableWalk => Sys2Proof.Machine.execTableWalk s
  | .tlbiSweepDone => Sys2Proof.Machine.execTlbiSweepDone s
  | .preemptWaitTimeout => Sys2Proof.Machine.execPreemptWaitTimeout s
  | .preempt => Sys2Proof.Machine.execPreempt s
  | .restoreUnit => Sys2Proof.Machine.execRestoreUnit s
  | .sweepEntry => Sys2Proof.Machine.execSweepEntry s
  | .compressStart => Sys2Proof.Machine.execCompressStart s
  | .compressFinish => Sys2Proof.Machine.execCompressFinish s
  | .pageExpansion => Sys2Proof.Machine.execPageExpansion s
  | .migrate => Sys2Proof.Machine.execMigrate s
  | .migrationDone => Sys2Proof.Machine.execMigrationDone s
  | .kvRingCount => Sys2Proof.Machine.execKvRingCount s
  | .kvVictimReclaim => Sys2Proof.Machine.execKvVictimReclaim s
  | .frpop => Sys2Proof.Machine.execFrpop s
  | .frpush => Sys2Proof.Machine.execFrpush s
  | .cxlpop => Sys2Proof.Machine.execCxlpop s
  | .cxlpush => Sys2Proof.Machine.execCxlpush s
  | .channelRetireGo => Sys2Proof.Machine.execChannelRetireGo s
  | .stripeRebuild => Sys2Proof.Machine.execStripeRebuild s
  | .uncorrectableError => Sys2Proof.Machine.execUncorrectableError s
  | .hostRefetchDone => Sys2Proof.Machine.execHostRefetchDone s
  | .doorbellTail => Sys2Proof.Machine.execDoorbellTail s
  | .doorbellDridx => Sys2Proof.Machine.execDoorbellDridx s
  | .doorbellArm => Sys2Proof.Machine.execDoorbellArm s
  | .hostBar2Write => Sys2Proof.Machine.execHostBar2Write s
  | .hostBar2Read => Sys2Proof.Machine.execHostBar2Read s
  | .queueEnable => Sys2Proof.Machine.execQueueEnable s
  | .queueDisable => Sys2Proof.Machine.execQueueDisable s
  | .packetTake => Sys2Proof.Machine.execPacketTake s
  | .timelineWaitRelease => Sys2Proof.Machine.execTimelineWaitRelease s
  | .packetComplete => Sys2Proof.Machine.execPacketComplete s
  | .peerRequest => Sys2Proof.Machine.execPeerRequest s
  | .peerReply => Sys2Proof.Machine.execPeerReply s
  | .d2dLaneFailure => Sys2Proof.Machine.execD2dLaneFailure s
  | .d2dLinkFailure => Sys2Proof.Machine.execD2dLinkFailure s
  | .collectiveTableLoad => Sys2Proof.Machine.execCollectiveTableLoad s
  | .collectiveRingConfig => Sys2Proof.Machine.execCollectiveRingConfig s
  | .collectivePost => Sys2Proof.Machine.execCollectivePost s
  | .collectiveCommandRead => Sys2Proof.Machine.execCollectiveCommandRead s
  | .collectivePartialArrive => Sys2Proof.Machine.execCollectivePartialArrive s
  | .collectiveComplete => Sys2Proof.Machine.execCollectiveComplete s
  | .deviceReset => Sys2Proof.Machine.execDeviceReset s
  | .channelFailureReport => Sys2Proof.Machine.execChannelFailureReport s
  | .statusW1c => Sys2Proof.Machine.execStatusW1c s
  | .controlRegisterWrite => Sys2Proof.Machine.execControlRegisterWrite s
  | .attestationQuote => Sys2Proof.Machine.execAttestationQuote s
  | .powerTick => Sys2Proof.Machine.execPowerTick s
  | .enterLow => Sys2Proof.Machine.execEnterLow s
  | .illegalInstruction => Sys2Proof.Machine.execIllegalInstruction s
  | .hostWriteThrough => Sys2Proof.Machine.execHostWriteThrough s

end Sys2Proof.Machine
end

