-- ==== Sys2Proof/Machine/Sched.lean ====
section
/-! DEFINITION. Which turn comes next (08 R207, R208) and what comes before a word's effect: the fetch with its faults (18 R447; 02 R36 to R38), the word that a repeat steps (R56, R58), and padding parcels (R47). -/

namespace Sys2Proof.Machine

/-- Whether a fibre waits for a peer's reply to an access that it made, alone or with others (R511). -/
def State.asking (s : State) (k : FibreKey) : Bool :=
  s.mem.peers.any fun r => r.waits && decide (r.got = none) && decide (r.bad = none) && decide (r.dst ≠ .record) && (decide (r.fib = k) || r.with_.contains k)

/-- Whether an entry could issue: it holds a live fibre that is not parked, none of its fibres waits for a peer, and none of the live ones waits at its instruction (R207). With `poll`, an entry that waits at its instruction is offered for another try (R201). -/
def State.entryReady (s : State) (core : Nat) (e : Entry) (poll : Bool) : Bool :=
  let all := s.fibres.filter fun f => decide (f.run ≠ .ended) && decide (f.core = core) && decide (f.part = e.part) && decide (f.seat = .entry e.index)
  let fs := all.filter fun f => f.live && !f.held
  decide (fs ≠ []) && !(all.any fun f => s.asking f.key) && (poll || fs.all fun f => decide (f.wait = none) && decide (f.notBefore ≤ s.clock))

/-- The ready entries of a core, each with its core: undemoted ones, and demoted ones of partitions with no ready undemoted one (R207). With `poll`, those that could try again, demoted or not. -/
def State.readyOf (s : State) (core : Nat) (poll : Bool) : List (Nat × Entry) :=
  let ready := (s.core core).entries.filter fun e => s.entryReady core e poll
  (ready.filter fun e => poll || !e.demoted || !(ready.any fun x => decide (x.part = e.part) && !x.demoted)).map fun e => (core, e)

/-- The entry that issued least recently; ties go to the lower core, partition and index (R207). -/
def oldestEntry : List (Nat × Entry) → Option (Nat × Entry)
  | [] => none
  | x :: r => match oldestEntry r with
    | none => some x
    | some y => if y.2.last < x.2.last ∨ (y.2.last = x.2.last ∧ y.1 = x.1 ∧ (y.2.part < x.2.part ∨ (y.2.part = x.2.part ∧ y.2.index < x.2.index))) then some y else some x

/-- The clock until which SLEEP holds an entry (R120); 0 for one that it does not hold. -/
def State.sleepsTill (s : State) (core : Nat) (e : Entry) : Nat :=
  let due := (s.fibres.filter fun f => f.live && decide (f.core = core) && decide (f.part = e.part) && decide (f.seat = .entry e.index)).foldl (fun n f => max n f.notBefore) 0
  if due ≤ s.clock then 0 else due

/-- The entries that another try is for: those that wait, and while none does, the ones that SLEEP holds for the shortest time (log 2). -/
def State.firstAwake (s : State) (es : List (Nat × Entry)) : List (Nat × Entry) :=
  let due := fun (x : Nat × Entry) => s.sleepsTill x.1 x.2
  match es.filter fun x => decide (due x = 0) with
  | [] => es.filter fun x => es.all fun y => decide (due x ≤ due y)
  | ws => ws

/-- The entry to issue next, in the whole device (log 2). -/
def State.pickEntry (s : State) (poll : Bool) : Option Turn :=
  let es := (List.range s.cores.length).flatMap fun c => s.readyOf c poll
  (oldestEntry (if poll then s.firstAwake es else es)).map fun x => .issue x.1 x.2.part x.2.index false

/-- Whether another entry of the partition comes before one under R207: it is ready, it has no operand on its way, and it is not demoted while the other is, or else it issued less recently. -/
def State.outranked (s : State) (c : Issue) : Bool :=
  let es := (s.core c.core).entries.filter fun e => decide (e.part = c.part)
  match es.find? fun e => decide (e.index = c.entry) with
  | none => false
  | some e =>
    es.any (fun x => decide (x.index ≠ e.index) && s.entryReady c.core x false &&
      ((!x.demoted && e.demoted) || (decide (x.demoted = e.demoted) && (decide (x.last < e.last) || (decide (x.last = e.last) && decide (x.index < e.index)))))) &&
      !(Config.resultsLate s.fresh)

/-- What a turn needs before its instruction takes effect: the instruction and the state in which it does, or the state after a turn that ends before it (a fetch fault, a padding parcel, an entry with no fibre). -/
inductive Prep where
  | run (i : Instr) (s : State)
  | spent (s : State)

/-- An instruction from a decoded word; an undecodable one is ILLEGAL_INSTRUCTION (R43). -/
def orIllegal (i : Option Instr) : Instr := i.getD .illegalInstruction

/-- A repeat's word with its fields stepped (R56). -/
def steppedWord (w : Word) (rep : Word) : Word :=
  let count := bits rep.toNat 23 18 + 1
  let i : Int := (count : Int) - (rep.toNat % 128 : Nat)
  let step := fun (lo : Nat) => BitVec.ofInt 7 (i * (fld rep lo 3).toInt)
  stepFields w (step 15) (step 12) (step 9)

/-- The instruction that the part makes of a fetched word at a pc (R38, R56, R58). A fibre that comes directly to a low parcel that makes its word illegal takes the fault there: R48 names PC = W for a word that is entered at W, and the fault's PC is the fibre's own (DEDUCED, log 109). -/
def readWord (pc : VA) (w : Word) (repeating : Bool) (rep : Word) : Instr :=
  if repeating then
    if !(repMajor w) || pc.getLsbD 1 then .illegalInstruction else orIllegal (decode (steppedWord w rep))
  else if pc.getLsbD 1 && !(w.getLsbD 31) then .illegalInstruction
  else orIllegal (decode w)

/-- The registers that a destination fills. -/
def Dest.regs (d : Dest) : List Nat :=
  match d with
  | .lanes regs => regs
  | .k _ => []
  | .record => []

/-- Whether a word must await a fibre's loads, atomics and posts in flight (R8, R166): it names a register that one of them fills, or is a dictionary parcel, or a k register is on its way; and a word that acts on memory or on other parts, but for WAIT, comes after the fibre's posts (R165, R297). -/
def State.awaitsLoads (s : State) (f : Fibre) (w : Word) : Bool :=
  let mine := fun (k : FibreKey) => decide (k = f.key)
  let loads := s.mem.loads.filter fun l => mine l.fib
  let posts := s.mem.posts.filter fun p => mine p.fib
  let owed := loads.flatMap (·.dst.regs) ++ ((s.mem.atomics.filter fun p => mine p.fib).flatMap (·.dst)) ++ posts.flatMap (·.dst)
  s.namesAny f w owed || (w.getLsbD 31 && decide (owed ≠ [])) ||
    (s.mem.loads.any fun l => decide (l.fib.wg = f.wg) && decide (l.fib.grp = f.grp) && !l.dst.isLanes) ||
    (decide (posts ≠ []) && (w.getLsbD 31 || (decide (0x50 ≤ (fld w 24 7).toNat) && decide (fld w 24 7 ≠ 0x6D#7))))

/-- Brings to their end the accesses in flight that a word must await, of every fibre of the entry, helpers included (R8, R166, R204). -/
def State.awaitLoads (s : State) (fs : List Fibre) (w : Word) : State :=
  let go := fun (t : State) (f : Fibre) => if t.awaitsLoads f w then t.drainLoads f.key else t
  let ks := fun (t : State) => (t.mem.loads.filter fun l => !l.dst.isLanes && fs.any fun f => decide (f.wg = l.fib.wg) && decide (f.grp = l.fib.grp)).map (·.fib)
  let s1 := fs.foldl go s
  (ks s1).foldl (fun (t : State) k => t.drainLoads k) s1

/-- The fetch for an entry that issues (R36, R207): the lowest column's fibre fetches, its parked fibres having left (R201), and what the word must await is awaited (R8). Loads and atomics that it need not await stay in flight where the agenda left them so, and are performed in whatever order the agenda names: R288 leaves the order open. With no agenda they are performed as they issue (DESIGN CHOICE, log 121). -/
def State.prepareIssue (s : State) (core part entry : Nat) (late : Bool) : Prep :=
  let c : Issue := { core := core, part := part, entry := entry }
  let s0 : State := { s with late := late }
  match (s0.liveMembers c).filter fun f => !f.held with
  | [] => .spent s0
  | f :: r =>
    if s0.outranked c || (s0.members c).any (fun x => s0.asking x.key) then .spent s0
    else
    let due := (f :: r).foldl (fun n x => max n x.notBefore) s0.clock
    let given := fun (q : PeerReq) => q.got ≠ none ∧ ((f :: r).any fun x => decide (x.key = q.fib) && decide (x.wait = none)) = true
    let s0' : State := { s0 with clock := due, mem := { s0.mem with peers := s0.mem.peers.filter fun q => decide (¬ given q) } }
    let s0'' := if (s0'.liveMembers c).all fun x => !x.held then s0' else s0'.settle c ((f :: r).map Fibre.key)
    let s1 := ((f :: r).foldl (fun (t : State) x => t.drainLds x) s0'')
    match s1.fetchAt f f.pl (wordAt f.pc) with
    | (s2, .error _) =>
      let ts := (f :: r).filterMap fun x => match s1.fetchAt x x.pl (wordAt x.pc) with
        | (_, .error t) => some (x.key, t)
        | (_, .ok _) => none
      .spent ((s2.noteIssue c).afterTraps c ts)
    | (s2', .ok w) =>
      let repeating := decide (f.rep.toNat % 128 ≠ 0) && decide (f.pl ≠ .h)
      let named := if repeating then steppedWord w f.rep else w
      let s2 := (s2'.holdFor (f :: r) named).awaitLoads (s2'.members c) named
      let low := f.pc.getLsbD 1
      let mark := fun (y : Why) => Prep.spent { s2 with fibres := s2.fibres.map fun x => if x.inEntry c && x.live && decide (x.wait = none) then x.waiting y s2.clock else x }
      if (s2.members c).any fun x => s2.awaitsLd x named then mark .acc
      else if (s2.members c).any fun x => s2.awaitsLoads x named then mark .data
      else if low && !repeating && w.getLsbD 31 && decide (fld w 0 16 = 0#16) then
        .spent { s2 with fibres := s2.fibres.map fun x => if x.inEntry c then { x with pc := x.pc + 2 } else x }
      else
        let form := if w.getLsbD 31 then (if low then Form.low else .high) else .full
        .run (readWord f.pc w repeating f.rep) { s2.noteIssue c with cur := some { c with form := form, repeating := repeating } }

/-- The word that a dictionary parcel has expanded to (R50): the instruction that still has to take effect. -/
def State.expansion (s : State) : Option Instr :=
  match s.cur with
  | none => none
  | some c => c.expanded.map fun w => orIllegal (decode w)

/-- The next word of a queue's program (R492). -/
def State.prepareQueue (s : State) (q : BitVec 8) : Prep :=
  let x := s.queue q
  match x.packet with
  | none => .spent s
  | some p =>
    let word := match x.program[p.pc]? with
      | some w => match decodeQ w with
        | some i => Prep.run i { s with curQ := some q }
        | none => .spent s
      | none => .spent s
    match p.stage with
    | .program => word
    | .entryWait => .spent s
    | .qwait _ _ => .run (.qwait 0 0) { s with curQ := some q }
    | .dispatch => if bits (field p.orig 153 1) 4 4 = 1 then .run .qgo { s with curQ := some q } else word

/-- The deficit of a queue that is empty falls to 0 (R216). -/
def Queue.rest (x : Queue) : Queue := if x.heads = [] ∧ x.packet = none ∧ x.arrivals = [] then { x with deficit := min x.deficit 0 } else x

/-- Clocks pass at the end of a turn (log 1), and nothing is in progress. -/
def State.tick (s : State) : State :=
  { s with front := { s.front with queues := s.front.queues.map Queue.rest }, cur := none, curQ := none, arg := .none, late := false, clock := s.clock + 1 + Config.clocksOf s.fresh, fresh := s.fresh + 1 }

end Sys2Proof.Machine
end

