-- ==== Sys2Proof/Machine/Auto.lean ====
section
/-! DEFINITION. What moves next when the agenda names nothing (log 2): the first event in a fixed order that changes the state, then a queue's program, then the entry that issued least recently. -/

namespace Sys2Proof.Machine

/-- Turns that are events about the numbers of some records. -/
def turnsOf (i : Instr) (ns : List Nat) : List Turn := ns.map fun n => .event i (.num n)

/-- The events that may end what a fibre waits for. A fibre that waits for a place in a matrix queue or for an L2 victim is tried again with its entry, after everything that can move (log 2); the events MATRIX_QUEUE_PLACE_WAIT and STALLED_ACCESS_RESUME, which name its entry for the next turn, are the agenda's. -/
def State.waitEvents (s : State) (f : Fibre) : List Turn :=
  let on := fun (i : Instr) => Turn.event i (.fibre f.key)
  let late := if s.overdue f then [on .watchdog] else []
  match f.wait.map Wait.why with
  | none => []
  | some (.access _) => on .waitedAccessProceeds :: late
  | some (.trun _ _ _) => on .trunRetry :: late
  | some (.hardware c _ _) =>
    (match c with
     | .versionPage => [on .versionPageCopy]
     | .compressedPage => [on .pageExpansion]
     | _ => []) ++ on .faultReplay :: late
  | some (.trap _ _) => [on .trapEntry]
  | some .walk => [on .tlbiSweepDone]
  | some _ => late

/-- The events of a core: its partitions and its accumulator commands. -/
def State.coreEvents (s : State) (c : Nat) : List Turn :=
  let cmds := (s.core c).mcmds.flatMap fun m => [.maccLdDeliver, .maccZeroComplete, .maccStComplete, .matrixCommandComplete].map fun i => Turn.event i (.two c m.seq)
  let engines := if (s.core c).mcmds = [] then [] else (List.range 4).flatMap fun e => [.matrixKstepEnd, .matrixFetchDone, .matrixStepStart].map fun i => Turn.event i (.two c e)
  let parts := if (s.core c).entries = [] then [] else (List.range 4).flatMap fun p => [.entryMerge, .poolStarvationTimeout].map fun i => Turn.event i (.two c p)
  parts ++ engines ++ cmds

/-- The events of a workgroup. -/
def Workgroup.events (w : Workgroup) : List Turn :=
  (List.range w.ranges.length).flatMap (fun i => [.event .rangeArrival (.two w.id i), .event .loupeCompare (.two w.id i)]) ++
    turnsOf .copyCommandRead [w.id] ++ turnsOf .preempt [w.id] ++ turnsOf .workgroupRetire [w.id]

/-- The events of a queue's packets. -/
def Queue.events (x : Queue) : List Turn :=
  [.timelineWaitRelease, .packetTake, .packetComplete, .preemptWaitTimeout, .kvRingCount, .kvVictimReclaim].map (fun i => Turn.event i (.queue x.q)) ++ (if x.packet.isSome then [.queue x.q] else [])

/-- Every event that the part may take of itself, in the model's order. A sweep, a rebuild, a walk ahead of its access, what DRAM does with a line, and everything that comes from outside the part, are the agenda's alone. -/
def State.events (s : State) : List Turn :=
  (s.mem.pubs.take 1).map (fun _ => .event .publicationComplete .none) ++
    turnsOf .loadDataReturn (s.mem.loads.map (·.n)) ++ turnsOf .storeLands (s.mem.stores.map (·.n)) ++ turnsOf .atomicAtHome (s.mem.atomics.map (·.n)) ++ turnsOf .notifyPost (s.mem.posts.map (·.n)) ++
    s.wgs.flatMap Workgroup.events ++
    (List.range s.cores.length).flatMap s.coreEvents ++
    turnsOf .workDistributorRequest (s.mem.wdq.map (·.n)) ++ turnsOf .wdqAnswer (s.mem.wdq.map (·.n)) ++ turnsOf .topkComplete (s.mem.topk.map (·.n)) ++ turnsOf .deviceFifoAppend (s.mem.appends.map (·.n)) ++
    (s.cores.flatMap (·.ccmds)).flatMap (fun k => [.copyCommandStart, .copyTagWaitSatisfied, .multicastSlotAcquire, .copyCommandComplete, .copyCommandStop].map fun i => Turn.event i (.num k.n)) ++
    s.mem.slots.flatMap (fun m => m.ranks.map fun r => .event .multicastDrain (.two m.n r)) ++
    s.coll.posts.map (fun _ => .event .collectivePost .none) ++ s.coll.exposed.map (fun _ => .event .collectiveCommandRead .none) ++ turnsOf .collectiveComplete (s.coll.cmds.map (·.n)) ++
    s.fibres.flatMap s.waitEvents ++
    s.versions.map (fun v => .event .versionSlotFree (.vid v.vid)) ++
    turnsOf .pageExpansion ((s.press.flatMap (·.expanding)).map fun e => e.leafPa) ++
    [0, 1].flatMap (fun d => [.compressFinish, .migrationDone, .compressStart].map fun i => Turn.event i (.die d)) ++
    turnsOf .gridRetire (s.grids.map (·.id)) ++ s.front.queues.flatMap Queue.events ++
    [0, 1].flatMap (fun d => [.restoreUnit, .dispatchHead].map fun i => Turn.event i (.die d)) ++
    turnsOf .hostWriteThrough s.hostDirty

/-- Whether a turn changes anything. -/
def State.moves (s : State) (t : Turn) : Bool :=
  match t with
  | .event i a => match exec i { s with arg := a } with
    | .next u => decide ({ u with arg := s.arg } ≠ s)
    | _ => false
  | .queue q => match s.prepareQueue q with
    | .spent _ => false
    | .run i u => match exec i u with
      | .next v => decide ({ v with curQ := s.curQ } ≠ s)
      | _ => false
  | .issue _ _ _ _ => true

/-- The next turn of the part's own. -/
def State.autoTurn (s : State) : Option Turn := s.events.find? s.moves

/-- The next turn: the agenda's, else one of the part's own, else a ready entry, else a waiting one that tries again. -/
def State.nextTurn (s : State) : Option Turn × State :=
  match s.agenda with
  | t :: r => (some t, { s with agenda := r })
  | [] => match s.autoTurn with
    | some t => (some t, s)
    | none => match s.pickEntry false with
      | some t => (some t, s)
      | none => (s.pickEntry true, s)

/-- What a turn runs, and in which state. -/
def State.prepare (s : State) : Prep :=
  match s.nextTurn with
  | (none, s1) => .spent s1
  | (some (.issue c p e late), s1) => s1.prepareIssue c p e late
  | (some (.queue q), s1) => s1.prepareQueue q
  | (some (.event i a), s1) => .run i { s1 with arg := a }

end Sys2Proof.Machine
end

