-- ==== Sys2Proof/Machine/Clock.lean ====
section
/-! DEFINITION. What the part does of itself in every clock, at the end of a turn: waiters for granules go on (10 R250), waiting TRUNs are evaluated (14 R373), effects of committed versions issue (15 R391), a core whose private overflow area is full publishes (10 R263), and entries merge (08 R202). -/

namespace Sys2Proof.Machine

/-- Lines that a core's private overflow area of 16 MiB holds (R263). -/
def privateRoom : Nat := 16384

/-- Whether a core's private overflow area is full (R263). -/
def State.privateFull (s : State) (core : Nat) : Bool :=
  decide (privateRoom ≤ (s.mem.frames.filter fun f => decide (f.kind = .priv) && decide (f.core = core) && f.overflow).length)

/-- The cores that some entry stands on. -/
def State.busyCores (s : State) : List Nat := (List.range s.cores.length).filter fun c => !(s.core c).entries.isEmpty

/-- The publishing boundaries of the cores whose private areas are full (R263, R281). -/
def State.spillFull (s : State) : State :=
  ((s.mem.frames.filter (·.overflow)).map (·.core)).eraseDups.foldl (fun (t : State) c => if t.privateFull c then t.publishCore c else t) s

/-- The effects of committed versions that their observers held back (R391). -/
def State.pushAll (s : State) : State :=
  (List.range s.domains.length).foldl (fun (t : State) d => if (t.domain d).effects.any (·.go) then State.pushEffects effectRoom t d else t) s

/-- The merges of one clock in every partition (R202). -/
def State.mergeEvery (s : State) : State :=
  s.busyCores.foldl (fun (t : State) c => ((s.core c).entries.map (·.part)).eraseDups.foldl (fun (u : State) p => State.mergeAll 64 u c p) t) s

/-- The end of a turn: what the part does of itself in the clock, and the clock passes. -/
def State.endTurn (s : State) : State := s.serveAll.retryTruns.pushAll.spillFull.mergeEvery.tick

end Sys2Proof.Machine
end

