-- ==== Sys2Proof/Machine/Step.lean ====
section
/-! DEFINITION. One step of the device: the next turn's instruction takes effect; and the placing of a word where a first fibre fetches it. -/

namespace Sys2Proof.Machine

/-- The second half of an issue: a dictionary parcel that has expanded runs its word (02 R50). -/
def runExpansion (s : State) : Host.Outcome State Fault Refusal :=
  match s.expansion with
  | some i => exec i s
  | none => .next s

/-- One step (log 2). A device that has stopped stays stopped (22 R506, 23 R523, R528). -/
def step (s : State) : Host.Outcome State Fault Refusal :=
  match s.stopped with
  | some w => .fault (.deviceStopped w)
  | none =>
    match s.prepare with
    | .spent t => .next t.endTurn
    | .run i t =>
      match exec i t with
      | .next u => match runExpansion u with
        | .next v => .next v.endTurn
        | .fault r => .fault r
        | .refused r => .refused r
      | .fault r => .fault r
      | .refused r => .refused r

/-- The page in which `withFetchWord` puts its word: virtual and physical. -/
def firstPage : Nat := 0x10000

/-- A leaf that maps it: V, R, W, X, U, A and D set, frame 1 of die 0. -/
def firstLeaf : BitVec 64 := BitVec.ofNat 64 (0x10000 + 0xFD)

/-- A fibre of the workgroup that `withFetchWord` places: lane 0 is live, at the word. -/
def firstFibre (wg lane : Nat) : Fibre :=
  { wg := wg, grp := 0, lane := lane, run := if lane = 0 then .live else .ended, pc := BitVec.ofNat 48 firstPage
    alloc := 128, regs := List.replicate 128 0, core := 0, part := 0, home := BitVec.ofNat 6 lane, seat := .entry 0 }

/-- The state with a word where the next step fetches its instruction: one workgroup of one group of width 8 is placed on core 0 with lane 0 live, the word stands at its pc in a page that its lane's last-page register maps, and the next turn is its issue (log 7). -/
def State.withFetchWord (s : State) (nbits w : Nat) : State :=
  let wg := s.ids
  let l : Launch := { entry := BitVec.ofNat 64 firstPage, shape := 0, regs := 128, traph := 0x20000 }
  let t : Trans := { base := BitVec.ofNat 48 firstPage, log2 := 16, leaf := firstLeaf, leafPa := 0 }
  { s with
    fibres := (List.range 8).map (firstFibre wg)
    groups := [{ wg := wg, grp := 0 }]
    wgs := [{ id := wg, grid := wg + 1 }]
    grids := [{ id := wg + 1, launch := l, placed := 1 }]
    cores := s.cores.modify 0 fun c =>
      { c with entries := [{ part := 0, index := 0, order := 0, last := 0 }], lastPages := [⟨0, 0, t⟩], lines := [], mcmds := [], ccmds := [], tasks := [] }
    mem := { s.mem with
      dram := Memory.writeN s.mem.dram firstPage (leBytes 4 (w % 2 ^ nbits))
      frames := s.mem.frames.filter fun f => decide (f.line ≠ firstPage / 1024)
      refetch := [] }
    stopped := none
    agenda := [.issue 0 0 0 false]
    cur := none
    ids := s.ids + 2 }

end Sys2Proof.Machine
end

