-- ==== Sys2Proof/Safety.lean ====
section
/-! DEFINITION. The words that the statements are made of: which fibres an issue acts on, what it means that an instruction changes those fibres and nothing else, and the forms that every step keeps. -/

namespace Sys2Proof.Machine

/-- Every fibre of the entry that issues, helpers included, meets a test. -/
def State.each (s : State) (c : Issue) (p : Fibre → Bool) : Prop := ∀ f ∈ s.fibres, f.inEntry c = true → p f = true

/-- The state in which each fibre of the issuing entry has become what `F` makes of it and has gone on to its next instruction; nothing else is different. -/
def State.moved (s : State) (c : Issue) (F : Fibre → Fibre) : State :=
  { s with fibres := s.fibres.map fun f => if f.inEntry c then (F f).advance c else f }

/-- The issuing entry holds the live fibre `f` and no other; `f` is the one record of its key, none of its effects are suppressed, and it does not wait for what only an event brings. -/
structure State.Sole (s : State) (c : Issue) (f : Fibre) : Prop where
  cur : s.cur = some c
  only : s.members c = [f]
  one : ∀ g ∈ s.fibres, g.key = f.key → g = f
  live : f.run = .live
  loud : f.muted = false
  free : f.stuck = false

/-- The fibre `f` goes on to its next instruction. -/
def State.goOn (s : State) (f : Fibre) (c : Issue) : State := s.modFibre f.key fun x => x.advance c

/-- Nothing of a fibre's accesses is in flight. -/
def State.Settled (s : State) (f : Fibre) : Prop :=
  s.late = false ∧ (∀ l ∈ s.mem.loads, l.fib ≠ f.key) ∧ (∀ p ∈ s.mem.stores, p.fib ≠ f.key) ∧ (∀ p ∈ s.mem.atomics, p.fib ≠ f.key) ∧ (∀ p ∈ s.mem.posts, p.fib ≠ f.key)

/-- Every memory of the device is in its canonical form: DRAM with the tiers, the control space, scratchpads and accumulators list no zero byte, and they, the frames, the tile-store lines and the pending publications list strictly rising addresses. -/
structure State.Canonical (s : State) : Prop where
  dram : Memory.wf s.mem.dram = true
  ctl : Memory.wf s.ctl = true
  frames : ∀ f ∈ s.mem.frames, Memory.sorted f.cells = true
  lines : ∀ c ∈ s.cores, ∀ l ∈ c.lines, Memory.sorted l.cells = true
  pubs : ∀ p ∈ s.mem.pubs, Memory.sorted p.cells = true
  pads : ∀ w ∈ s.wgs, Memory.wf w.scratch = true ∧ Memory.wf w.acc = true

/-- The flags that the fibres of a group in the entry raise, by what each raises; fibres whose effects are suppressed raise none. -/
def State.raisedIn (s : State) (c : Issue) (g : Group) (fl : Fibre → FFlags) : FFlags :=
  (s.fibres.filter fun f => f.inEntry c && g.is f.wg f.grp && !(s.quiet f)).foldl (fun x f => x ||| fl f) 0

/-- `t` is `s` after each fibre of the issuing entry has become what `F` makes of it and has gone on; each group has sent the flags that its fibres raise to its FPSTAT; nothing else is different. -/
structure State.MovedRaising (s : State) (c : Issue) (F : Fibre → Fibre) (fl : Fibre → FFlags) (t : State) : Prop where
  fibres : t.fibres = (s.moved c F).fibres
  count : t.groups.length = s.groups.length
  groups : ∀ (n : Nat) (g : Group), s.groups[n]? = some g →
    ∃ g' : Group, t.groups[n]? = some g' ∧ { g' with fpstat := g.fpstat, flying := g.flying } = g ∧ g'.allFlags = g.allFlags ||| s.raisedIn c g fl
  rest : { t with fibres := s.fibres, groups := s.groups } = s

/-- The live fibres of the issuing entry all belong to group `g`, and none of them is suppressed or waits for what only an event brings. -/
structure State.OneGroup (s : State) (c : Issue) (g : Nat × Nat) : Prop where
  cur : s.cur = some c
  only : s.groupsOf c = [g]
  some : s.share c g ≠ []
  loud : ∀ f ∈ s.share c g, f.muted = false ∧ f.stuck = false

/-- The fibres of group `g` in the issuing entry go on to their next instruction. -/
def State.groupOn (s : State) (c : Issue) (g : Nat × Nat) : State :=
  { s with fibres := s.fibres.map fun f => if f.inEntry c && decide (f.wg = g.1) && decide (f.grp = g.2) then f.advance c else f }

/-- Nothing changes but the packet that a queue has in hand. -/
def State.withHand (s : State) (q : BitVec 8) (p : Packet) : State := s.modQueue q fun x => { x with packet := some p }

/-- A change of fibres that leaves a live one everything but its seat, and another its key, registers and all but where it stands: a helper stands where its leader stands, or ends (R204). -/
def Reseats (h : Fibre → Fibre) : Prop :=
  ∀ f, (f.run = .live → ∃ x, h f = { f with seat := x }) ∧
    (f.run ≠ .live → (h f).run ≠ .live ∧ { h f with run := f.run, pc := f.pc, pl := f.pl, rep := f.rep, seat := f.seat, wait := f.wait } = f)

/-- `t` is `s` after its entries have settled (R200 to R203): live fibres have changed their seats and nothing else, helpers follow their leaders, and beside fibres only the cores' records of their batch entries and the counter of seat orders differ. -/
structure State.Reseated (s t : State) : Prop where
  same : { t with fibres := s.fibres, cores := s.cores, order := s.order } = s
  cores : t.cores.map (fun k => { k with entries := [] }) = s.cores.map fun k => { k with entries := [] }
  fibres : ∃ h, Reseats h ∧ t.fibres = s.fibres.map h

/-- A fibre waits at its instruction, since the clock at which it began to. -/
def State.stays (s : State) (f : Fibre) (w : Why) : State := s.modFibre f.key fun x => x.waiting w s.clock

/-- The fibre becomes what `g` is. -/
def State.become (s : State) (f g : Fibre) : State := s.modFibre f.key fun _ => g

end Sys2Proof.Machine
end

