-- ==== Sys2Proof/Certificates/Slice0/Obligations.lean ====
section
/-! DEFINITION. The statements about the machine, from the manual's rules, with the tables that they range over. -/

namespace Sys2Proof.Claims

open Sys2Proof.Machine

/-! Integer words. Each table gives an instruction and its result, written over Int and Nat, as a function of the old d, of a and of b. -/

/-- A number saturated to 32 signed bits. -/
def clamp32 (i : Int) : Int := if i < -(2 ^ 31) then -(2 ^ 31) else if 2 ^ 31 ≤ i then 2 ^ 31 - 1 else i

/-- Position and effective width of a bit field (R96). -/
def fieldPos (b : Word) : Nat := b.toNat % 32
def fieldLen (b : Word) : Nat := min (b.toNat / 256 % 64) (32 - fieldPos b)

/-- The words over three 32-bit registers (R95, R96, R31). -/
def intRows (h g m : Bool) (d a b : BitVec 7) : List (Instr × (Word → Word → Word → Word)) := [
  (.add h g m d a b, fun _ x y => BitVec.ofInt 32 (if m then clamp32 (x.toInt + y.toInt) else x.toInt + y.toInt)),
  (.sub h g m d a b, fun _ x y => BitVec.ofInt 32 (if m then clamp32 (x.toInt - y.toInt) else x.toInt - y.toInt)),
  (.mul h g d a b, fun _ x y => BitVec.ofNat 32 (x.toNat * y.toNat)),
  (.mulh h g m d a b, fun _ x y => if m then BitVec.ofInt 32 (x.toInt * y.toInt / 2 ^ 32) else BitVec.ofNat 32 (x.toNat * y.toNat / 2 ^ 32)),
  (.imad h g m d a b, fun z x y => BitVec.ofInt 32 (if m then z.toInt - x.toInt * y.toInt else z.toInt + x.toInt * y.toInt)),
  (.div h g m d a b, fun _ x y => if y = 0 then BitVec.ofInt 32 (-1) else if m then BitVec.ofInt 32 (x.toInt.tdiv y.toInt) else BitVec.ofNat 32 (x.toNat / y.toNat)),
  (.rem h g m d a b, fun _ x y => if y = 0 then x else if m then BitVec.ofInt 32 (x.toInt.tmod y.toInt) else BitVec.ofNat 32 (x.toNat % y.toNat)),
  (.and h g m d a b, fun _ x y => x &&& (if m then ~~~y else y)),
  (.or h g m d a b, fun _ x y => x ||| (if m then ~~~y else y)),
  (.xor h g m d a b, fun _ x y => x ^^^ (if m then ~~~y else y)),
  (.shl h g d a b, fun _ x y => if 32 ≤ y.toNat then 0 else BitVec.ofNat 32 (x.toNat * 2 ^ y.toNat)),
  (.shr h g m d a b, fun _ x y => if m then BitVec.ofInt 32 (x.toInt / 2 ^ min y.toNat 31) else if 32 ≤ y.toNat then 0 else BitVec.ofNat 32 (x.toNat / 2 ^ y.toNat)),
  (.min h g m d a b, fun _ x y => if m then BitVec.ofInt 32 (min x.toInt y.toInt) else BitVec.ofNat 32 (min x.toNat y.toNat)),
  (.max h g m d a b, fun _ x y => if m then BitVec.ofInt 32 (max x.toInt y.toInt) else BitVec.ofNat 32 (max x.toNat y.toNat)),
  (.rot h g m d a b, fun _ x y =>
    let n := if m then (32 - y.toNat % 32) % 32 else y.toNat % 32
    BitVec.ofNat 32 (x.toNat * 2 ^ n + x.toNat / 2 ^ (32 - n))),
  (.bfx h g m d a b, fun _ x y =>
    let v := x.toNat / 2 ^ fieldPos y % 2 ^ fieldLen y
    if m then BitVec.ofInt 32 (BitVec.ofNat (fieldLen y) v).toInt else BitVec.ofNat 32 v),
  (.bfi h g d a b, fun z x y =>
    let p := fieldPos y
    let e := fieldLen y
    BitVec.ofNat 32 (z.toNat % 2 ^ p + x.toNat % 2 ^ e * 2 ^ p + z.toNat / 2 ^ (p + e) * 2 ^ (p + e)))]

/-- The words over a register, or under M = 1 over a pair (R97), each with both results. -/
def iunRows (h m : Bool) (d a : BitVec 7) : List (Instr × (Word → Word) × (DWord → DWord)) := [
  (.iunMov h m d a, fun x => x, fun x => x),
  (.iunNot h m d a, fun x => BitVec.ofNat 32 (2 ^ 32 - 1 - x.toNat), fun x => BitVec.ofNat 64 (2 ^ 64 - 1 - x.toNat)),
  (.iunNeg h m d a, fun x => BitVec.ofInt 32 (-x.toInt), fun x => BitVec.ofInt 64 (-x.toInt)),
  (.iunAbs h m d a, fun x => BitVec.ofInt 32 x.toInt.natAbs, fun x => BitVec.ofInt 64 x.toInt.natAbs),
  (.iunClz h m d a, fun x => x.clz, fun x => x.clz),
  (.iunCtz h m d a, fun x => x.ctz, fun x => x.ctz),
  (.iunPopc h m d a, fun x => x.cpop, fun x => x.cpop),
  (.iunBrev h m d a, fun x => x.reverse, fun x => x.reverse),
  (.iunBswap h m d a, fun x => x.extractLsb' 0 8 ++ x.extractLsb' 8 8 ++ x.extractLsb' 16 8 ++ x.extractLsb' 24 8,
    fun x => x.extractLsb' 0 8 ++ x.extractLsb' 8 8 ++ x.extractLsb' 16 8 ++ x.extractLsb' 24 8 ++
      x.extractLsb' 32 8 ++ x.extractLsb' 40 8 ++ x.extractLsb' 48 8 ++ x.extractLsb' 56 8)]

/-- The words over two registers of 32 bits, an immediate among them or a fixed width (R97 to R100): the old d and a. -/
def immRows (h : Bool) (i : BitVec 10) (k : BitVec 2) (n : BitVec 5) (d a : BitVec 7) : List (Instr × (Word → Word)) := [
  (.iunSextb h d a, fun x => BitVec.ofInt 32 (x.toInt.bmod 256)),
  (.iunSexth h d a, fun x => BitVec.ofInt 32 (x.toInt.bmod 65536)),
  (.iunZextb h d a, fun x => BitVec.ofNat 32 (x.toNat % 256)),
  (.iunZexth h d a, fun x => BitVec.ofNat 32 (x.toNat % 65536)),
  (.addi i d a, fun x => BitVec.ofInt 32 (x.toInt + i.toInt)),
  (.andi i d a, fun x => x &&& BitVec.ofInt 32 i.toInt),
  (.ori i d a, fun x => x ||| BitVec.ofInt 32 i.toInt),
  (.xori i d a, fun x => x ^^^ BitVec.ofInt 32 i.toInt),
  (.muli i d a, fun x => BitVec.ofInt 32 (x.toInt * i.toInt)),
  (.shi k d a n, fun x =>
    if k = 0 then BitVec.ofNat 32 (x.toNat * 2 ^ n.toNat)
    else if k = 1 then BitVec.ofNat 32 (x.toNat / 2 ^ n.toNat)
    else if k = 2 then BitVec.ofInt 32 (x.toInt / 2 ^ n.toNat)
    else BitVec.ofNat 32 (x.toNat * 2 ^ n.toNat + x.toNat / 2 ^ (32 - n.toNat)))]

/-- The words over pairs d and a and a register b (R95). -/
def mixedRows (h g m : Bool) (d a b : BitVec 7) : List (Instr × (DWord → Word → DWord)) := [
  (.lea h g m d a b, fun x y => BitVec.ofInt 64 (x.toInt + (if m then (y.toNat : Int) else y.toInt))),
  (.leaw h g m d a b, fun x y => BitVec.ofInt 64 (x.toInt + 4 * (if m then (y.toNat : Int) else y.toInt))),
  (.shlw h g d a b, fun x y => if 64 ≤ y.toNat then 0 else BitVec.ofNat 64 (x.toNat * 2 ^ y.toNat)),
  (.shrw h g m d a b, fun x y => if m then BitVec.ofInt 64 (x.toInt / 2 ^ min y.toNat 63) else if 64 ≤ y.toNat then 0 else BitVec.ofNat 64 (x.toNat / 2 ^ y.toNat))]

/-- The words over pairs d, a and b (R95). -/
def pairRows (h g m : Bool) (d a b : BitVec 7) : List (Instr × (DWord → DWord → DWord)) := [
  (.addw h g m d a b, fun x y => BitVec.ofInt 64 (if m then x.toInt - y.toInt else x.toInt + y.toInt)),
  (.mulw h g d a b, fun x y => BitVec.ofNat 64 (x.toNat * y.toNat))]

/-- The conditions of the integer compares (R101). -/
def condition (w : Nat) (c : BitVec 4) (x y : BitVec w) : Bool :=
  if c = 0 then decide (x.toNat = y.toNat) else if c = 1 then decide (x.toNat ≠ y.toNat)
  else if c = 2 then decide (x.toInt < y.toInt) else if c = 3 then decide (x.toInt ≤ y.toInt)
  else if c = 4 then decide (y.toInt < x.toInt) else if c = 5 then decide (y.toInt ≤ x.toInt)
  else if c = 6 then decide (x.toNat < y.toNat) else if c = 7 then decide (x.toNat ≤ y.toNat)
  else if c = 8 then decide (y.toNat < x.toNat) else if c = 9 then decide (y.toNat ≤ x.toNat)
  else if c = 10 then (List.range w).any (fun i => x.getLsbD i && y.getLsbD i)
  else !((List.range w).any fun i => x.getLsbD i && y.getLsbD i)

/-- A condition's bit as COMB combines it with the predicate's old value (R102). -/
def combined (e : BitVec 2) (old new : Bool) : Bool :=
  if e = 0 then new else if e = 1 then old && new else if e = 2 then old || new else old && !new

/-- A predicate word with bit i set to a value; p15 stays 1 (R15). -/
def withPred (w : BitVec 16) (i : BitVec 4) (v : Bool) : BitVec 16 :=
  if i = 15 then w else BitVec.ofNat 16 (w.toNat / 2 ^ (i.toNat + 1) * 2 ^ (i.toNat + 1) + v.toNat * 2 ^ i.toNat + w.toNat % 2 ^ i.toNat)

/-- A predicate as an instruction reads it: p15 always reads 1 (R15). -/
def pred (f : Fibre) (i : BitVec 4) : Bool := if i = 15 then true else decide (f.pword.toNat / 2 ^ i.toNat % 2 = 1)

/-! Floating point. Each table gives an instruction, and what it makes of the operands' codes: the result's code and the flags. -/

/-- Both elements of packed registers (R129, R130). -/
def eachHalf (op : Nat → Nat → Nat → Nat × FFlags) (d a b : Nat) : Nat × FFlags :=
  ((op (d % 65536) (a % 65536) (b % 65536)).1 + 65536 * (op (d / 65536) (a / 65536) (b / 65536)).1,
   (op (d % 65536) (a % 65536) (b % 65536)).2 ||| (op (d / 65536) (a / 65536) (b / 65536)).2)

/-- a + b, or a − b. -/
def sum (f : Fmt) (n : Bool) (a b : Nat) : Nat × FFlags := f.finish (exactAdd (f.value a) (if n then (f.value b).neg else f.value b))
/-- a × b, or −(a × b): the sign changes before the one rounding. -/
def product (f : Fmt) (n : Bool) (a b : Nat) : Nat × FFlags :=
  f.finish { exactMul (f.value a) (f.value b) with v := if n then (exactMul (f.value a) (f.value b)).v.neg else (exactMul (f.value a) (f.value b)).v }
/-- ± (a × b) + d. -/
def fused (f : Fmt) (n : Bool) (d a b : Nat) : Nat × FFlags := f.finish (exactFma n (f.value a) (f.value b) (f.value d))
/-- a ÷ b. -/
def quotient (f : Fmt) (a b : Nat) : Nat × FFlags := f.finish (exactDiv (f.value a) (f.value b))

/-- The words over three FP32 or packed registers (R126, R130). -/
def floatRows (h g m : Bool) (d a b : BitVec 7) : List (Instr × (Nat → Nat → Nat → Nat × FFlags)) := [
  (.fadd h g m d a b, fun _ x y => sum fp32 m x y),
  (.fmul h g m d a b, fun _ x y => product fp32 m x y),
  (.ffma h g m d a b, fun z x y => fused fp32 m z x y),
  (.fmin h g m d a b, fun _ x y => fp32.minMax m x y),
  (.fdiv h g d a b, fun _ x y => quotient fp32 x y),
  (.hadd2 h g m d a b, eachHalf fun _ x y => sum (if m then bf16 else fp16) false x y),
  (.hmul2 h g m d a b, eachHalf fun _ x y => product (if m then bf16 else fp16) false x y),
  (.hfma2 h g m d a b, eachHalf fun z x y => fused fp16 m z x y)]

/-- The words over three FP64 pairs (R126). -/
def doubleRows (h g m : Bool) (d a b : BitVec 7) : List (Instr × (Nat → Nat → Nat → Nat × FFlags)) := [
  (.dadd h g m d a b, fun _ x y => sum fp64 m x y),
  (.dmul h g m d a b, fun _ x y => product fp64 m x y),
  (.dfma h g m d a b, fun z x y => fused fp64 m z x y),
  (.dmin h g m d a b, fun _ x y => fp64.minMax m x y),
  (.ddiv h g d a b, fun _ x y => quotient fp64 x y)]

/-- FUN and CVT between 32-bit registers (R131, R137): the old d and a. -/
def funRows (h x : Bool) (r : BitVec 2) (d a : BitVec 7) : List (Instr × (Nat → Nat → Nat × FFlags)) := [
  (.funSqrt h d a, fun _ y => fp32.finish (exactSqrt (fp32.value y))),
  (.funRsqrt h d a, fun _ y => fp32.finish (exactRsqrt (fp32.value y))),
  (.funRcp h d a, fun _ y => quotient fp32 0x3F800000 y),
  (.funExp2 h d a, fun _ y => fp32.finish (exactExp2 (fp32.value y))),
  (.funLog2 h d a, fun _ y => fp32.finish (exactLog2 (fp32.value y))),
  (.funSin h d a, fun _ y => fp32.finish (exactTrig false (fp32.value y))),
  (.funCos h d a, fun _ y => fp32.finish (exactTrig true (fp32.value y))),
  (.funTanh h d a, fun _ y => fp32.finish (exactTanh (fp32.value y))),
  (.funAbs h d a, fun _ y => fp32.abs y),
  (.funNeg h d a, fun _ y => fp32.negate y),
  (.funFloor h d a, fun _ y => fp32.integral .rdn false y),
  (.funCeil h d a, fun _ y => fp32.integral .rup false y),
  (.funTrunc h d a, fun _ y => fp32.integral .rz false y),
  (.funRint h d a, fun _ y => fp32.integral .rne true y),
  (.funClass h d a, fun _ y => (fp32.classMask y, 0)),
  (.cvtF16F32 h x d a r, fun z y => (withHalf x z (cvtFloat fp32 fp16 (rmMode r) y).1, (cvtFloat fp32 fp16 (rmMode r) y).2)),
  (.cvtF32F16 h x d a, fun _ y => cvtFloat fp16 fp32 .rne (halfOf x y)),
  (.cvtBf16F32 h x d a r, fun z y => (withHalf x z (cvtFloat fp32 bf16 (rmMode r) y).1, (cvtFloat fp32 bf16 (rmMode r) y).2)),
  (.cvtF32Bf16 h x d a, fun _ y => cvtFloat bf16 fp32 .rne (halfOf x y)),
  (.cvtS32F32 h d a r, fun _ y => cvtToInt fp32 32 true (rmMode r) y),
  (.cvtU32F32 h d a r, fun _ y => cvtToInt fp32 32 false (rmMode r) y),
  (.cvtF32S32 h d a r, fun _ y => cvtFromInt fp32 (rmMode r) (BitVec.ofNat 32 y).toInt),
  (.cvtF32U32 h d a r, fun _ y => cvtFromInt fp32 (rmMode r) y)]

/-- DUN and CVT between pairs (R131, R137). -/
def dunRows (h : Bool) (r : BitVec 2) (d a : BitVec 7) : List (Instr × (Nat → Nat × FFlags)) := [
  (.dunSqrt h d a, fun y => fp64.finish (exactSqrt (fp64.value y))),
  (.dunRsqrt h d a, fun y => fp64.finish (exactRsqrt (fp64.value y))),
  (.dunRcp h d a, fun y => quotient fp64 0x3FF0000000000000 y),
  (.dunAbs h d a, fun y => fp64.abs y),
  (.dunNeg h d a, fun y => fp64.negate y),
  (.dunFloor h d a, fun y => fp64.integral .rdn false y),
  (.dunCeil h d a, fun y => fp64.integral .rup false y),
  (.dunTrunc h d a, fun y => fp64.integral .rz false y),
  (.dunRint h d a, fun y => fp64.integral .rne true y),
  (.cvtS64F64 h d a r, cvtToInt fp64 64 true (rmMode r)),
  (.cvtF64S64 h d a r, fun y => cvtFromInt fp64 (rmMode r) (BitVec.ofNat 64 y).toInt)]

/-- Words from a pair to a register (R131, R137). -/
def narrowRows (h : Bool) (r : BitVec 2) (d a : BitVec 7) : List (Instr × (Nat → Nat × FFlags)) := [
  (.cvtF32F64 h d a r, cvtFloat fp64 fp32 (rmMode r)),
  (.cvtS32F64 h d a r, cvtToInt fp64 32 true (rmMode r)),
  (.cvtU32F64 h d a r, cvtToInt fp64 32 false (rmMode r)),
  (.dunClass h d a, fun y => (fp64.classMask y, 0))]

/-- Words from a register to a pair (R137). -/
def wideRows (h : Bool) (d a : BitVec 7) : List (Instr × (Nat → Nat × FFlags)) := [
  (.cvtF64F32 h d a, cvtFloat fp32 fp64 .rne),
  (.cvtF64S32 h d a, fun y => cvtFromInt fp64 .rne (BitVec.ofNat 32 y).toInt),
  (.cvtF64U32 h d a, fun y => cvtFromInt fp64 .rne y)]

/-! Words that look at other lanes. -/

/-- The participants of a fibre in column order: the live fibres of the entry that belong to its group (R223). -/
def party (s : State) (c : Issue) (f : Fibre) : List Fibre := (s.members c).filter fun g => decide (g.run = .live) && decide (g.wg = f.wg) && decide (g.grp = f.grp)

/-- What a fibre reads of lane `l` of its group, if a fibre of that lane, live or helper, stands in the entry, else of itself (R229). -/
def laneOr (s : State) (c : Issue) (f : Fibre) (l : Nat) : Fibre :=
  ((s.members c).find? fun g => decide (g.wg = f.wg) && decide (g.grp = f.grp) && decide (g.lane = l)).getD f

/-- The mask of the lanes of a party that a test picks (R228). -/
def laneMask (fs : List Fibre) (p : Fibre → Bool) : DWord :=
  BitVec.ofNat 64 (((List.range 64).map fun l => if fs.any (fun g => p g && decide (g.lane = l)) then 2 ^ l else 0).sum)

/-- The integer operations of GRED on 32-bit values (R231). -/
def gredInt (o : BitVec 4) (x y : Nat) : Nat :=
  if o = 0 then (x + y) % 2 ^ 32
  else if o = 1 then min x y
  else if o = 2 then max x y
  else if o = 3 then (if (BitVec.ofNat 32 y).toInt < (BitVec.ofNat 32 x).toInt then y else x)
  else if o = 4 then (if (BitVec.ofNat 32 x).toInt < (BitVec.ofNat 32 y).toInt then y else x)
  else if o = 5 then Nat.land x y
  else if o = 6 then Nat.lor x y
  else Nat.xor x y

/-- The fold of an integer GRED over values, none for an empty list. -/
def gredFold (o : BitVec 4) : List Nat → Option Nat
  | [] => none
  | x :: r => some (r.foldl (gredInt o) x)

/-- The values that GRED combines in a fibre: those of the lane positions that hold a participant, up to its own lane for a scan (R232). -/
def gredIn (s : State) (c : Issue) (f : Fibre) (scan : Bool) (a : Nat) : List Nat :=
  (List.range (8 * 2 ^ ((s.launch f.wg).shape.toNat % 4))).filterMap fun l =>
    if scan && decide (f.lane < l) then none else ((party s c f).find? fun x => decide (x.lane = l)).map fun x => (x.v a).toNat

/-! Special registers (R18): number, level that may read, and value. -/

/-- What each register but the captures and FPSTAT reads in a fibre. -/
def srdRows (s : State) (f : Fibre) : List (Nat × Level × Nat) := [
  (0x00, .u, f.lane), (0x01, .u, f.lane / 4), (0x02, .u, f.grp), (0x03, .u, 8 * 2 ^ ((s.launch f.wg).shape.toNat % 4)),
  (0x04, .u, (s.wg f.wg).x.toNat), (0x05, .u, (s.wg f.wg).y.toNat), (0x06, .u, (s.wg f.wg).z.toNat), (0x07, .u, (s.wg f.wg).crank),
  (0x08, .u, f.core % 24), (0x09, .u, f.core / 24), (0x0A, .u, if f.run = .helper then 1 else 0), (0x0B, .u, f.wb.toNat),
  (0x0C, .u, f.pword.toNat % 2 ^ 15 + 2 ^ 15), (0x0D, .u, s.clock % 2 ^ 32), (0x0E, .u, f.clockCap.toNat / 2 ^ 32), (0x0F, .u, (s.carries f.wg f.grp).toNat),
  (0x11, .u, f.rstk.toNat % 2 ^ 32), (0x12, .u, f.rstk.toNat / 2 ^ 32), (0x13, .u, f.rep.toNat),
  (0x14, .h, f.trap.cause.toNat), (0x15, .h, f.trap.pcLo.toNat), (0x16, .h, f.trap.pcHi.toNat), (0x17, .h, f.trap.addrLo.toNat),
  (0x18, .h, f.trap.addrHi.toNat), (0x19, .h, f.trap.info.toNat), (0x1A, .h, f.trap.lanes.toNat),
  (0x1B, .u, (s.domain ((s.carries f.wg f.grp).toNat / 64)).accept), (0x1C, .u, (s.core f.core).sigma.toNat % 2 ^ 32),
  (0x1D, .u, f.phaseCap.toNat / 2 ^ 32),
  (0x1E, .h, 98304 * (f.core / 24) + 4096 * (f.core % 24) + 1024 * f.part + 16 * f.home.toNat + f.colSlot.toNat)]

/-- A fibre after a read of CLOCKLO or PHSTAMPLO, which capture all 64 bits (R21, R284). -/
def captured (s : State) (f : Fibre) (n : Nat) : Fibre :=
  if n = 0x0D then { f with clockCap := BitVec.ofNat 64 s.clock }
  else if n = 0x1C then { f with phaseCap := BitVec.ofNat 64 ((s.core f.core).caught.toNat * 2 ^ 56 + (s.core f.core).sigma.toNat % 2 ^ 56) }
  else f

/-- What SWR makes of a fibre, for the registers that a fibre holds for itself (R18, R20); the zero fields of REPSTATE and TRAPINFO stay zero (R6, R57, R430). -/
def swrRows (f : Fibre) (v : Word) : List (Nat × Level × Fibre) := [
  (0x0C, .u, { f with pword := BitVec.ofNat 16 (v.toNat % 2 ^ 15 + 2 ^ 15) }),
  (0x11, .h, { f with rstk := BitVec.ofNat 48 (f.rstk.toNat / 2 ^ 32 * 2 ^ 32 + v.toNat / 32 * 32) }),
  (0x12, .h, { f with rstk := BitVec.ofNat 48 (v.toNat % 2 ^ 16 * 2 ^ 32 + f.rstk.toNat % 2 ^ 32) }),
  (0x13, .h, { f with rep := v &&& 0x00FFFE7F }), (0x14, .h, { f with trap := { f.trap with cause := v } }), (0x15, .h, { f with trap := { f.trap with pcLo := v } }),
  (0x16, .h, { f with trap := { f.trap with pcHi := v } }), (0x17, .h, { f with trap := { f.trap with addrLo := v } }),
  (0x18, .h, { f with trap := { f.trap with addrHi := v } }), (0x19, .h, { f with trap := { f.trap with info := v &&& 0x80007FFF } }),
  (0x1A, .h, { f with trap := { f.trap with lanes := v } })]

/-- The result of KALU (R108). -/
def kaluOf (o : BitVec 3) (x y : Nat) : Nat :=
  if o = 0 then x + y else if o = 1 then x + 2 ^ 64 - y else if o = 2 then Nat.land x y else if o = 3 then Nat.lor x y
  else if o = 4 then Nat.xor x y else if o = 5 then (if y < 64 then x * 2 ^ y else 0) else if o = 6 then (if y < 64 then x / 2 ^ y else 0)
  else x * y

/-- k register n of a group. -/
def kOf (s : State) (g : Nat × Nat) (n : Nat) : DWord := (s.group g.1 g.2).kregs.getD n 0

/-! Memory. -/

/-- Loads and stores with their sizes in bytes (R153). -/
def loadRows (h : BitVec 2) (m : Bool) (d a o : BitVec 7) : List (Instr × Nat) := [(.ldb h m d a o, 1), (.ldh h m d a o, 2), (.ldw h m d a o, 4), (.ldd h m d a o, 8), (.ldq h m d a o, 16)]
def storeRows (h : BitVec 2) (m : Bool) (d a o : BitVec 7) : List (Instr × Nat) := [(.stb h m d a o, 1), (.sth h m d a o, 2), (.stw h m d a o, 4), (.std h m d a o, 8), (.stq h m d a o, 16)]

/-- Whether the data registers of an access may be named: a register, an even pair or a quadruple (R153). -/
def dataOk (f : Fibre) (d size : Nat) : Bool :=
  if size = 8 then decide (d % 2 = 0) && f.may d && f.may (d + 1) else if size = 16 then decide (d % 4 = 0) && f.may d && f.may (d + 3) else f.may d

/-- The effective address (R149): the pair plus the scaled offset, its high 16 bits ignored. -/
def effAddr (f : Fibre) (a o : BitVec 7) (size : Nat) : Nat := ((((f.pair a.toNat).toNat : Int) + size * o.toInt) % 2 ^ 48).toNat

/-- The number in little-endian bytes (R5). -/
def leVal : List Byte → Nat
  | [] => 0
  | b :: r => b.toNat + 2 ^ 8 * leVal r

/-- A fibre whose registers from vd on hold the bytes of a load, zero-extended (R153). -/
def loaded (f : Fibre) (d : Nat) (bs : List Byte) : Fibre :=
  (List.range ((bs.length + 3) / 4)).foldl (fun (x : Fibre) j => x.setV (d + j) (BitVec.ofNat 32 (leVal ((bs.drop (4 * j)).take 4)))) f

/-- Byte i of the data that a store of `size` bytes writes from vd on (R153). -/
def storedByte (f : Fibre) (d i : Nat) : Byte := (f.v (d + i / 4)).extractLsb' (8 * (i % 4)) 8

/-- The bytes of a store. -/
def storedBytes (f : Fibre) (d size : Nat) : List Byte := (List.range size).map (storedByte f d)

/-- The atomics with their operation and whether they name d and b (R161, R164). -/
def atomicRows (k : BitVec 3) (d : BitVec 7) (a : BitVec 6) (w : Bool) (b : BitVec 7) : List (Instr × AtomicOp × Bool × Bool) := [
  (.aadd k d a w b, .add, true, true), (.aand k d a w b, .and, true, true), (.aor k d a w b, .or, true, true), (.axor k d a w b, .xor, true, true),
  (.amin k d a w b, .min, true, true), (.amax k d a w b, .max, true, true), (.axch k d a w b, .xch, true, true), (.acas k d a w b, .cas, true, true),
  (.afadd k d a w b, .fadd, true, true), (.ald k d a w, .ld, true, false), (.ast k a w b, .st, false, true)]

/-- The number that an atomic leaves in its word, and none where it writes nothing (R161 to R164): `e` is the old d. -/
def atomicLeaves (op : AtomicOp) (bits old b e : Nat) : Option Nat :=
  match op with
  | .add => some ((old + b) % 2 ^ bits)
  | .and => some (Nat.land old b)
  | .or => some (Nat.lor old b)
  | .xor => some (Nat.xor old b)
  | .min => some (if (BitVec.ofNat bits old).toInt < (BitVec.ofNat bits b).toInt then old else b)
  | .max => some (if (BitVec.ofNat bits b).toInt < (BitVec.ofNat bits old).toInt then old else b)
  | .xch => some b
  | .cas => if old = e then some b else none
  | .fadd => some (sum (if bits = 64 then fp64 else fp32) false old b).1
  | .ld => none
  | .st => some b
  | .dec => if old = 0 then none else some (old - 1)

/-- The operand of an atomic: a register or, under .D, a pair. -/
def atomicArg (f : Fibre) (n : Nat) (w : Bool) : Nat := if w then (f.pair n).toNat else (f.v n).toNat

/-- A word's bytes, the lowest first (R5). -/
def bytesOf (n v : Nat) : List Byte := (List.range n).map fun i => BitVec.ofNat 8 (v / 2 ^ (8 * i))

/-- The tree of GRED (R232): a node of level j is made of its two nodes of the level below, where both are present. -/
def gredNode (op : Nat → Nat → Nat × FFlags) (leaf : Nat → Option Nat) : Nat → Nat → Option Nat × FFlags
  | 0, p => (leaf p, 0)
  | j + 1, p =>
    let x := gredNode op leaf j (2 * p)
    let y := gredNode op leaf j (2 * p + 1)
    match x.1, y.1 with
    | some a, some b => (some (op a b).1, (op a b).2 ||| x.2 ||| y.2)
    | some a, none => (some a, x.2 ||| y.2)
    | none, z => (z, x.2 ||| y.2)

/-- The floating-point operations of GRED on 32-bit values: FADD, FMIN and FMAX (R231). -/
def gredFloat (o : BitVec 4) (x y : Nat) : Nat × FFlags := if o = 8 then sum fp32 false x y else fp32.minMax (decide (o = 10)) x y

/-- The leaf that lane position l gives to GRED in a fibre. -/
def gredLeaf (s : State) (c : Issue) (f : Fibre) (scan : Bool) (val : Fibre → Nat) (l : Nat) : Option Nat :=
  if (scan && decide (f.lane < l)) || decide (8 * 2 ^ ((s.launch f.wg).shape.toNat % 4) ≤ l) then none else ((party s c f).find? fun x => decide (x.lane = l)).map val

/-- The floors of a tree over a group's lanes. -/
def gredLevels (s : State) (f : Fibre) : Nat := 3 + (s.launch f.wg).shape.toNat % 4

/-- The lowest of a group's live fibres in the entry. -/
def lowest (s : State) (c : Issue) (g : Nat × Nat) (f : Fibre) : Prop := f ∈ s.share c g ∧ ∀ x ∈ s.share c g, x ≠ f → f.lane < x.lane

/-- The address of KLD and KST (R111). -/
def kEff (s : State) (g : Nat × Nat) (a o : BitVec 7) : Nat := (((kOf s g a.toNat).toNat + 8 * o.toInt) % 2 ^ 48).toNat

/-- What an atomic does around its access (R287, R291): the state after its release side, if it has one. -/
def before (s : State) (f : Fibre) (op : AtomicOp) (sc : Byte) (t : State) : Prop :=
  if op = .st ∨ sc.toNat / 32 % 4 = 2 ∨ sc.toNat / 32 % 4 = 3 then s.releaseSide f (sc.setWidth 5) = (t, none) else t = s

/-- The acquire side, for an atomic that has one (R291). -/
def afterwards (t : State) (f : Fibre) (op : AtomicOp) (sc : Byte) : State :=
  if op = .ld ∨ sc.toNat / 32 % 4 = 1 ∨ sc.toNat / 32 % 4 = 3 then t.acquireSide f.core (sc.setWidth 5) else t

/-- A fibre after its atomic: d has the old value, if the word names d. -/
def withOld (f : Fibre) (hasD : Bool) (d : Nat) (w : Bool) (old : Nat) : Fibre :=
  if hasD then (if w then f.setPair d (BitVec.ofNat 64 old) else f.setV d (BitVec.ofNat 32 old)) else f

/-- Whether the registers that an atomic names may be named. -/
def atomicOk (f : Fibre) (d : BitVec 7) (a : BitVec 6) (w : Bool) (b : BitVec 7) (r : AtomicOp × Bool × Bool) : Bool :=
  f.mayPair (2 * a.toNat) && (!r.2.1 || (if w then f.mayPair d.toNat else f.may d.toNat)) && (!r.2.2 || (if w then f.mayPair b.toNat else f.may b.toNat))

/-- Whether an atomic is a release (R291). -/
def isRelease (op : AtomicOp) (sc : Byte) : Bool := decide (op = .st) || decide (sc.toNat / 32 % 4 = 2) || decide (sc.toNat / 32 % 4 = 3)

/-- The state once a sole fibre has signed clasp i (R212); it counts once, and is noted among those that signed the generation (R342). -/
def signedBy (s : State) (f : Fibre) (i : BitVec 4) : State :=
  ({ s with fibres := s.fibres.map fun g => if g.key = f.key then { g with signed := g.signed ||| (1#16 <<< i.toNat) } else g } : State).modWg f.wg fun w =>
    { w with clasps := w.clasps.modify i.toNat fun x => { x with s := x.s + (if f.signed.getLsbD i.toNat then 0 else 1), signers := if x.signers.contains f.key then x.signers else x.signers ++ [f.key] } }

/-- The live fibres of a workgroup. -/
def liveIn (s : State) (wg : Nat) : Nat := (s.fibres.filter fun f => decide (f.wg = wg) && decide (f.run = .live)).length

/-- Whether a clasp releases (R212): a declared count by the signs made, a live one when every live fibre has signed. -/
def releases (s : State) (wg : Nat) (i : BitVec 4) : Bool :=
  let x := (s.wg wg).clasps.getD i.toNat {}
  if x.live then decide (x.s = liveIn s wg) && decide (0 < liveIn s wg) else decide (x.n ≤ x.s)

/-- The state once a clasp has released (R212). -/
def releasedIn (s : State) (wg : Nat) (i : BitVec 4) : State :=
  let t := s.modWg wg fun w => { w with clasps := w.clasps.modify i.toNat fun x => { x with gen := !x.gen, s := 0, matrix := none, signers := [] } }
  { t with fibres := t.fibres.map fun f => if f.wg = wg then { f with signed := f.signed &&& ~~~(1#16 <<< i.toNat) } else f }

/-- A fibre still stands at its instruction, where it waits; nothing else is other than in `u`, but for the seats. -/
def StaysAt (u : State) (f : Fibre) (w : Why) (t : State) : Prop := (u.stays f w).Reseated t

/-- The outstanding operations that WAIT counts (R300): loads with the atomics that load, and stores with the atomics that only store and with what is on its way to peers. -/
def loadsOf (s : State) (f : Fibre) : Nat :=
  s.mem.loads.countP (fun l => decide (l.fib = f.key)) + s.mem.atomics.countP (fun l => decide (l.fib = f.key) && decide (l.op ≠ .st)) +
    s.mem.posts.countP fun l => decide (l.fib = f.key) && decide (l.op ≠ .st)
def storesOf (s : State) (f : Fibre) : Nat :=
  s.mem.stores.countP (fun l => decide (l.fib = f.key)) + s.mem.atomics.countP (fun l => decide (l.fib = f.key) && decide (l.op = .st)) +
    s.mem.posts.countP (fun l => decide (l.fib = f.key) && decide (l.op = .st)) + s.mem.peers.countP fun r => decide (r.fib = f.key) && !r.waits

/-- The condition of WAIT (R299); 15 asks nothing, and a token is over when its count is 0. -/
def waitMet (s : State) (f : Fibre) (l st k : BitVec 4) (m : BitVec 8) : Prop :=
  (l ≠ 15 → loadsOf s f ≤ l.toNat) ∧ (st ≠ 15 → storesOf s f ≤ st.toNat) ∧ (k ≠ 15 → s.tileOps f.key ≤ k.toNat) ∧
    ∀ j < 8, m.getLsbD j = true → (s.wg f.wg).tokens.getD j 0 = 0

/-- What FENCE makes of its core (R282, R292, R294): C before it lands the fibre's stores and publishes; for an engine after it the tensor lines that hold published bytes go; C after it is a snapshot. -/
def fenced (s : State) (f : Fibre) (b a : BitVec 4) : State :=
  let p := if b.getLsbD 0 then (s.landAll f.key).publishCore f.core else s
  let q := if a.getLsbD 1 || a.getLsbD 2 then p.dropTensors else p
  if a.getLsbD 0 then q.snapshot f.core else q

/-- Whether an engine that FENCE names before it has commands of the workgroup that were issued before an order or an identity (R294). -/
def enginesBusy (s : State) (wg : Nat) (b : BitVec 4) (order id : Nat) : Bool :=
  (b.getLsbD 1 && s.copyBusy wg order) || (b.getLsbD 2 && s.matrixBusy wg order) || (b.getLsbD 3 && s.linkBusy wg order id)

/-- Nothing of a fibre's accesses is in flight. -/
def Idle (s : State) (f : Fibre) : Prop :=
  (∀ l ∈ s.mem.loads, l.fib ≠ f.key) ∧ (∀ p ∈ s.mem.stores, p.fib ≠ f.key) ∧ (∀ p ∈ s.mem.atomics, p.fib ≠ f.key) ∧ ∀ p ∈ s.mem.posts, p.fib ≠ f.key

/-- The newest byte as a poll reads it (R271, R286): what the core holds unpublished, else what the tier has once the line's newest bytes are in it, else the newest committed byte. -/
def polled (s : State) (core : Nat) (v : VID) (pa p : Nat) : Byte :=
  (s.nearByte core v p).getD (if tiered pa then Memory.read (s.writeThrough (pa / 1024)).mem.dram p else s.newestByte p)

/-- The bytes that a load with a hint reads (R154, R271, R279): a poll the newest, any other what its core sees. -/
def reads (s : State) (f : Fibre) (h : BitVec 2) (v : VID) (pa : Nat) (bs : List Byte) : Prop :=
  ∀ j < bs.length, (if h = 3 then some (polled s f.core v pa (pa + j)) else s.coreByte f.core v f.seen (pa + j)) = bs[j]?

/-- Nothing but fibres and groups differs, and where memory keeps its bytes: every byte, newest or unpublished, reads as before. -/
structure Looked (s t : State) : Prop where
  newest : ∀ p, t.newestByte p = s.newestByte p
  near : ∀ k u p, t.nearByte k u p = s.nearByte k u p
  cores : t.cores.map (fun k => { k with lines := [] }) = s.cores.map fun k => { k with lines := [] }
  rest : { t with fibres := s.fibres, groups := s.groups, cores := s.cores, mem := { t.mem with frames := s.mem.frames, dram := s.mem.dram } } = s

/-- An access of a fibre goes to memory that the L2 caches, and no part of the machine holds it up (R265, R275, R473). -/
def Open (s : State) (f : Fibre) (pa : Nat) : Prop :=
  (regionOf pa).cached = true ∧ s.mem.refetch.contains (pa / 1024) = false ∧ s.mayAsk f.core = true ∧ Idle s f

/-- Every set of the L2 has ways left for two more frames, every set of a tile store one for one more line, and nothing has overflowed (R252, R258, R263): no access has to make room. -/
def Spacious (s : State) : Prop :=
  (∀ line, (s.ways line).length < 15) ∧ (∀ f ∈ s.mem.frames, f.overflow = false) ∧ ∀ slice set, (s.tileWays slice set).length < 16

/-- The lines of which a core holds unpublished bytes, each with the version that they are of, or none for a private frame. -/
def unpublished (s : State) (core : Nat) : List (Option VID × Nat) :=
  let near : List (Option VID × Nat) := ((s.core core).lines.filter fun (l : Line) => !l.tensor).flatMap fun (l : Line) => l.cells.map fun (x : Nat × Byte) => (some l.vid, x.1 / 1024)
  let far : List (Option VID × Nat) := (s.mem.frames.filter fun (f : Frame) => decide (f.kind = .priv) && decide (f.core = core)).flatMap fun (f : Frame) => f.cells.map fun (x : Nat × Byte) => (none, x.1 / 1024)
  (near ++ far).eraseDups

/-- Every set has the ways for what a core holds unpublished (R258, R262): a boundary has to make no room. -/
def RoomToPublish (s : State) (core : Nat) : Prop :=
  ∀ line, (s.ways line).length + ((unpublished s core).filter fun x => decide (Machine.setOf x.2 = Machine.setOf line) && decide (homeDie x.2 = homeDie line)).length ≤ 16

/-- Every set has the ways for the lines of some cells (R258, R262). -/
def RoomFor (s : State) (cs : Cells) : Prop :=
  ∀ line, (s.ways line).length + ((linesOf cs).filter fun l => decide (Machine.setOf l = Machine.setOf line) && decide (homeDie l = homeDie line)).length ≤ 16

/-- The address in a pair. -/
def pairVa (f : Fibre) (n : Nat) : Nat := (f.pair n).toNat % 2 ^ 48

/-- Each live fibre of the entry has become what `F` makes of it; nothing else has changed, but for the seats. -/
def Went (s : State) (c : Issue) (F : Fibre → Fibre) (t : State) : Prop :=
  ({ s with fibres := s.fibres.map fun f => if f.inEntry c && decide (f.run = .live) then { F f with wait := none } else f } : State).Reseated t

/-- A virtual address of 48 bits. -/
def vaNat (i : Int) : VA := BitVec.ofInt 48 i

/-- The word address of the parcel at a pc, as a number (R37). -/
def wordOf (f : Fibre) : Int := ((f.pc.toNat / 4 * 4 : Nat) : Int)

/-- A record whose window has slid by 8 × `slide` registers for a call of the fibre `f`, with the stack pointer and the link in place, and D and RSTK as the call leaves them (R22, R23, R114). -/
def calledAs (y f : Fibre) (c : Issue) (slide : BitVec 4) (target : VA) (outer : Nat) (rstk : VA) : Fibre :=
  let x : Fibre := { y with wb := BitVec.ofNat 10 ((f.wb.toNat + 8 * slide.toNat) % f.alloc.toNat), outer := outer, rstk := rstk }
  let ret := (nextOf c f).1.toNat
  { (((x.setV 0 (f.v 0)).setV 126 (BitVec.ofNat 32 ret)).setV 127 (BitVec.ofNat 32 (ret / 2 ^ 32 + slide.toNat * 2 ^ 16))) with pc := target, wait := none }

/-- The fibre after a call that spills nothing. -/
def called (f : Fibre) (c : Issue) (slide : BitVec 4) (target : VA) : Fibre := calledAs f f c slide target (f.outer + 8 * slide.toNat) f.rstk

/-- The registers of a return's link (R115): by how many the window slides back, and where the fibre goes. -/
def linkSlide (f : Fibre) : Nat := 8 * ((f.v 127).toNat / 2 ^ 16 % 16)
def linkPc (f : Fibre) : Nat := (f.v 127).toNat % 2 ^ 16 * 2 ^ 32 + (f.v 126).toNat

/-- A record after a return of the fibre `f`, with D, RSTK and the registers as the return leaves them (R115). -/
def returnedAs (y f : Fibre) (outer : Nat) (rstk : VA) (regs : List Word) : Fibre :=
  { y with wb := BitVec.ofInt 10 (((f.wb.toNat : Int) - linkSlide f) % f.alloc.toNat), outer := outer, rstk := rstk, regs := regs, pc := BitVec.ofNat 48 (linkPc f), wait := none }

/-- The first of the eight physical registers that a spill writes out, and of those that a fill brings back (R24, R25). -/
def spillBlock (f : Fibre) : Nat := (((f.wb.toNat : Int) - f.outer) % f.alloc.toNat).toNat
def fillBlock (f : Fibre) : Nat := (((f.wb.toNat : Int) - f.outer - 8) % f.alloc.toNat).toNat

/-- The words that no state of the machine lets a fibre at level U execute, with their cause and fault address: TRAP, BRK and no instruction at all (R121, R40, R429). -/
def trapRows (k : BitVec 8) : List (Instr × Nat × Nat) := [(.trap k, 0x06, k.toNat), (.brk k, 0x05, k.toNat), (.illegalInstruction, 0x01, 0)]

/-- The fibre in its handler (R430, R434): the TRAP registers tell the cause, the pc, an address, the info word and the fibre's own lane. -/
def inHandler (s : State) (f : Fibre) (cause addr info : Nat) : Fibre :=
  { f with
    trap := { cause := BitVec.ofNat 32 cause, pcLo := BitVec.ofNat 32 f.pc.toNat, pcHi := BitVec.ofNat 32 (f.pc.toNat / 2 ^ 32), addrLo := BitVec.ofNat 32 addr,
              addrHi := BitVec.ofNat 32 (addr / 2 ^ 32 % 2 ^ 16), info := BitVec.ofNat 32 info, lanes := BitVec.ofNat 32 (2 ^ f.lane) }
    pl := .h, pc := BitVec.ofNat 48 ((s.launch f.wg).traph.toNat / 2 * 2), wait := none }

/-- A state in which a fibre that runs at level U, has a handler and has nothing in flight may trap at once. -/
structure MayTrap (s : State) (f : Fibre) : Prop where
  level : f.pl = .u
  handler : (s.launch f.wg).traph ≠ 0
  settled : s.Settled f
  owed : s.owedLds f = []
  gbar : f.gbar = none

/-- The bytes of a trap save record (R434). -/
def recordBytes (f : Fibre) : List Byte := ((List.range 16).flatMap fun j => bytesOf 4 (f.v j).toNat) ++ bytesOf 4 f.pword.toNat ++ List.replicate 60 0

/-- A sole fibre has entered its handler and its record is written; nothing else has changed, but for the seats, and for waits at barrier words that the record overlaps. -/
def Enters (s : State) (f : Fibre) (cause addr info : Nat) (t : State) : Prop :=
  ((s.physWrite (s.tsave + 128 * f.slot) (recordBytes f)).become f (inHandler s f cause addr info)).Reseated t

/-- A fibre with the registers and PWORD of its record (R439); p15 stays 1. -/
def restored (f : Fibre) (bs : List Byte) : Fibre :=
  { loaded f 0 (bs.take 64) with pword := BitVec.ofNat 16 (leVal ((bs.drop 64).take 2) % 2 ^ 15 + 2 ^ 15) }

/-- The pc that the handler leaves in TRAPPC (R439). -/
def trapPcOf (f : Fibre) : Nat := f.trap.pcHi.toNat % 2 ^ 16 * 2 ^ 32 + f.trap.pcLo.toNat

/-- What holds of every line while stamps and ways have room: no publication is pending, no frame is newer than the count of stamps, and each line and each set can take one more frame. -/
def Roomy (s : State) : Prop :=
  s.mem.pubs = [] ∧ s.mem.stamp.toNat + 1 < 2 ^ 64 ∧ (∀ line, (s.ways line).length < 16) ∧
    ∀ line, (s.committed line).length ≤ 3 ∧ ∀ y ∈ s.committed line, y.1.toNat ≤ s.mem.stamp.toNat

/-- The queue's program is at a word that it may run: the packet in hand, within its budget (R493, R495). -/
structure Running (s : State) (q : BitVec 8) (p : Packet) : Prop where
  cur : s.curQ = some q
  hand : (s.queue q).packet = some p
  stage : p.stage = .program
  budget : p.used < s.qBudget q

/-- A packet that goes on at a word, with one unit of its budget used; `n` is 1 for a loop that begins there. -/
def onward (p : Packet) (pc : Nat) : Packet := ({ p with used := p.used + 1 } : Packet).goto pc

/-- The words that make a queue register from two (R493, R31). -/
def queueRows (d a b : BitVec 4) (i : BitVec 16) : List (Instr × (Nat → Nat → Nat → Int)) := [
  (.qli d i, fun _ _ _ => i.toInt), (.qlsh d i, fun z _ _ => (z * 2 ^ 16 + i.toNat : Nat)), (.qaddi d a i, fun _ x _ => x + i.toInt),
  (.qadd d a b, fun _ x y => (x + y : Nat)), (.qsub d a b, fun _ x y => (x : Int) - y), (.qand d a b, fun _ x y => (Nat.land x y : Nat)), (.qor d a b, fun _ x y => (Nat.lor x y : Nat)),
  (.qxor d a b, fun _ x y => (Nat.xor x y : Nat)), (.qshl d a b, fun _ x y => (x * 2 ^ (y % 64) : Nat)), (.qshr d a b, fun _ x y => (x / 2 ^ (y % 64) : Nat)), (.qmul d a b, fun _ x y => (x * y : Nat)),
  (.qdivu d a b, fun _ x y => if y = 0 then -1 else (x / y : Nat)), (.qminu d a b, fun _ x y => (min x y : Nat))]

/-- The branches of a queue's program, and when each is taken (R493). -/
def queueBranches (a b : BitVec 4) (o : BitVec 16) (n : BitVec 12) : List (Instr × Nat × (Nat → Nat → Bool)) := [
  (.qbr o, o.toNat, fun _ _ => true), (.qbz a o, o.toNat, fun x _ => decide (x = 0)), (.qbnz a o, o.toNat, fun x _ => decide (x ≠ 0)), (.qbltu a b n, n.toNat, fun x y => decide (x < y))]

/-- A queue register as a number. -/
def qreg (p : Packet) (n : BitVec 4) : Nat := (p.regs.getD n.toNat 0).toNat

/-- The packet with a queue register written. -/
def withReg (p : Packet) (n : BitVec 4) (x : Int) : Packet := { p with regs := p.regs.set n.toNat (BitVec.ofInt 64 x) }

/-- The state in which a packet's staging record is a grid, whose head stands last in its queue (R381, R491, R496): a speculative launch brings its version, if it is new. -/
def offered (s : State) (q : BitVec 8) (p : Packet) : State :=
  let l := Launch.ofBytes p.record
  ({ s with
    ids := s.ids + 1
    grids := s.grids ++ [{ id := s.ids, launch := l, k1 := p.k1, queue := q, packet := p.id }]
    versions := if l.spec && (s.version? l.version).isNone then s.versions ++ [{ vid := l.version, state := .live, parent := s.parentSlot l }] else s.versions } : State).modQueue q fun x =>
      { x with heads := x.heads ++ [{ grid := s.ids }] }

/-- The record of a task as TQ reads it: from memory, but for the count of one in memory, which is read as an atomic (R370, R372). -/
def taskRecord (s : State) (f : Fibre) (key : Place) (bs : List Byte) : State × List Byte :=
  match key with
  | .pad _ _ => (s, bs)
  | .gone => (s, bs)
  | .pa pa =>
    let r := s.atomicAt f.core (s.actual (s.fibreVid f)) (pa + 32) .ld false false 0 0 false
    (r.1.saw f.key (pa + 32) 4, bs.take 32 ++ bytesOf 4 r.2.1.toNat ++ bs.drop 36)

/-- What a VERS PTILE whose descriptor is in order makes of the workgroup's ranges (R401): RESET clears its history's count; mode 0 takes the range away, and another mode adds it, if the workgroup's other ranges let it. -/
def declared (u : State) (wg : Nat) (bs : List Byte) : Option State :=
  let r := leVal (bs.take 4)
  let first := r % 2 ^ 13
  let cnt := r / 2 ^ 13 % 2 ^ 8
  let m := (bs.getD 4 0).toNat
  let slot := (bs.getD 16 0).toNat
  let v := if m / 2 ^ 4 % 2 = 1 then u.physWrite (u.histBase (vidDomain (u.launch wg).version) + 131072 * slot + 65536) [0, 0, 0, 0] else u
  let same := fun (p : PRange) => decide (p.first = first ∧ p.cnt = cnt)
  if m % 4 = 0 then
    if (u.wg wg).ranges.any same then some (v.modWg wg fun w => { w with ranges := w.ranges.filter fun p => !(same p) }) else none
  else if (∃ p ∈ (u.wg wg).ranges, p.first < first + cnt ∧ first < p.first + p.cnt) ∨ 8 ≤ (u.wg wg).ranges.length then none
  else some (v.modWg wg fun w => { w with ranges := w.ranges ++
    [{ first := first, cnt := cnt, ty := BitVec.ofNat 2 (m / 4), linear := decide (m % 4 = 2), warm := (bs.getD 6 0).toNat, backoffInit := (bs.getD 7 0).toNat,
       abs := BitVec.ofNat 32 (leVal ((bs.drop 8).take 4)), rel := BitVec.ofNat 32 (leVal ((bs.drop 12).take 4)), hslot := slot }] })

/-- The keys of a group's live fibres in the entry. -/
def groupKeys (s : State) (c : Issue) (g : Nat × Nat) : List FibreKey := (s.share c g).map Fibre.key

/-- The fibres, helpers included, of a batch entry. -/
def seated (s : State) (core part i : Nat) : List Fibre := s.fibres.filter fun f => decide (f.run ≠ .ended) && decide (f.core = core) && decide (f.part = part) && decide (f.seat = .entry i)

/-- A matrix command that stands on a core, with its work. -/
def commandAt (s : State) (core seq : Nat) (m : MCmd) (q : Mul) : Prop := (s.core core).mcmds.find? (fun x => decide (x.seq = seq)) = some m ∧ m.kind = .mul q

/-- A MACC command that stands on a core, its range clear of earlier commands (R334, R346). -/
def maccAt (s : State) (core seq : Nat) (m : MCmd) : Prop := (s.core core).mcmds.find? (fun x => decide (x.seq = seq)) = some m ∧ (s.core core).rangeClear m = true ∧ ∀ q, m.kind ≠ .mul q

/-- A MACC of a group as it takes its place in its core's order (R318, R345 to R349): after every command that is there, with its accumulator range and the fibres whose tile operation it is. -/
def maccOf (s : State) (g : Nat × Nat) (kind : MKind) (slot : Word) (lo len : Nat) (pc : VA) (signers : List FibreKey) : MCmd :=
  { seq := s.order, whole := s.order, wg := g.1, src := g.1, grp := g.2, vid := s.carries g.1 g.2, kind := kind, slot := slot, mode := 0, lo := lo, len := len, prio := (s.launch g.1).prio, age := 0,
    since := s.clock, pc := pc, signers := signers }

/-- The command stands last in the order of the group's core. -/
def queuedLast (s : State) (wg : Nat) (m : MCmd) : State :=
  ({ s with order := s.order + 1 } : State).modCore (s.wg wg).core fun k => { k with mcmds := k.mcmds ++ [m] }

/-- No command on the group's core touches a range of its accumulators, and none is younger than the next (R334). -/
def accClear (s : State) (wg lo len : Nat) : Prop :=
  (s.wg wg).core < s.cores.length ∧ ∀ n ∈ (s.core (s.wg wg).core).mcmds, n.seq < s.order ∧ (n.wg = wg → n.lo + n.len ≤ lo ∨ lo + len ≤ n.lo)

/-- The event of the group's core that completes its newest command. -/
def completing (s t : State) (wg : Nat) : State := { t with arg := .two (s.wg wg).core s.order }

/-- The events that bring an entry's fibres to their instruction again, each with the wait that it ends (R331, R387, R391). -/
def retryRows : List (Instr × Why) := [(.matrixQueuePlaceWait, .place), (.stalledAccessResume, .stall)]

/-- The conditions under which a queue's program takes its next packet (R491). -/
def maySeize (s : State) (q : BitVec 8) : Prop := s.qEnabled q = true ∧ s.ringStall q = false ∧ (s.queue q).packet = none

/-- The distributor's answer from its count (R220, R221): X in bits [15:0] and Y in bits [31:16] of the tile that the order of WDIST gives, or all ones past the end. -/
def tileAnswer (wdist : BitVec 64) (n : Nat) : Word :=
  let w := wdist.toNat
  let ex := w % 2 ^ 16
  let ey := w / 2 ^ 16 % 2 ^ 16
  let h := 2 ^ (w / 2 ^ 40 % 16)
  let low := n / (h * ex) * h
  if ex * ey ≤ n then 0xFFFFFFFF
  else if w / 2 ^ 32 % 2 ^ 8 = 0 then BitVec.ofNat 32 (n % ex + n / ex * 2 ^ 16)
  else if w / 2 ^ 32 % 2 ^ 8 = 1 then BitVec.ofNat 32 (n / ey + n % ey * 2 ^ 16)
  else BitVec.ofNat 32 ((n - low * ex) / min h (ey - low) + (low + (n - low * ex) % min h (ey - low)) * 2 ^ 16)

/-- What a step makes of an instruction that it runs: the instruction's own next state, the word that a dictionary parcel has expanded to (R50), and the end of the turn. -/
def ranOn (i : Instr) (s : State) : Host.Outcome State Fault Refusal :=
  match exec i s with
  | .next u => (match u.expansion with
    | none => .next u.endTurn
    | some j => match exec j u with
      | .next v => .next v.endTurn
      | .fault r => .fault r
      | .refused r => .refused r)
  | .fault r => .fault r
  | .refused r => .refused r

/-- The words of R39 to R45 and R493 written out from their encodings, each with the instruction that it stands for: for each family, the fixed bits and then each field's value at its lowest bit. -/
def fibreWords : List (Nat × Instr) :=
  [(0x01000000 + 2 ^ 21 + 5 * 2 ^ 14 + 6 * 2 ^ 7 + 7, .add false false true 5 6 7), (0x0F000000 + 2 ^ 23 + 3 * 2 ^ 14 + 127 * 2 ^ 7 + 4, .iunClz true false 3 127),
   (0x1A000000 + 5 * 2 ^ 21 + 1 * 2 ^ 14 + 2 * 2 ^ 7 + 0x7F, .addi 0x2FF 1 2), (0x23000000 + 11 * 2 ^ 20 + 1 * 2 ^ 16 + 2 * 2 ^ 14 + 8 * 2 ^ 7 + 9, .icmp 11 1 2 8 9),
   (0x32000000 + 2 ^ 22 + 10 * 2 ^ 14 + 11 * 2 ^ 7 + 12, .ffma false true false 10 11 12), (0x34000000 + 13 * 2 ^ 14 + 14 * 2 ^ 7 + 2, .funRcp false 13 14),
   (0x5F000000, .nop)]

def queueWords : List (Nat × Instr) :=
  [(0x0B000000 + 1 * 2 ^ 20 + 2 * 2 ^ 16 + 3 * 2 ^ 12, .qmul 1 2 3), (0x12000000 + 4 * 2 ^ 20 + 5 * 2 ^ 16 + 1 * 2 ^ 14 + 24, .qldm 4 5 1 24),
   (0x24000000 + 3 * 2 ^ 8 + 2, .qloop 3 2), (0x38000000, .qgo)]

end Sys2Proof.Claims

open Sys2Proof Sys2Proof.Machine Sys2Proof.Claims

/-- R95, R96, R31, R94: each three-register integer word writes d in every fibre of its entry, moves it on, and changes nothing else. -/
def Obligations.IntegerWordsWriteTheirResult : Prop :=
  ∀ (s : State) (c : Issue) (h g m : Bool) (d a b : BitVec 7), s.cur = some c →
    s.each c (fun f => f.may d.toNat && f.may a.toNat && f.may b.toNat) →
    ∀ r ∈ intRows h g m d a b,
      exec r.1 s = .next (s.moved c fun f => f.setV d.toNat (r.2 (f.v d.toNat) (f.v a.toNat) (f.v b.toNat)))

/-- R95, R97 to R100: the one-operand words, the immediates, LI and LIH, and the words over pairs. -/
def Obligations.ImmediateAndPairWords : Prop :=
  (∀ (s : State) (c : Issue) (h : Bool) (i : BitVec 10) (j : BitVec 17) (k : BitVec 2) (n : BitVec 5) (d a : BitVec 7), s.cur = some c →
     (s.each c (fun f => f.may d.toNat && f.may a.toNat) →
       (∀ r ∈ iunRows h false d a, exec r.1 s = .next (s.moved c fun f => f.setV d.toNat (r.2.1 (f.v a.toNat)))) ∧
       (∀ r ∈ immRows h i k n d a, exec r.1 s = .next (s.moved c fun f => f.setV d.toNat (r.2 (f.v a.toNat))))) ∧
     (s.each c (fun f => f.mayPair d.toNat && f.mayPair a.toNat) →
       (∀ r ∈ iunRows h true d a, exec r.1 s = .next (s.moved c fun f => f.setPair d.toNat (r.2.2 (f.pair a.toNat)))) ∧
       exec (.addiw i d a) s = .next (s.moved c fun f => f.setPair d.toNat (BitVec.ofInt 64 ((f.pair a.toNat).toInt + i.toInt)))) ∧
     (s.each c (fun f => f.may d.toNat) →
       exec (.li j d) s = .next (s.moved c fun f => f.setV d.toNat (BitVec.ofInt 32 j.toInt)) ∧
       exec (.lih j d) s = .next (s.moved c fun f => f.setV d.toNat (BitVec.ofNat 32 (j.toNat * 2 ^ 15 + (f.v d.toNat).toNat % 2 ^ 15))))) ∧
  (∀ (s : State) (c : Issue) (h g m : Bool) (d a b : BitVec 7), s.cur = some c →
     (s.each c (fun f => f.mayPair d.toNat && f.mayPair a.toNat && f.may b.toNat) →
       ∀ r ∈ mixedRows h g m d a b, exec r.1 s = .next (s.moved c fun f => f.setPair d.toNat (r.2 (f.pair a.toNat) (f.v b.toNat)))) ∧
     (s.each c (fun f => f.mayPair d.toNat && f.mayPair a.toNat && f.mayPair b.toNat) →
       ∀ r ∈ pairRows h g m d a b, exec r.1 s = .next (s.moved c fun f => f.setPair d.toNat (r.2 (f.pair a.toNat) (f.pair b.toNat)))))

/-- R101, R102, R104 to R106, R15: the integer compares and the words on predicates; each changes PWORD, or d, and nothing else. -/
def Obligations.ComparesAndPredicateWords : Prop :=
  ∀ (s : State) (c : Issue) (h g : Bool) (cc t p x y : BitVec 4) (e : BitVec 2) (q : BitVec 3) (d a b i : BitVec 7), s.cur = some c →
    (s.each c (fun f => f.may a.toNat && f.may b.toNat) →
      exec (.icmp cc p e a b) s = .next (s.moved c fun f => { f with pword := withPred f.pword p (combined e (pred f p) (condition 32 cc (f.v a.toNat) (f.v b.toNat))) })) ∧
    (s.each c (fun f => f.may a.toNat) →
      exec (.icmpi cc p e a i) s = .next (s.moved c fun f =>
        let im : Int := if 6 ≤ cc.toNat ∧ cc.toNat ≤ 9 then i.toNat else i.toInt
        { f with pword := withPred f.pword p (combined e (pred f p) (condition 32 cc (f.v a.toNat) (BitVec.ofInt 32 im))) }) ∧
      exec (.pmovToPred h g p a) s = .next (s.moved c fun f => { f with pword := withPred f.pword p (decide (f.v a.toNat ≠ 0)) })) ∧
    (s.each c (fun f => f.mayPair a.toNat && f.mayPair b.toNat) →
      exec (.icmpw cc p e a b) s = .next (s.moved c fun f => { f with pword := withPred f.pword p (combined e (pred f p) (condition 64 cc (f.pair a.toNat) (f.pair b.toNat))) })) ∧
    exec (.plog t p x y) s = .next (s.moved c fun f => { f with pword := withPred f.pword p (t.getLsbD (2 * (pred f x).toNat + (pred f y).toNat)) }) ∧
    (s.each c (fun f => f.may d.toNat) →
      exec (.pmovToLane h g d p) s = .next (s.moved c fun f => f.setV d.toNat (if pred f p then 1 else 0))) ∧
    (s.each c (fun f => f.may d.toNat && f.may a.toNat && f.may b.toNat) →
      exec (.sel q d a b) s = .next (s.moved c fun f => f.setV d.toNat (if pred f (q.setWidth 4) then f.v a.toNat else f.v b.toNat)))

/-- R125 to R130: the floating-point words over three operands write the result that their operation rounds once, and OR its flags into FPSTAT. -/
def Obligations.FloatArithmeticWords : Prop :=
  ∀ (s : State) (c : Issue) (h g m : Bool) (d a b : BitVec 7), s.cur = some c →
    (s.each c (fun f => f.may d.toNat && f.may a.toNat && f.may b.toNat) → ∀ r ∈ floatRows h g m d a b,
      ∃ t, exec r.1 s = .next t ∧
        s.MovedRaising c (fun f => f.setV d.toNat (BitVec.ofNat 32 (r.2 (f.v d.toNat).toNat (f.v a.toNat).toNat (f.v b.toNat).toNat).1))
          (fun f => (r.2 (f.v d.toNat).toNat (f.v a.toNat).toNat (f.v b.toNat).toNat).2) t) ∧
    (s.each c (fun f => f.mayPair d.toNat && f.mayPair a.toNat && f.mayPair b.toNat) → ∀ r ∈ doubleRows h g m d a b,
      ∃ t, exec r.1 s = .next t ∧
        s.MovedRaising c (fun f => f.setPair d.toNat (BitVec.ofNat 64 (r.2 (f.pair d.toNat).toNat (f.pair a.toNat).toNat (f.pair b.toNat).toNat).1))
          (fun f => (r.2 (f.pair d.toNat).toNat (f.pair a.toNat).toNat (f.pair b.toNat).toNat).2) t)

/-- R131 to R137: the functions and the conversions. -/
def Obligations.FloatFunctionsAndConversions : Prop :=
  ∀ (s : State) (c : Issue) (h x : Bool) (r : BitVec 2) (d a : BitVec 7), s.cur = some c →
    (s.each c (fun f => f.may d.toNat && f.may a.toNat) → ∀ w ∈ funRows h x r d a,
      ∃ t, exec w.1 s = .next t ∧
        s.MovedRaising c (fun f => f.setV d.toNat (BitVec.ofNat 32 (w.2 (f.v d.toNat).toNat (f.v a.toNat).toNat).1)) (fun f => (w.2 (f.v d.toNat).toNat (f.v a.toNat).toNat).2) t) ∧
    (s.each c (fun f => f.mayPair d.toNat && f.mayPair a.toNat) → ∀ w ∈ dunRows h r d a,
      ∃ t, exec w.1 s = .next t ∧
        s.MovedRaising c (fun f => f.setPair d.toNat (BitVec.ofNat 64 (w.2 (f.pair a.toNat).toNat).1)) (fun f => (w.2 (f.pair a.toNat).toNat).2) t) ∧
    (s.each c (fun f => f.may d.toNat && f.mayPair a.toNat) → ∀ w ∈ narrowRows h r d a,
      ∃ t, exec w.1 s = .next t ∧
        s.MovedRaising c (fun f => f.setV d.toNat (BitVec.ofNat 32 (w.2 (f.pair a.toNat).toNat).1)) (fun f => (w.2 (f.pair a.toNat).toNat).2) t) ∧
    (s.each c (fun f => f.mayPair d.toNat && f.may a.toNat) → ∀ w ∈ wideRows h d a,
      ∃ t, exec w.1 s = .next t ∧
        s.MovedRaising c (fun f => f.setPair d.toNat (BitVec.ofNat 64 (w.2 (f.v a.toNat).toNat).1)) (fun f => (w.2 (f.v a.toNat).toNat).2) t)

/-- R103, R138 to R146: the float compares, the conversions through a format slot, and the lane generator. -/
def Obligations.FloatComparesSlotsAndGenerator : Prop :=
  ∀ (s : State) (c : Issue) (cc p : BitVec 4) (e : BitVec 2) (i : BitVec 3) (m : Bool) (d a b : BitVec 7), s.cur = some c →
    (s.each c (fun f => f.may a.toNat && f.may b.toNat) →
      ∃ t, exec (.fcmp cc p e a b) s = .next t ∧
        s.MovedRaising c (fun f => { f with pword := withPred f.pword p (combined e (pred f p) (fp32.compare cc.toNat (f.v a.toNat).toNat (f.v b.toNat).toNat).1) })
          (fun f => (fp32.compare cc.toNat (f.v a.toNat).toNat (f.v b.toNat).toNat).2) t) ∧
    (s.each c (fun f => f.mayPair a.toNat && f.mayPair b.toNat) →
      (∃ t, exec (.dcmp cc p e a b) s = .next t ∧
        s.MovedRaising c (fun f => { f with pword := withPred f.pword p (combined e (pred f p) (fp64.compare cc.toNat (f.pair a.toNat).toNat (f.pair b.toNat).toNat).1) })
          (fun f => (fp64.compare cc.toNat (f.pair a.toNat).toNat (f.pair b.toNat).toNat).2) t) ∧
      exec (.rseed a b) s = .next (s.moved c fun f => { f with gen := { key := f.pair a.toNat, stream := f.pair b.toNat, n := 0 } })) ∧
    (s.each c (fun f => f.may d.toNat) →
      exec (.rand m d) s = .next (s.moved c fun f =>
        let u := (Gen.word { f.gen with n := f.gen.n + 1 }).toNat * 2 ^ 16 + f.gen.word.toNat
        ({ f with gen := { f.gen with n := f.gen.n + 2 } }).setV d.toNat (if m then BitVec.ofNat 32 (fp32.roundFin .rne false false (u / 2 ^ 8) (-24) false).1 else BitVec.ofNat 32 u))) ∧
    (s.each c (fun f => f.may d.toNat && f.may b.toNat && f.may a.toNat &&
        f.may (a.toNat + perRegister (elemOf (slotA ((s.launch f.wg).slot i))).width - 1) && decide (slotA ((s.launch f.wg).slot i) ≠ 0)) →
      ∃ t, exec (.cvtn i d a b) s = .next t ∧
        let r := fun (f : Fibre) =>
          let slot := (s.launch f.wg).slot i
          narrowAll (elemOf (slotA slot)) slot (f.v b.toNat) ((List.range (perRegister (elemOf (slotA slot)).width)).map fun k => f.v (a.toNat + k)) f.gen
        s.MovedRaising c (fun f => ({ f with gen := (r f).2.2 }).setV d.toNat (leWord (packElems (elemOf (slotA ((s.launch f.wg).slot i))).width (r f).1))) (fun f => (r f).2.1) t) ∧
    (s.each c (fun f => f.may a.toNat && f.may b.toNat && f.may d.toNat &&
        f.may (d.toNat + perRegister (elemOf (slotA ((s.launch f.wg).slot i))).width - 1) && decide (slotA ((s.launch f.wg).slot i) ≠ 0)) →
      ∃ t, exec (.cvtw i d a b) s = .next t ∧
        let n := fun (f : Fibre) => perRegister (elemOf (slotA ((s.launch f.wg).slot i))).width
        let r := fun (f : Fibre) =>
          let slot := (s.launch f.wg).slot i
          widenAll (elemOf (slotA slot)) slot (f.v b.toNat) ((List.range (n f)).map fun k => packedGet (elemOf (slotA slot)).width (leBytes 4 (f.v a.toNat).toNat) k) f.gen
        s.MovedRaising c (fun f => (List.range (n f)).foldl (fun x k => x.setV (d.toNat + k) (BitVec.ofNat 32 ((r f).1.getD k 0))) { f with gen := (r f).2.2 }) (fun f => (r f).2.1) t)

/-- R223, R228 to R230, R110, R234: the words that read other lanes of the entry, a k register or a clasp; sources are read before any d is written. -/
def Obligations.CrossLaneWords : Prop :=
  ∀ (s : State) (c : Issue) (g h m w : Bool) (p q n : BitVec 4) (e sel : BitVec 2) (k : BitVec 5) (d a b : BitVec 7), s.cur = some c →
    exec (.voteAll p q) s = .next (s.moved c fun f => { f with pword := withPred f.pword q ((party s c f).all fun x => pred x p) }) ∧
    exec (.voteAny p q) s = .next (s.moved c fun f => { f with pword := withPred f.pword q ((party s c f).any fun x => pred x p) }) ∧
    exec (.voteEq p q) s = .next (s.moved c fun f => { f with pword := withPred f.pword q (((party s c f).all fun x => pred x p) || ((party s c f).all fun x => !(pred x p))) }) ∧
    (s.each c (fun f => f.mayPair d.toNat) →
      exec (.voteBallot d p) s = .next (s.moved c fun f => f.setPair d.toNat (laneMask (party s c f) fun x => pred x p)) ∧
      exec (.kmovToLane h d k) s = .next (s.moved c fun f => f.setPair d.toNat (kOf s (f.wg, f.grp) k.toNat))) ∧
    (s.each c (fun f => f.may d.toNat && f.may a.toNat && f.may b.toNat) →
      exec (.shfl g m d a b) s = .next (s.moved c fun f =>
        f.setV d.toNat ((laneOr s c f (if m then Nat.xor f.lane ((f.v b.toNat).toNat % 64) else (f.v b.toNat).toNat % 64)).v a.toNat))) ∧
    (s.each c (fun f => if w then f.mayPair d.toNat && f.mayPair a.toNat else f.may d.toNat && f.may a.toNat) →
      exec (.qswap e w d a sel) s = .next (s.moved c fun f =>
        let x := laneOr s c f (if e = 3 then f.lane / 4 * 4 + sel.toNat else Nat.xor f.lane (e.toNat + 1))
        if w then f.setPair d.toNat (x.pair a.toNat) else f.setV d.toNat (x.v a.toNat))) ∧
    (s.each c (fun f => f.may d.toNat) →
      exec (.claspRead d n) s = .next (s.moved c fun f =>
        let x := (s.wg f.wg).clasps.getD n.toNat {}
        f.setV d.toNat (BitVec.ofNat 32 (x.s + 2 ^ 11 * x.n + 2 ^ 22 * x.live.toNat + 2 ^ 23 * x.gen.toNat + 2 ^ 24 * (f.signed.getLsbD n.toNat).toNat))))

/-- R231 to R233: GRED writes the tree of its group's participants; for the integer operations that is their fold in any order, and over floating-point values it raises the flags of every node that it computes. -/
def Obligations.GroupReductions : Prop :=
  (∀ (s : State) (c : Issue) (scan : Bool) (d a : BitVec 7) (o : BitVec 4), s.cur = some c → o.toNat ≤ 7 →
     s.each c (fun f => f.may d.toNat && f.may a.toNat && decide (gredIn s c f scan a.toNat ≠ [])) →
       exec (.gred scan d a o) s = .next (s.moved c fun f => f.setV d.toNat (BitVec.ofNat 32 ((gredFold o (gredIn s c f scan a.toNat)).getD 0)))) ∧
  (∀ (s : State) (c : Issue) (scan : Bool) (d a : BitVec 7) (o : BitVec 4), s.cur = some c →
     (8 ≤ o.toNat → o.toNat ≤ 10 → s.each c (fun f => f.may d.toNat && f.may a.toNat && decide (gredIn s c f scan a.toNat ≠ [])) →
       ∃ t, exec (.gred scan d a o) s = .next t ∧
         let r := fun (f : Fibre) => gredNode (gredFloat o) (gredLeaf s c f scan fun x => (x.v a.toNat).toNat) (gredLevels s f) 0
         s.MovedRaising c (fun f => f.setV d.toNat (BitVec.ofNat 32 ((r f).1.getD 0))) (fun f => (r f).2) t) ∧
     (o = 11 → s.each c (fun f => f.mayPair d.toNat && f.mayPair a.toNat && decide (gredIn s c f scan a.toNat ≠ [])) →
       ∃ t, exec (.gred scan d a o) s = .next t ∧
         let r := fun (f : Fibre) => gredNode (fun x y => sum fp64 false x y) (gredLeaf s c f scan fun x => (x.pair a.toNat).toNat) (gredLevels s f) 0
         s.MovedRaising c (fun f => f.setPair d.toNat (BitVec.ofNat 64 ((r f).1.getD 0))) (fun f => (r f).2) t))

/-- R18, R19, R21, R284, R122: SRD reads each register at the level that may read it; a read of CLOCKLO or PHSTAMPLO captures all 64 bits. -/
def Obligations.SpecialRegisterReads : Prop :=
  ∀ (s : State) (c : Issue) (g : Bool) (d n : BitVec 7) (j : Nat), s.cur = some c → n ≠ 0x10#7 →
    s.each c (fun f => f.may d.toNat && ((srdRows s f)[j]?.any fun r => decide (r.1 = n.toNat) && decide (r.2.1.rank ≤ f.pl.rank))) →
      exec (.srd g d n) s = .next (s.moved c fun f => (captured s f n.toNat).setV d.toNat (BitVec.ofNat 32 (((srdRows s f)[j]?.map fun r => r.2.2).getD 0)))

/-- R107 to R110: the words on k registers, once for the one group of the entry; KMOV to a k register takes the pair of the lowest lane. -/
def Obligations.GroupRegisterWords : Prop :=
  ∀ (s : State) (c : Issue) (g : Nat × Nat) (h : Bool) (o : BitVec 3) (i : BitVec 10) (kd ka : BitVec 5) (d a b : BitVec 7), s.OneGroup c g →
    (d.toNat < 32 → a.toNat < 32 → b.toNat < 32 →
      exec (.kalu o d a b) s = .next ((s.modGroup g.1 g.2 fun x => { x with kregs := x.kregs.set d.toNat (BitVec.ofNat 64 (kaluOf o (x.kregs.getD a.toNat 0).toNat (x.kregs.getD b.toNat 0).toNat)) }).groupOn c g)) ∧
    exec (.kaddi i kd ka) s = .next ((s.modGroup g.1 g.2 fun x => { x with kregs := x.kregs.set kd.toNat (BitVec.ofInt 64 ((x.kregs.getD ka.toNat 0).toInt + i.toInt)) }).groupOn c g) ∧
    (∀ f ∈ s.share c g, (∀ x ∈ s.share c g, x ≠ f → f.lane < x.lane) → f.mayPair a.toNat = true →
      exec (.kmovToK h kd a) s = .next ((s.modGroup g.1 g.2 fun x => { x with kregs := x.kregs.set kd.toNat (f.pair a.toNat) }).groupOn c g))

/-- R153 to R157, R249 to R251: a load or store of a scratchpad byte range. A .W load needs its granule FULL, a .W store EMPTY, and .SF sets it FULL; the store changes exactly its bytes. -/
def Obligations.ScratchpadLoadsAndStores : Prop :=
  ∀ (s : State) (c : Issue) (f : Fibre) (h : BitVec 2) (m : Bool) (d a o : BitVec 7) (wg off size : Nat), s.Sole c f →
    dataOk f d.toNat size = true → f.mayPair a.toNat = true → s.target f.wg (effAddr f a o size) = .pad wg off → effAddr f a o size % size = 0 →
    (∀ i, (i, size) ∈ loadRows h m d a o → (m = true → s.tagMeets wg (off / 1024) (s.fibreVid f) .full = true) →
      exec i s = .next ((if h = 3 then s.demote c else s).modFibre f.key fun x => (loaded x d.toNat (s.padRead wg off size)).advance c)) ∧
    (∀ i, (i, size) ∈ storeRows h m d a o →
      (m = true → s.tagMeets wg (off / 1024) (s.fibreVid f) .empty = true ∧ (s.wg wg).heldWe (off / 1024) = false) →
      (m = false → h = 3 → s.tagMeets wg (off / 1024) (s.fibreVid f) .free = true) →
      exec i s = .next ((if h = 3 then s.landFull wg off (storedBytes f d.toNat size) (s.fibreVid f) else s.padWrite wg off (storedBytes f d.toNat size)).goOn f c) ∧
      (h ≠ 3 → s.Canonical → ∀ t, exec i s = .next t →
        ((s.wg? wg).isSome = true → ∀ j < size, t.padRead wg (off + j) 1 = [storedByte f d.toNat j]) ∧
        (∀ w p, (w ≠ wg ∨ p < off ∨ off + size ≤ p) → t.padRead w p 1 = s.padRead w p 1) ∧
        t.mem = s.mem ∧ t.groups = s.groups))

/-- R152 to R154, R166, R260, R265, R271, R272, R275, R279, R286: a global load whose translation passes reads, byte for byte, what its core sees, and a poll the newest bytes; it changes no byte of memory. A load whose data comes later is queued (R166, R473). -/
def Obligations.GlobalLoads : Prop :=
  ∀ (s s1 : State) (c : Issue) (f : Fibre) (h : BitVec 2) (d a o : BitVec 7) (size pa lp : Nat) (v : VID) (leaf : BitVec 64) (bs : List Byte), s.Sole c f →
    dataOk f d.toNat size = true → f.mayPair a.toNat = true → effAddr f a o size < 0xFFFF00000000 → effAddr f a o size % size = 0 →
    let u := if h = 3 then s.demote c else s
    u.translate (u.who f) (BitVec.ofNat 48 (effAddr f a o size)) {} = (s1, .ok pa v lp leaf) →
    (regionOf pa).cached = true → s1.mayAsk f.core = true → Idle s1 f → Spacious s1 →
    ∀ i, (i, size) ∈ loadRows h false d a o →
      (s1.late = false → s1.mem.refetch.contains (pa / 1024) = false → (∀ e ∈ (s1.domain (vidDomain (s1.fibreVid f))).effects, e.fib ≠ f.key) → bs.length = size → reads s1 f h v pa bs →
        ∃ t, exec i s = .next t ∧ Looked s1 t ∧ t.groups = s1.groups ∧
          t.fibres = ((if h = 3 then s1.saw f.key pa size else s1).modFibre f.key fun x => (loaded x d.toNat bs).advance c).fibres) ∧
      (s1.late = true ∨ s1.mem.refetch.contains (pa / 1024) = true →
        exec i s = .next (({ s1 with ids := s1.ids + 1, mem := { s1.mem with loads := s1.mem.loads ++
          [{ n := s1.ids, fib := f.key, core := f.core, vid := v, va := BitVec.ofNat 48 (effAddr f a o size), pa := pa, size := size,
             dst := .lanes ((List.range ((size + 3) / 4)).map fun j => (f.wb.toNat + d.toNat + j) % f.alloc.toNat), hint := h.toNat, since := s1.clock }] } } : State).goOn f c))

/-- R153, R154, R168, R272, R273, R275, R280: a global store whose translation passes is unpublished data of its core: the core reads the new bytes, every other byte as before, and nothing has been published. A store left in flight is queued. -/
def Obligations.GlobalStores : Prop :=
  ∀ (s s1 : State) (c : Issue) (f : Fibre) (h : BitVec 2) (d a o : BitVec 7) (size pa lp : Nat) (v : VID) (leaf : BitVec 64), s.Sole c f → h ≠ 3 →
    dataOk f d.toNat size = true → f.mayPair a.toNat = true → effAddr f a o size < 0xFFFF00000000 → effAddr f a o size % size = 0 →
    s.translate (s.who f) (BitVec.ofNat 48 (effAddr f a o size)) { write := true, read := false } = (s1, .ok pa v lp leaf) →
    Open s1 f pa → s1.buffered v pa = false → s1.noRoom v f.core pa = false →
    ∀ i, (i, size) ∈ storeRows h false d a o →
      (s1.late = false → exec i s = .next ((s1.landStore f.core v (effAddr f a o size) pa (storedBytes f d.toNat size) h.toNat).goOn f c)) ∧
      (s1.late = false → s1.Canonical → Spacious s1 → f.core < s1.cores.length → (s1.isRoot v = true ∨ (s1.chain 64 v).head? = some v) → ∀ t, exec i s = .next t →
        (∀ j < size, t.coreByte f.core v f.seen (pa + j) = some (storedByte f d.toNat j)) ∧
        (∀ p, (p < pa ∨ pa + size ≤ p) → t.coreByte f.core v f.seen p = s1.coreByte f.core v f.seen p) ∧
        (∀ p, t.newestByte p = s1.newestByte p) ∧ t.mem.dram = s1.mem.dram ∧ t.mem.stamp = s1.mem.stamp ∧ t.groups = s1.groups) ∧
      (s1.late = true →
        exec i s = .next (({ s1 with ids := s1.ids + 1, mem := { s1.mem with stores := s1.mem.stores ++
          [{ n := s1.ids, fib := f.key, core := f.core, vid := v, va := BitVec.ofNat 48 (effAddr f a o size), pa := pa,
             data := storedBytes f d.toNat size, hint := h.toNat, since := s1.clock }] } } : State).goOn f c))

/-- R116, R119, R120, R148, R159: WBASE, the words that only pass time, and SRD FPSTAT when no flag is on its way. -/
def Obligations.WindowBaseAndPassingTime : Prop :=
  ∀ (s : State) (c : Issue) (g h : Bool) (i : BitVec 17) (u : BitVec 2) (d a o : BitVec 7), s.cur = some c →
    exec .nop s = .next (s.moved c id) ∧
    exec .yield s = .next ((s.demote c).moved c id) ∧
    exec (.pfetch u a o) s = .next (s.moved c id) ∧
    exec (.sleep i) s = .next (s.moved c fun f => { f with notBefore := s.clock + i.toNat }) ∧
    (s.each c (fun f => f.may a.toNat && decide ((f.v a.toNat).toNat % 8 = 0) && decide ((f.v a.toNat).toNat < f.alloc.toNat)) →
      exec (.wbase h false a) s = .next (s.moved c fun f => { f with wb := BitVec.ofNat 10 (f.v a.toNat).toNat })) ∧
    (s.each c (fun f => f.may a.toNat && decide (((f.wb.toNat : Int) + (f.v a.toNat).toInt) % f.alloc.toNat % 8 = 0) && decide (0 < f.alloc.toNat)) →
      exec (.wbase h true a) s = .next (s.moved c fun f => { f with wb := BitVec.ofInt 10 (((f.wb.toNat : Int) + (f.v a.toNat).toInt) % f.alloc.toNat) })) ∧
    ((∀ x ∈ s.groups, x.flying = []) → s.each c (fun f => f.may d.toNat) →
      exec (.srd g d 0x10) s = .next (s.moved c fun f => f.setV d.toNat (BitVec.ofNat 32 (s.group f.wg f.grp).fpstat.toNat)))

/-- R18, R20, R116, R122, R147: SWR sets the register that it names and nothing else; PWORD bit 15 stays 1, RSTKLO's low five bits 0; a write of FPSTAT drops the flags raised in earlier clocks. -/
def Obligations.SpecialRegisterWrites : Prop :=
  ∀ (s : State) (c : Issue) (f : Fibre) (h g : Bool) (a n : BitVec 7), s.Sole c f → f.may a.toNat = true →
    (∀ r ∈ swrRows f (f.v a.toNat), r.1 = n.toNat → r.2.1.rank ≤ f.pl.rank → exec (.swr h g a n) s = .next ((s.modFibre f.key fun _ => r.2.2).goOn f c)) ∧
    (Level.h.rank ≤ f.pl.rank → (f.v a.toNat).toNat % 1024 % 8 = 0 → (f.v a.toNat).toNat % 1024 < f.alloc.toNat →
      exec (.swr h g a 0x0B) s = .next ((s.modFibre f.key fun x => { x with wb := BitVec.ofNat 10 ((f.v a.toNat).toNat % 1024) }).goOn f c)) ∧
    exec (.swr h g a 0x10) s = .next ((s.modGroup f.wg f.grp fun x =>
      { x with fpstat := BitVec.ofNat 5 (f.v a.toNat).toNat, flying := x.flying.filter fun y => decide (s.clock ≤ y.due) }).goOn f c)

/-- R107, R111: KLD and KST make one access of eight bytes for the group, at its own k registers. -/
def Obligations.GroupLoadsAndStores : Prop :=
  ∀ (s : State) (c : Issue) (g : Nat × Nat) (f : Fibre) (h : BitVec 2) (d a o : BitVec 7), s.OneGroup c g → lowest s c g f → d.toNat < 32 → a.toNat < 32 →
    kEff s g a o % 8 = 0 → s.late = false → (∀ x ∈ s.share c g, Idle s x) →
    (∀ wg off, s.target f.wg (kEff s g a o) = .pad wg off →
      exec (.kld h d a o) s = .next ((s.modGroup g.1 g.2 fun x => { x with kregs := x.kregs.set d.toNat (BitVec.ofNat 64 (leVal (s.padRead wg off 8))) }).groupOn c g) ∧
      ((h = 3 → s.tagMeets wg (off / 1024) (s.fibreVid f) .free = true) →
        exec (.kst h d a o) s = .next ((if h = 3 then s.landFull wg off (bytesOf 8 (kOf s g d.toNat).toNat) (s.fibreVid f) else s.padWrite wg off (bytesOf 8 (kOf s g d.toNat).toNat)).groupOn c g))) ∧
    (∀ (s1 : State) (pa lp : Nat) (v : VID) (leaf : BitVec 64) (bs : List Byte), kEff s g a o < 0xFFFF00000000 →
      s.translate (s.who f) (BitVec.ofNat 48 (kEff s g a o)) {} = (s1, .ok pa v lp leaf) → Open s1 f pa → Spacious s1 →
      (∀ e ∈ (s1.domain (vidDomain (s1.fibreVid f))).effects, e.fib ≠ f.key) → bs.length = 8 → reads s1 f h v pa bs →
      ∃ t, exec (.kld h d a o) s = .next t ∧ Looked s1 t ∧ t.fibres = ((if h = 3 then s1.saw f.key pa 8 else s1).groupOn c g).fibres ∧
        t.groups = (s1.modGroup g.1 g.2 fun x => { x with kregs := x.kregs.set d.toNat (BitVec.ofNat 64 (leVal bs)) }).groups) ∧
    (∀ (s1 : State) (pa lp : Nat) (v : VID) (leaf : BitVec 64), kEff s g a o < 0xFFFF00000000 → h ≠ 3 →
      s.translate (s.who f) (BitVec.ofNat 48 (kEff s g a o)) { write := true, read := false } = (s1, .ok pa v lp leaf) → Open s1 f pa →
      s1.buffered v pa = false → s1.noRoom v f.core pa = false →
      exec (.kst h d a o) s = .next ((s1.landStore f.core v (kEff s g a o) pa (bytesOf 8 (kOf s g d.toNat).toNat) h.toNat).groupOn c g))

/-- R161 to R164, R287, R291: an atomic on a scratchpad word, between its release and its acquire side, gives d the old value and leaves in the word what its operation says; with no observer it changes no other byte. -/
def Obligations.ScratchpadAtomics : Prop :=
  ∀ (s s1 : State) (c : Issue) (f : Fibre) (k : BitVec 3) (d : BitVec 7) (a : BitVec 6) (w : Bool) (b : BitVec 7) (wg off : Nat), s.Sole c f → s.Settled f →
    s.target f.wg ((f.pair (2 * a.toNat)).toNat % 2 ^ 48) = .pad wg off → (f.pair (2 * a.toNat)).toNat % 2 ^ 48 % (if w then 8 else 4) = 0 →
    ∀ r ∈ atomicRows k d a w b, atomicOk f d a w b r.2 = true → before s f r.2.1 ((s.launch f.wg).syncClass k) s1 →
      let sc := (s.launch f.wg).syncClass k
      let n := if w then 8 else 4
      let old := leVal (s1.padRead wg off n)
      let new := atomicLeaves r.2.1 (8 * n) old (atomicArg f b.toNat w) (atomicArg f d.toNat w)
      exec r.1 s = .next ((afterwards ((match new with
          | none => if r.2.1 = AtomicOp.cas then s1.demote c else s1
          | some x => (s1.padWrite wg off (bytesOf n x)).postPad f wg off w (isRelease r.2.1 sc) (sc.setWidth 5) (BitVec.ofNat 64 x)).modFibre f.key fun y => withOld y r.2.2.1 d.toNat w old) f r.2.1 sc).goOn f c) ∧
      (sc.setWidth 5 = 0#5 → s.Canonical → (s.wg? wg).isSome = true → ∀ t, exec r.1 s = .next t →
        (∀ x, new = some x → leVal (t.padRead wg off n) = x) ∧
        (∀ q p, (q ≠ wg ∨ p < off ∨ off + n ≤ p ∨ new = none) → t.padRead q p 1 = s.padRead q p 1) ∧ t.mem = s.mem ∧ t.groups = s.groups)

/-- R161 to R164, R287, R291: an atomic on a word of a cached page, performed at its home. For a root that has no unpublished bytes of it there, with no observer, the word's newest committed value becomes what the operation says and no other byte changes. -/
def Obligations.GlobalAtomics : Prop :=
  ∀ (s s1 s2 : State) (c : Issue) (f : Fibre) (k : BitVec 3) (d : BitVec 7) (a : BitVec 6) (w : Bool) (b : BitVec 7) (pa lp : Nat) (v : VID) (leaf : BitVec 64), s.Sole c f → s.Settled f →
    (f.pair (2 * a.toNat)).toNat % 2 ^ 48 < 0xFFFF00000000 → (f.pair (2 * a.toNat)).toNat % 2 ^ 48 % (if w then 8 else 4) = 0 →
    ∀ r ∈ atomicRows k d a w b, atomicOk f d a w b r.2 = true →
      s.translate (s.who f) (BitVec.ofNat 48 (f.pair (2 * a.toNat)).toNat) { read := decide (r.2.1 ≠ .st), write := decide (r.2.1 ≠ .ld) } = (s1, .ok pa v lp leaf) →
      Open s1 f pa → s1.buffered v pa = false → s1.noRoom v f.core pa = false → before s1 f r.2.1 ((s.launch f.wg).syncClass k) s2 →
      let sc := (s.launch f.wg).syncClass k
      let n := if w then 8 else 4
      let rel := isRelease r.2.1 sc
      let B := atomicArg f b.toNat w
      let E := atomicArg f d.toNat w
      let x := s2.atomicAt f.core v pa r.2.1 w (rel && boundaryObs (sc.setWidth 5)) (if r.2.2.2 then BitVec.ofNat 64 B else 0) (if r.2.2.1 then BitVec.ofNat 64 E else 0) (rel && sc.getLsbD 4)
      let u := (x.1.saw f.key pa n).modFibre f.key fun y => withOld y r.2.2.1 d.toNat w x.2.1.toNat
      (∃ t, exec r.1 s = .next t ∧ t = (afterwards (if x.2.2 then u.demote c else match atomicLeaves r.2.1 (8 * n) x.2.1.toNat B E with
          | none => u
          | some new => u.postColl f.wg (BitVec.ofNat 48 (f.pair (2 * a.toNat)).toNat) w rel (sc.setWidth 5) (BitVec.ofNat 64 new)) f r.2.1 sc).goOn f c) ∧
      (sc.setWidth 5 = 0#5 → s1.Canonical → s1.isRoot v = true → Roomy s1 → Spacious s1 → (∀ j < n, s1.nearByte f.core v (pa + j) = none) →
        ∀ t, exec r.1 s = .next t →
          let old := leVal ((List.range n).map fun j => s1.newestByte (pa + j))
          let new := atomicLeaves r.2.1 (8 * n) old B E
          (∃ y ∈ t.fibres, y.key = f.key ∧ ∀ m < 128, y.v m = (withOld f r.2.2.1 d.toNat w old).v m) ∧
          (∀ z, new = some z → leVal ((List.range n).map fun j => t.newestByte (pa + j)) = z) ∧
          (∀ p, (p < pa ∨ pa + n ≤ p ∨ new = none) → t.newestByte p = s1.newestByte p))

/-- R281, R282, R292 to R295, R299, R300, R360: FENCE and PHASE publish, wait until the engines that the before set names have done what was issued before, and go on, with a snapshot where the after set has L; WAIT goes on when its counts are met, and else stays where it is. -/
def Obligations.FencesAndWaits : Prop :=
  (∀ (s : State) (c : Issue) (f : Fibre) (b a : BitVec 4), s.Sole c f → (∀ p ∈ s.mem.posts, p.fib ≠ f.key) →
     ((∀ o i x, f.wait.map Wait.why ≠ some (.fence o i x)) →
       (enginesBusy s f.wg b s.order s.ids = false → exec (.fence b a) s = .next ((fenced s f b a).goOn f c)) ∧
       (enginesBusy s f.wg 15 s.order s.ids = false → exec .phase s = .next ((fenced s f 15 15).goOn f c)) ∧
       (enginesBusy s f.wg b s.order s.ids = true → ∃ t, exec (.fence b a) s = .next t ∧ StaysAt (if b.getLsbD 0 then fenced s f b (a &&& 14) else s) f (.fence s.order s.ids a) t)) ∧
     (∀ o i x, f.wait.map Wait.why = some (.fence o i x) →
       (enginesBusy s f.wg b o i = false → exec (.fence b a) s = .next ((fenced s f 0 a).goOn f c)) ∧
       (enginesBusy s f.wg b o i = true → ∃ t, exec (.fence b a) s = .next t ∧ StaysAt s f (.fence o i a) t))) ∧
  (∀ (s : State) (c : Issue) (f : Fibre) (l st k : BitVec 4) (m : BitVec 8), s.Sole c f →
     ((m = 0 ∨ ∀ p ∈ s.mem.posts, p.fib ≠ f.key) → s.dueFault f (decide (k ≠ 15)) m = none →
       (waitMet s f l st k m → exec (.wait l st k m) s = .next (s.goOn f c)) ∧
       (¬ waitMet s f l st k m → ∃ t, exec (.wait l st k m) s = .next t ∧ StaysAt s f (.counts (decide (k ≠ 15)) m) t)) ∧
     ((∃ p ∈ s.mem.posts, p.fib = f.key) → m ≠ 0 → ∃ t, exec (.wait l st k m) s = .next t ∧ StaysAt s f (.counts (decide (k ≠ 15)) m) t))

/-- R277, R281, R282, R295: what a core has stored for its root is the newest committed data after a PHASE, and every other byte is as before; the core then reads at a snapshot of that moment. -/
def Obligations.PhasePublishesWhatTheCoreStored : Prop :=
  ∀ (s t : State) (c : Issue) (f : Fibre) (v : VID), s.Sole c f → s.Settled f → s.Canonical → f.wait = none → f.core < s.cores.length →
    enginesBusy s f.wg 15 s.order s.ids = false → Roomy s → RoomToPublish s f.core → s.isRoot v = true →
    exec .phase s = .next t →
      (∀ p, t.newestByte p = (s.nearByte f.core v p).getD (s.newestByte p)) ∧ (∀ p, t.nearByte f.core v p = none) ∧
      (t.core f.core).sigma = t.mem.complete ∧ t.mem.dram = s.mem.dram

/-- R249, R301, R302: TAG SETF, SETE and POISON set the granules that they name, CONS empties granules that are all FULL and waits for them, GET reads one; no other granule changes. -/
def Obligations.TagWords : Prop :=
  ∀ (s : State) (c : Issue) (f : Fibre) (d a n : BitVec 7) (wg off : Nat) (i : Instr) (k : Tag), s.Sole c f → f.mayPair a.toNat = true →
    s.target f.wg (pairVa f a.toNat) = .pad wg off → (s.wg? wg).isSome = true →
    (∃ u o, s.target f.wg (pairVa f a.toNat + 1024 * n.toNat) = .pad u o) →
    ((i, k) ∈ [(Instr.tagSetf a n, Tag.full), (.tagSete a n, .empty), (.tagPoison a n, .poisoned)] → (∀ j ≤ n.toNat, (s.wg wg).tag (off / 1024 + j) ≠ .predicted) →
      ∃ t, exec i s = .next t ∧ (∀ g, (t.wg wg).tag g = if off / 1024 ≤ g ∧ g ≤ off / 1024 + n.toNat then k else (s.wg wg).tag g) ∧
        t.fibres = (s.goOn f c).fibres ∧ (∀ w, w ≠ wg → t.wg w = s.wg w) ∧ { t with fibres := s.fibres, wgs := s.wgs } = s) ∧
    ((∀ j ≤ n.toNat, (s.wg wg).tag (off / 1024 + j) = .full) →
      ∃ t, exec (.tagCons a n) s = .next t ∧ (∀ g, (t.wg wg).tag g = if off / 1024 ≤ g ∧ g ≤ off / 1024 + n.toNat then .empty else (s.wg wg).tag g) ∧
        t.fibres = (s.goOn f c).fibres ∧ (∀ w, w ≠ wg → t.wg w = s.wg w) ∧ { t with fibres := s.fibres, wgs := s.wgs } = s) ∧
    ((∃ j ≤ n.toNat, (s.wg wg).tag (off / 1024 + j) = .empty) → (∀ j ≤ n.toNat, (s.wg wg).tag (off / 1024 + j) ≠ .poisoned) →
      ∃ t, exec (.tagCons a n) s = .next t ∧
        StaysAt s f (.cons ((List.range (n.toNat + 1)).map fun j => (wg, off / 1024 + j, pairVa f a.toNat - off % 1024 + 1024 * j)) (nextOf c f).1 (nextOf c f).2) t) ∧
    (f.may d.toNat = true →
      exec (.tagGet d a) s = .next ((s.modFibre f.key fun x => x.setV d.toNat (match (s.wg wg).tag (off / 1024) with | .empty => 0 | .full => 1 | .predicted => 2 | .poisoned => 3)).goOn f c))

/-- R281, R282, R303 to R306: the last arrival at a GBAR word completes it and releases the waiters; an earlier one raises the count and waits; a waiter that was released goes on with what it read. At a scratchpad word: its new value, d, the waiters, and no other byte of a scratchpad. -/
def Obligations.BarrierArrivals : Prop :=
  ∀ (s : State) (c : Issue) (f : Fibre) (k : BitVec 3) (d : BitVec 7) (a : BitVec 6) (b : BitVec 7), s.Sole c f → f.may d.toNat = true → f.may b.toNat = true → f.mayPair (2 * a.toNat) = true →
    let va := pairVa f (2 * a.toNat)
    let n := (f.v b.toNat).toNat % 65536
    let obs := ((s.launch f.wg).syncClass k).setWidth 5
    (∀ (s1 s2 : State) (p : GbarWord), f.gbar = none → n ≠ 0 → va % 4 = 0 → s.gbarPlace f (BitVec.ofNat 48 va) = (s1, .ok p) → s1.releaseSide f obs = (s2, none) →
      let r := (if boundaryObs obs then s2 else s2.publishCore f.core).gbarRead f.core p
      (n ≤ r.2 % 65536 + 1 →
        exec (.gbar k d a b) s = .next ((((r.1.gbarWrite p (boundaryObs obs) ((r.2 / 65536 + 1) % 65536 * 65536)).gbarRelease p).gbarEnd f d obs (BitVec.ofNat 32 (2 ^ 30 + r.2 % 65536))).goOn f c)) ∧
      (r.2 % 65536 + 1 < n → ∃ t, exec (.gbar k d a b) s = .next t ∧
        StaysAt ((r.1.gbarWrite p (boundaryObs obs) (r.2 + 1)).modFibre f.key fun x =>
          { x with gbar := some { va := BitVec.ofNat 48 va, place := p.place, vid := p.vid, leaf := p.leaf, gen := BitVec.ofNat 16 (r.2 / 65536), old := BitVec.ofNat 16 (r.2 % 65536) } }) f .gbar t)) ∧
    (∀ wg off, f.gbar = none → n ≠ 0 → va % 4 = 0 → s.Settled f → s.Canonical → (s.wg? wg).isSome = true → s.target f.wg va = .pad wg off → (∀ q ∈ s.mem.peers, q.fib ≠ f.key) → f.core < s.cores.length →
      let x := leVal (s.padRead wg off 4)
      (n ≤ x % 65536 + 1 → ∃ t, exec (.gbar k d a b) s = .next t ∧ leVal (t.padRead wg off 4) = (x / 65536 + 1) % 65536 * 65536 ∧
        (∀ q p, (q ≠ wg ∨ p < off ∨ off + 4 ≤ p) → t.padRead q p 1 = s.padRead q p 1) ∧ t.groups = s.groups ∧ (t.core f.core).sigma = t.mem.complete ∧
        (∃ y ∈ t.fibres, y.key = f.key ∧ y.regs = (f.setV d.toNat (BitVec.ofNat 32 (2 ^ 30 + x % 65536))).regs ∧ y.pc = (nextOf c f).1 ∧ y.run = .live ∧ y.wait = none ∧ y.gbar = none) ∧
        ∀ y ∈ s.fibres, ∀ w, y.gbar = some w → w.place = .pad wg off → w.vid = 0 → w.done = false → w.away = false → ∃ z ∈ t.fibres, z.key = y.key ∧ z.gbar = some { w with done := true }) ∧
      (x % 65536 + 1 < n → ∃ t, exec (.gbar k d a b) s = .next t ∧ leVal (t.padRead wg off 4) = x + 1 ∧
        (∀ q p, (q ≠ wg ∨ p < off ∨ off + 4 ≤ p) → t.padRead q p 1 = s.padRead q p 1) ∧ t.groups = s.groups ∧
        ∃ y ∈ t.fibres, y.key = f.key ∧ y.regs = f.regs ∧ y.pc = f.pc ∧ y.run = .live ∧ y.wait.map Wait.why = some .gbar ∧
          y.gbar = some { va := BitVec.ofNat 48 va, place := .pad wg off, gen := BitVec.ofNat 16 (x / 65536), old := BitVec.ofNat 16 (x % 65536) })) ∧
    (∀ w, f.gbar = some w → w.va = BitVec.ofNat 48 va → w.done = true →
      exec (.gbar k d a b) s = .next ((s.gbarEnd f d obs (if w.clob then BitVec.ofNat 32 (2 ^ 31 + w.old.toNat) else BitVec.ofNat 32 w.old.toNat)).goOn f c))

/-- R211 to R214, R234, R320, R328, R342: the clasp words and the matrix words that sign: a release toggles the generation, clears the signs and issues the command that was signed with; ARRIVE and WAIT stay until then; DECL sets the count, or makes the clasp live, and checks it. -/
def Obligations.ClaspWords : Prop :=
  (∀ (s : State) (c : Issue) (f : Fibre) (i : BitVec 4), s.Sole c f → f.wait.map Wait.why ≠ some .clasp →
     let u := signedBy s f i
     (((s.wg f.wg).clasps.getD i.toNat {}).matrix = none →
       exec (.claspSign i) s = .next ((if releases u f.wg i then releasedIn u f.wg i else u).goOn f c) ∧
       (releases u f.wg i = true → exec (.claspArrive i) s = .next ((releasedIn u f.wg i).goOn f c)) ∧
       (releases u f.wg i = false → ∃ t, exec (.claspArrive i) s = .next t ∧ StaysAt u f .clasp t)) ∧
     (f.signed.getLsbD i.toNat = false → exec (.claspWait i) s = .next (s.goOn f c)) ∧
     (f.signed.getLsbD i.toNat = true → ∃ t, exec (.claspWait i) s = .next t ∧ StaysAt s f .clasp t) ∧
     (∀ (x : Instr) (shape : Option (Nat × Nat)) (m : BitVec 2) (n : BitVec 6) (sl : BitVec 3) (e : BitVec 2) (k : BitVec 5), (s.wg? f.wg).isSome = true → i.toNat < (s.wg f.wg).clasps.length →
       (x, shape) ∈ [(Instr.mma m n sl i e k, some (64 * 2 ^ m.toNat, 16 * (n.toNat + 1))), (.mmc sl i e k, none)] →
       let word : MSign := { grp := f.grp, shape := shape, slot := sl, mode := e, kd := k, pc := f.pc }
       (releases u f.wg i = false →
         exec x s = .next ((u.modWg f.wg fun w => { w with clasps := w.clasps.modify i.toNat fun y => { y with matrix := some word } }).goOn f c)) ∧
       (∀ t, releases u f.wg i = true → (releasedIn u f.wg i).issueMatrix f.wg word ((u.wg f.wg).clasps.getD i.toNat {}).signers = some t → exec x s = .next (t.goOn f c)))) ∧
  (∀ (s : State) (c : Issue) (g : Nat × Nat) (n : BitVec 14) (i : BitVec 4), s.OneGroup c g → ((s.wg g.1).clasps.getD i.toNat {}).matrix = none →
     let u := s.modWg g.1 fun w => { w with clasps := w.clasps.modify i.toNat fun x => if n = 0 then { x with live := true } else { x with live := false, n := n.toNat } }
     exec (.claspDecl n i) s = .next ((if releases u g.1 i then releasedIn u g.1 i else u).groupOn c g))

/-- R37, R112, R113, R200: BRA and BRX send each live fibre of the entry to its own target, from the word that holds the parcel; a fibre that does not take BRA goes on. -/
def Obligations.Branches : Prop :=
  ∀ (s : State) (c : Issue) (sense h g : Bool) (p : BitVec 4) (o : BitVec 19) (a : BitVec 7), s.cur = some c →
    (∃ t, exec (.bra sense p o) s = .next t ∧
      Went s c (fun f => { f with pc := if pred f p = sense then (nextOf c f).1 else vaNat (wordOf f + 4 * o.toInt) }) t) ∧
    (s.each c (fun f => decide (f.run ≠ .live) || (f.mayPair a.toNat && decide ((f.pair a.toNat).toNat % 2 = 0))) →
      ∃ t, exec (.brx h g a) s = .next t ∧ Went s c (fun f => { f with pc := BitVec.ofNat 48 (f.pair a.toNat).toNat }) t)

/-- R22 to R26, R114, R115: CALL and CALLI slide the window and leave the link, RET slides it back; without a spill or a fill nothing else is different. -/
def Obligations.CallsAndReturns : Prop :=
  ∀ (s : State) (c : Issue) (f : Fibre) (k : BitVec 4) (o : BitVec 20) (a : BitVec 7), s.Sole c f → 128 ≤ f.alloc.toNat →
    (f.outer + 8 * k.toNat + 128 ≤ f.alloc.toNat →
      (∃ t, exec (.call k o) s = .next t ∧ (s.become f (called f c k (vaNat (wordOf f + 4 * o.toInt)))).Reseated t) ∧
      (f.mayPair a.toNat = true → (f.pair a.toNat).toNat % 2 = 0 →
        ∃ t, exec (.calli k a) s = .next t ∧ (s.become f (called f c k (BitVec.ofNat 48 (f.pair a.toNat).toNat))).Reseated t)) ∧
    (linkSlide f ≠ 0 → linkSlide f ≤ f.outer → linkPc f % 2 = 0 →
      ∃ t, exec .ret s = .next t ∧ (s.become f (returnedAs f f (f.outer - linkSlide f) f.rstk f.regs)).Reseated t)

/-- R24, R25: a call that needs room spills blocks of eight registers to the register stack, a return that needs them fills them, and each goes on from where that leaves the fibre. For one block at a scratchpad address: the bytes that the spill stores, and the registers that the fill brings back. -/
def Obligations.SpillsAndFills : Prop :=
  ∀ (s : State) (c : Issue) (f : Fibre) (k : BitVec 4) (o : BitVec 20) (a : BitVec 7), s.Sole c f → 128 ≤ f.alloc.toNat →
    (∀ (u : State) (x : Fibre), s.spill 16 { f with wb := BitVec.ofNat 10 ((f.wb.toNat + 8 * k.toNat) % f.alloc.toNat), outer := f.outer + 8 * k.toNat } (nextOf c f) = (.done u, x) →
      (∃ t, exec (.call k o) s = .next t ∧ (u.modFibre f.key fun y => calledAs y f c k (vaNat (wordOf f + 4 * o.toInt)) x.outer x.rstk).Reseated t) ∧
      (f.mayPair a.toNat = true → (f.pair a.toNat).toNat % 2 = 0 →
        ∃ t, exec (.calli k a) s = .next t ∧ (u.modFibre f.key fun y => calledAs y f c k (BitVec.ofNat 48 (f.pair a.toNat).toNat) x.outer x.rstk).Reseated t)) ∧
    (∀ (u : State) (x : Fibre) (bs : List Byte), linkSlide f ≠ 0 → linkPc f % 2 = 0 →
      s.fillBack 16 { f with wb := BitVec.ofInt 10 (((f.wb.toNat : Int) - linkSlide f) % f.alloc.toNat) } ((f.outer : Int) - linkSlide f) = (u, .bytes bs, x) →
      ∃ t, exec .ret s = .next t ∧ (u.modFibre f.key fun y => returnedAs y f x.outer x.rstk x.regs).Reseated t) ∧
    (∀ wg off, f.alloc.toNat < f.outer + 8 * k.toNat + 128 → f.outer + 8 * k.toNat + 120 ≤ f.alloc.toNat → f.rstk.toNat % 4 = 0 →
      (∀ j < 8, s.target f.wg ((f.rstk.toNat + 4 * j) % 2 ^ 48) = .pad wg (off + 4 * j)) →
      let stored := fun (j : Nat) => f.regs.getD ((spillBlock f + j) % f.alloc.toNat) 0
      let u := (List.range 8).foldl (fun (t : State) j => t.padWrite wg (off + 4 * j) (bytesOf 4 (stored j).toNat)) s
      (∃ t, exec (.call k o) s = .next t ∧ (u.modFibre f.key fun y => calledAs y f c k (vaNat (wordOf f + 4 * o.toInt)) (f.outer + 8 * k.toNat - 8) (f.rstk + 32)).Reseated t) ∧
      (s.Canonical → (s.wg? wg).isSome = true → (∀ j < 8, leVal (u.padRead wg (off + 4 * j) 4) = (stored j).toNat) ∧
        (∀ q p, (q ≠ wg ∨ p < off ∨ off + 32 ≤ p) → u.padRead q p 1 = s.padRead q p 1) ∧ u.mem = s.mem ∧ u.groups = s.groups)) ∧
    (∀ wg off, linkSlide f ≠ 0 → f.outer < linkSlide f → linkSlide f ≤ f.outer + 8 → linkPc f % 2 = 0 → s.target f.wg ((f.rstk.toNat + 2 ^ 48 - 32) % 2 ^ 48) = .pad wg off →
      ∃ t, exec .ret s = .next t ∧
        (s.become f (returnedAs f f (f.outer + 8 - linkSlide f) (f.rstk - 32)
          ((List.range 8).foldl (fun r j => r.set ((fillBlock f + j) % f.alloc.toNat) (BitVec.ofNat 32 (leVal (s.padRead wg (off + 4 * j) 4)))) f.regs))).Reseated t)

/-- R54 to R57: REP begins the repeat of the word after it; in a repeat each iteration lowers the count, and the last one goes on to the word after. -/
def Obligations.Repeats : Prop :=
  (∀ (s s1 : State) (c : Issue) (f : Fibre) (k : BitVec 6) (x y z : BitVec 3) (w : Word), s.Sole c f → c.form = .full → f.pl ≠ .h → s.fetchAt f f.pl (f.pc + 4) = (s1, .ok w) → repMajor w = true →
     ∃ t, exec (.rep k x y z) s = .next t ∧
       (s1.modFibre f.key fun r => { r with rep := BitVec.ofNat 32 (k.toNat * 2 ^ 18 + x.toNat * 2 ^ 15 + y.toNat * 2 ^ 12 + z.toNat * 2 ^ 9 + (k.toNat + 1)), pc := f.pc + 4, wait := none }).Reseated t) ∧
  (∀ (c : Issue) (f : Fibre), c.repeating = true → f.rep.toNat % 128 ≠ 0 →
     (f.advance c).rep.toNat = f.rep.toNat - 1 ∧ (f.advance c).pc = (if f.rep.toNat % 128 = 1 then f.pc + 4 else f.pc))

/-- R118, R204, R219: FEND ends the fibre with its loads in flight; a fibre of another key lives on. -/
def Obligations.FibreEnds : Prop :=
  ∀ (s : State) (c : Issue) (f : Fibre), s.Sole c f → f.pl = .u → s.dueFault f true 255 = none →
    ∃ t, exec .fend s = .next t ∧ (∀ g ∈ t.fibres, g.key = f.key → g.run ≠ .live) ∧ (∀ l ∈ t.mem.loads, l.fib ≠ f.key) ∧
      (∀ g ∈ s.fibres, g.run = .live → g.key ≠ f.key → ∃ h ∈ t.fibres, h.key = g.key ∧ h.run = .live ∧ h.regs = g.regs ∧ h.pc = g.pc)

/-- R121, R429, R430, R434 to R436: TRAP, BRK and a word that is no instruction take the fibre into its handler at level H, at TRAPH, with its record saved; at level H, or without a handler, they end the fibre. -/
def Obligations.TrapsEnterTheHandler : Prop :=
  (∀ (s : State) (c : Issue) (f : Fibre) (k : BitVec 8), s.Sole c f → MayTrap s f → ∀ r ∈ trapRows k,
     ∃ t, exec r.1 s = .next t ∧ Enters s f r.2.1 0 r.2.2 t ∧
       (s.Canonical → Roomy s → (∀ j < 128, t.newestByte (s.tsave + 128 * f.slot + j) = (recordBytes f).getD j 0) ∧
         ∀ p, (p < s.tsave + 128 * f.slot ∨ s.tsave + 128 * f.slot + 128 ≤ p) → t.newestByte p = s.newestByte p)) ∧
  (∀ (s : State) (c : Issue) (f : Fibre) (k : BitVec 8), s.Sole c f → (f.pl = .h ∨ (f.pl = .u ∧ (s.launch f.wg).traph = 0)) → ∀ r ∈ trapRows k,
     ∃ t, exec r.1 s = .next t ∧ ∀ g ∈ t.fibres, g.key = f.key → g.run ≠ .live)

/-- R19, R32, R150, R153, R156, R428 to R430: a register that may not be named, and .SF at an address that is in no scratchpad, take ILLEGAL_OPERAND, an access that is not aligned MISALIGNED with its address, and a word or register of a higher level PRIVILEGE. -/
def Obligations.DefectsEnterTheHandler : Prop :=
  ∀ (s : State) (c : Issue) (f : Fibre) (h g m : Bool) (d a b : BitVec 7), s.Sole c f → MayTrap s f →
    ((f.may d.toNat && f.may a.toNat && f.may b.toNat) = false → ∀ r ∈ intRows h g m d a b, ∃ t, exec r.1 s = .next t ∧ Enters s f 2 0 0 t) ∧
    ((f.mayPair d.toNat && f.mayPair a.toNat && f.mayPair b.toNat) = false → ∀ r ∈ pairRows h g m d a b, ∃ t, exec r.1 s = .next t ∧ Enters s f 2 0 0 t) ∧
    (0x1F ≤ b.toNat → ∃ t, exec (.srd g d b) s = .next t ∧ Enters s f 2 0 0 t) ∧
    ((0x14 ≤ b.toNat ∧ b.toNat ≤ 0x1A) ∨ b.toNat = 0x1E → ∃ t, exec (.srd g d b) s = .next t ∧ Enters s f 4 0 0 t) ∧
    (b.toNat = 0x0B ∨ (0x11 ≤ b.toNat ∧ b.toNat ≤ 0x1A) → ∃ t, exec (.swr h g a b) s = .next t ∧ Enters s f 4 0 0 t) ∧
    (∃ t, exec (.tlbi a) s = .next t ∧ Enters s f 4 0 0 t) ∧ (∃ t, exec .tlbiAll s = .next t ∧ Enters s f 4 0 0 t) ∧
    (∃ t, exec .rettResume s = .next t ∧ Enters s f 4 0 0 t) ∧
    (∀ q, dataOk f d.toNat q.2 = true → f.mayPair a.toNat = true → effAddr f a b q.2 < 0xFFFF00000000 → effAddr f a b q.2 % q.2 ≠ 0 →
      (q ∈ loadRows 0 false d a b → ∃ t, exec q.1 s = .next t ∧ Enters s f 3 (effAddr f a b q.2) 0 t) ∧
      (q ∈ storeRows 0 false d a b → ∃ t, exec q.1 s = .next t ∧ Enters s f 3 (effAddr f a b q.2) (2 ^ 12) t)) ∧
    (∀ q ∈ storeRows 3 false d a b, dataOk f d.toNat q.2 = true → f.mayPair a.toNat = true → effAddr f a b q.2 < 0xFFFF00000000 → ∃ t, exec q.1 s = .next t ∧ Enters s f 2 0 (2 ^ 12) t)

/-- R438 to R440: the returns from a handler, after a publishing boundary: registers and PWORD come back from the record, PL becomes U, and the pc is what RESUME or SKIP says. A task action takes the task from its group: RETRY and SKIP put it back, KILL frees it, and the fibre returns with its effects suppressed. -/
def Obligations.ReturnsFromTheHandler : Prop :=
  (∀ (s : State) (c : Issue) (f : Fibre), s.Sole c f → f.pl = .h → s.Settled f → f.gbar = none → trapPcOf f % 2 = 0 → f.wait = none →
     let u := s.publishCore f.core
     let x := restored f (u.physRead (u.tsave + 128 * f.slot) 128)
     (∃ t, exec .rettResume s = .next t ∧ (u.become f { x with pl := .u, pc := BitVec.ofNat 48 (trapPcOf f) }).Reseated t) ∧
     (2 ≤ f.rep.toNat % 128 → ∃ t, exec .rettSkip s = .next t ∧ (u.become f { x with pl := .u, pc := BitVec.ofNat 48 (trapPcOf f), rep := f.rep - 1 }).Reseated t) ∧
     (f.rep.toNat % 128 = 1 → ∃ t, exec .rettSkip s = .next t ∧ (u.become f { x with pl := .u, pc := BitVec.ofNat 48 (trapPcOf f + 4), rep := f.rep - 1 }).Reseated t) ∧
     (∀ (u1 : State) (w : Word), f.rep.toNat % 128 = 0 → u.fetchAt f .h (BitVec.ofNat 48 (trapPcOf f / 4 * 4)) = (u1, .ok w) →
       ∃ t, exec .rettSkip s = .next t ∧
         (u1.become f { x with pl := .u, pc := BitVec.ofNat 48 (trapPcOf f + if trapPcOf f % 4 < 2 ∧ w.toNat < 2 ^ 31 then 4 else 2) }).Reseated t) ∧
     (∃ t, exec .rettKillfibre s = .next t ∧ ∀ g ∈ t.fibres, g.key = f.key → g.run ≠ .live)) ∧
  (∀ (s : State) (c : Issue) (f : Fibre) (k : Task), s.Sole c f → f.pl = .h → s.Settled f → f.gbar = none → trapPcOf f % 2 = 0 → f.wait = none →
     let u := s.publishCore f.core
     let back := fun (v : State) => ({ restored f (v.physRead (v.tsave + 128 * f.slot) 128) with pl := .u, pc := BitVec.ofNat 48 (trapPcOf f), muted := true } : Fibre)
     u.currentTask f.wg f.grp = some k →
       (∃ t, exec .rettTaskretry s = .next t ∧ (((u.parkTask f.core k .tiles none).loseTask (f.wg, f.grp)).become f (back u)).Reseated t) ∧
       (∃ t, exec .rettTaskkill s = .next t ∧ (((u.freeTask f.core k).loseTask (f.wg, f.grp)).become f (back u)).Reseated t) ∧
       (∀ v, k.pred = some v → u.isPred v = true →
         ∃ t, exec .rettTaskskip s = .next t ∧ (((u.parkTask f.core k .verify (some v)).loseTask (f.wg, f.grp)).become f (back u)).Reseated t) ∧
       (k.pred = none → k.succ = 0 →
         ∃ t, exec .rettTaskskip s = .next t ∧ (((u.freeTask f.core k).loseTask (f.wg, f.grp)).become f (back u)).Reseated t) ∧
       (∀ u1 bs z, k.pred = none → k.succ ≠ 0 → u.decrement f k.succ = (u1, .bytes bs, z) → u1.fibres = u.fibres →
         ∃ t, exec .rettTaskskip s = .next t ∧ (((u1.freeTask f.core k).loseTask (f.wg, f.grp)).become f (back u1)).Reseated t))

/-- R369, R371, R372: TQ reads its record, gives it the lowest free entry of the core's table, and writes the index to d, or all ones when the table is full. -/
def Obligations.TaskEnqueues : Prop :=
  ∀ (s s1 s0 : State) (c : Issue) (f : Fibre) (d a : BitVec 7) (bs : List Byte) (key : Place), s.Sole c f → f.may d.toNat = true → f.mayPair a.toNat = true → pairVa f a.toNat % 64 = 0 →
    s.readRecord f (BitVec.ofNat 48 (pairVa f a.toNat)) 64 = (s1, .bytes bs) → s1.taskKey f (BitVec.ofNat 48 (pairVa f a.toNat)) = (s0, .ok key) →
    (∀ pa, key = .pa pa → isMemory pa = true) → bs.length = 64 →
    let s2 := (taskRecord s0 f key bs).1
    let r := (taskRecord s0 f key bs).2
    recordOk r (s2.launch f.wg) = true →
      (∀ i, (s2.core f.core).freeTaskIndex = some i →
        exec (.taskTq d a) s = .next (((({ s2 with order := s2.order + 1 } : State).modCore f.core fun k => { k with tasks := k.tasks ++
          [{ index := i, wg := f.wg, key := key, record := r, count := leVal ((r.drop 32).take 4), state := if leVal ((r.drop 32).take 4) = 0 then .tiles else .counting, order := s2.order }] }).modFibre f.key
            fun x => x.setV d.toNat (BitVec.ofNat 32 i)).goOn f c)) ∧
      ((s2.core f.core).freeTaskIndex = none → exec (.taskTq d a) s = .next ((s2.modFibre f.key fun x => x.setV d.toNat 0xFFFFFFFF).goOn f c))

/-- R369, R373, R374: TRUN starts the eligible entry of the highest priority, or gives 0 when nothing but entries to verify is left, and else waits; a started entry gives its group k0 to k7 from its record with the count read as 0, and reserves its outputs. -/
def Obligations.TasksRun : Prop :=
  (∀ (s : State) (c : Issue) (g : Nat × Nat) (p : BitVec 4), s.OneGroup c g → s.wholeGroup g (s.share c g) = true → (s.group g.1 g.2).task = none →
     let mine := (s.core (s.wg g.1).core).tasks.filter fun k => decide (k.wg = g.1)
     let fits := mine.filter fun k => decide (k.width = (s.launch g.1).shape.toNat % 4)
     (∀ k, pickTask (fits.filter s.eligible) = some k → exec (.taskTrun p) s = .next ((s.startTask c g p k none).groupOn c g)) ∧
     (pickTask (fits.filter s.eligible) = none → (∀ k ∈ fits, s.predictable k = none) →
       ((∀ k ∈ mine, k.state = .verify) → ∃ t, exec (.taskTrun p) s = .next t ∧ { t with fibres := s.fibres } = s ∧
         ∀ f ∈ s.share c g, ∃ x ∈ t.fibres, x.key = f.key ∧ pred x p = (p = 15) ∧ x.regs = f.regs) ∧
       ((∃ k ∈ mine, k.state ≠ .verify) → ∃ t pc rep, exec (.taskTrun p) s = .next t ∧
         ({ s with fibres := s.fibres.map fun f => if f ∈ s.share c g then f.waiting (.trun p pc rep) s.clock else f } : State).Reseated t))) ∧
  (∀ (s : State) (c : Issue) (g : Nat × Nat) (p : BitVec 4) (k : Task), k.record.length = 64 → (∃ x ∈ s.groups, x.is g.1 g.2 = true) → k.wg = g.1 → (s.wg? g.1).isSome = true → (s.group g.1 g.2).kregs.length = 32 →
     let t := s.startTask c g p k none
     (t.group g.1 g.2).task = some k.index ∧
     (∀ j < 8, j ≠ 4 → ((t.group g.1 g.2).kregs.getD j 0).toNat = leVal ((k.record.drop (8 * j)).take 8)) ∧
     ((t.group g.1 g.2).kregs.getD 4 0).toNat = leVal ((k.record.drop 36).take 4) * 2 ^ 32 ∧
     (∀ j, 8 ≤ j → (t.group g.1 g.2).kregs.getD j 0 = (s.group g.1 g.2).kregs.getD j 0) ∧
     (∀ x ∈ k.outputs, (x, Holder.task k.index) ∈ (t.wg g.1).reserved) ∧ t.mem = s.mem)

/-- R281, R370, R374, R410: TEND publishes, frees the entry and lowers its successor's count by 1, in the entry that has it as its key or in its record; the entry of a predicted run stays for verification. -/
def Obligations.TaskEnds : Prop :=
  ∀ (s : State) (c : Issue) (g : Nat × Nat) (f : Fibre) (k : Task), s.OneGroup c g → s.wholeGroup g (s.share c g) = true → lowest s c g f → (∀ x ∈ s.members c, x.muted = false) → s.currentTask g.1 g.2 = some k →
    let u := s.boundaryFor c.core (s.share c g)
    let freed := fun (v : State) => ((v.freeTask c.core k).dropTask g.1 g.2).groupOn c g
    (k.pred = none → k.succ = 0 → exec .taskTend s = .next (freed u)) ∧
    (∀ u1 bs, k.pred = none → k.succ ≠ 0 → u.decrement f k.succ = (u1, .bytes bs, false) → exec .taskTend s = .next (freed u1)) ∧
    (∀ v, k.pred = some v → u.isPred v = true → exec .taskTend s = .next (((u.parkTask c.core k .verify (some v)).dropTask g.1 g.2).groupOn c g)) ∧
    (∀ wg off, k.pred = none → k.succ ≠ 0 → (∀ x ∈ s.share c g, s.Settled x) → s.target f.wg (k.succ % 2 ^ 48) = .pad wg off →
      let v := (s.publishCore c.core).dropTensors
      (∀ x ∈ (s.core f.core).tasks, x.key = .pad wg off → x.count ≠ 0 → (∀ y ∈ (s.core f.core).tasks, y.key = .pad wg off → y = x) →
        exec .taskTend s = .next (freed (v.modCore f.core fun z => { z with tasks := z.tasks.map fun y =>
          if y.index = x.index then { y with count := y.count - 1, state := if y.count = 1 ∧ y.state = .counting then .tiles else y.state } else y }))) ∧
      (∀ wg' off', (∀ y ∈ (s.core f.core).tasks, y.key ≠ .pad wg off) → s.target f.wg ((k.succ + 32) % 2 ^ 48) = .pad wg' off' → leVal (s.padRead wg' off' 4) ≠ 0 →
        exec .taskTend s = .next (freed (v.padWrite wg' off' (bytesOf 4 (leVal (s.padRead wg' off' 4) - 1)))))) ∧
    (∀ v : State, (∀ x ∈ ((freed v).core c.core).tasks, x.index ≠ k.index) ∧ (∀ x ∈ (v.core c.core).tasks, x.index ≠ k.index → x ∈ ((freed v).core c.core).tasks) ∧
      ((freed v).group g.1 g.2).task = none ∧ ((freed v).group g.1 g.2).carried = none ∧ (∀ x, (x, Holder.task k.index) ∉ ((freed v).wg k.wg).reserved))

/-- R226, R227: FSPAWN starts a fibre in the lowest vacant lane, with v0 its stack, v1 the argument and v2 the parent's lane, and gives the parent its lane, or all ones when none is vacant; what the lane's earlier fibre had still on its way is the lane's no longer, and nothing else changes but the seats. -/
def Obligations.FibreSpawns : Prop :=
  ∀ (s : State) (c : Issue) (f : Fibre) (h g : Bool) (d a b : BitVec 7), s.Sole c f → f.pl = .u → f.may d.toNat = true → f.mayPair a.toNat = true → f.may b.toNat = true →
    s.fibreVid f = (s.launch f.wg).version → (f.pair a.toNat).toNat % 2 = 0 → (∀ x ∈ s.fibres, x.wg = f.wg → x.grp = f.grp → 8 ≤ x.alloc.toNat) →
    (s.vacant f.wg f.grp = [] → ∃ t, exec (.fspawn h g d a b) s = .next t ∧ (s.modFibre f.key fun x => (x.setV d.toNat 0xFFFFFFFF).advance c).Reseated t) ∧
    (∀ l r, s.vacant f.wg f.grp = l :: r →
      let k : FibreKey := ⟨f.wg, f.grp, l⟩
      let u := s.untie k
      ∃ (t : State) (n : Fibre → Fibre), exec (.fspawn h g d a b) s = .next t ∧
        (((u.modFibre k n).modFibre f.key fun x => x.setV d.toNat (BitVec.ofNat 32 l)).moved c fun x => x).Reseated t ∧
        ∀ x ∈ s.fibres, x.key = k → (n x).key = k ∧ (n x).run = .live ∧ (n x).pl = .u ∧ (n x).pc = BitVec.ofNat 48 (f.pair a.toNat).toNat ∧ (n x).wb = 0 ∧ (n x).outer = 0 ∧ (n x).rep = 0 ∧
          (n x).pword = 0x8000 ∧ (n x).signed = 0 ∧ (n x).wait = none ∧ (n x).v 0 = BitVec.ofNat 32 (u.stackTop (u.wg f.wg) f.grp l) ∧ (n x).v 1 = f.v b.toNat ∧ (n x).v 2 = BitVec.ofNat 32 f.lane ∧
          (∀ j, 3 ≤ j → j < x.alloc.toNat → (n x).v j = 0) ∧ (n x).alloc = x.alloc ∧ (n x).rstk = BitVec.ofNat 48 (u.rstkBase (u.wg f.wg) f.grp l) ∧ (n x).notBefore = u.clock + 4)

/-- R221, R222, R236 to R241, R380, R487, R490: WDQ and TOPK leave their request, for the group, with the part, and LAUNCH and LAUNCH.SPEC put their image into the queue's device FIFO, in memory, when it has room; the distributor answers an issue's requests in their order and the answer lands once its granule's turn comes, TOPK writes its records, and a waiting image enters its queue after every earlier one of its group. -/
def Obligations.GroupRequests : Prop :=
  (∀ (s : State) (c : Issue) (g : Nat × Nat) (f : Fibre) (k : BitVec 5) (o : BitVec 11) (ty : BitVec 2) (sf : Bool) (q : BitVec 8), s.OneGroup c g → lowest s c g f →
     (let ea := (kOf s g k.toNat).toNat % 2 ^ 48 + 4 * o.toNat
      s.carries g.1 g.2 = (s.launch g.1).version → ownAperture ≤ ea → ea < ownAperture + (s.launch g.1).padBytes → ea % 4 = 0 →
       exec (.wdq k o) s = .next (({ s with ids := s.ids + 1, mem := { s.mem with wdq := s.mem.wdq ++
         [{ n := s.ids, wg := g.1, grid := (s.wg g.1).grid, off := ea - ownAperture, fibs := groupKeys s c g, asked := s.clock }] } } : State).groupOn c g)) ∧
     (let src := (kOf s g k.toNat).toNat
      let dst := (kOf s g (k.toNat + 1)).toNat
      let n := (kOf s g (k.toNat + 2)).toNat % 2 ^ 32
      let m := (kOf s g (k.toNat + 2)).toNat / 2 ^ 32
      1 ≤ m → m ≤ 1024 → 1 ≤ n → n ≤ 65536 → ownAperture ≤ src → src + 4 * n ≤ ownAperture + (s.launch g.1).padBytes → ownAperture ≤ dst → dst + 8 * m ≤ ownAperture + (s.launch g.1).padBytes →
       src < 2 ^ 48 → dst < 2 ^ 48 → src % 4 = 0 → dst % 8 = 0 →
       exec (.topk ty sf k) s = .next (({ s with ids := s.ids + 1, mem := { s.mem with topk := s.mem.topk ++
         [{ n := s.ids, wg := g.1, src := src - ownAperture, dst := dst - ownAperture, k := m, cnt := n, ty := ty, sf := sf, vid := s.carries g.1 g.2, fibs := groupKeys s c g }] } } : State).groupOn c g)) ∧
     (∀ (u : State) (bs : List Byte) (spec : Bool),
       let x := (kOf s g (k.toNat + 1)).toNat
       let at_ := (kOf s g k.toNat).toNat % 2 ^ 48
       (∀ y ∈ s.share c g, y.wait = none) → s.carries g.1 g.2 = (s.launch g.1).version → (spec = false → s.isRoot (s.carries g.1 g.2) = true) → s.qEnabled q = true → s.queueWorld q = s.coreWorld c.core →
       (spec = true → x / 2 ^ 26 = 0 ∧ x / 2 ^ 10 % 2 ^ 6 = 0) → at_ % 64 = 0 → u.late = false → u.fifoRoom q = true → (∀ b ∈ u.mem.appends, b.queue ≠ q ∧ b.n < u.ids) →
       (((s.share c g).foldl (fun (t : State) y => t.drainFibre y.key) s).publishCore c.core).readRecord f (BitVec.ofNat 48 at_) 256 = (u, .bytes bs) →
       let image := if spec then specImage bs (kOf s g (k.toNat + 1)) else bs
       exec (if spec then .launchSpec q k else .launch q k) s = .next (((({ u with ids := u.ids + 1 } : State).physWrite (u.fifoSlot q (u.fifoNext q)) image).modQueue q fun y => { y with
         arrivals := y.arrivals ++ [Arrival.fifo (u.fifoNext q) (BitVec.ofNat 64 at_)], fifoAt := (u.fifoNext q + 1) % u.fifoSize q }).groupOn c g))) ∧
  (∀ (s : State) (n : Nat), s.arg = .num n →
     (∀ r, (s.mem.wdq.find? fun x => decide (x.n = n)) = some r → r.answer = none → (s.grid? r.grid).isSome = true → (∀ x ∈ s.mem.wdq, x.answer = none → x.grid = r.grid → x.asked = r.asked → n ≤ x.n) →
       ∃ t, exec .workDistributorRequest s = .next t ∧ (t.grid r.grid).dist = min ((s.grid r.grid).dist + 1) (2 ^ 32 - 1) ∧
         (t.mem.wdq.find? fun x => decide (x.n = n)) = some { r with answer := some (tileAnswer (s.grid r.grid).launch.wdist (s.grid r.grid).dist), since := s.clock }) ∧
     (∀ r a, (s.mem.wdq.find? fun x => decide (x.n = n)) = some r → r.answer = some a → s.turnOf (.answer n) = true →
       exec .wdqAnswer s = .next { s.landFull r.wg r.off (bytesOf 4 a.toNat) (s.launch r.wg).version with
         mem := { (s.landFull r.wg r.off (bytesOf 4 a.toNat) (s.launch r.wg).version).mem with wdq := (s.landFull r.wg r.off (bytesOf 4 a.toNat) (s.launch r.wg).version).mem.wdq.filter fun x => decide (x.n ≠ n) } }) ∧
     (∀ r, (s.mem.topk.find? fun x => decide (x.n = n)) = some r →
       let keys := (List.range r.cnt).map fun i => BitVec.ofNat 32 (leVal (s.padRead r.wg (r.src + 4 * i) 4))
       let out := topkRecords r.ty keys r.k
       (r.sf = false → ∃ t, exec .topkComplete s = .next t ∧ (∀ x ∈ t.mem.topk, x.n ≠ n) ∧ t.wgs = (s.padWrite r.wg r.dst out).wgs ∧ t.fibres = (s.padWrite r.wg r.dst out).fibres) ∧
       (r.sf = true → (∀ g ∈ granulesOf r.dst (8 * r.k), s.tagMeets r.wg g r.vid .free = true) →
         ∃ t, exec .topkComplete s = .next t ∧ (∀ x ∈ t.mem.topk, x.n ≠ n) ∧ t.wgs = (State.landRun r.vid r.wg 10 s r.dst out).wgs ∧ t.fibres = (State.landRun r.vid r.wg 10 s r.dst out).fibres)) ∧
     (∀ a, (s.mem.appends.find? fun x => decide (x.n = n)) = some a → s.fifoRoom a.queue = true → (∀ b ∈ s.mem.appends, b.queue = a.queue → b.wg = a.wg → b.grp = a.grp → n ≤ b.n) →
       ∃ t, exec .deviceFifoAppend s = .next t ∧ (t.queue a.queue).arrivals = (s.queue a.queue).arrivals ++ [Arrival.fifo (s.fifoNext a.queue) a.k1] ∧ (∀ x ∈ t.mem.appends, x.n ≠ n) ∧ t.fibres = (s.fifoAppend a).fibres ∧
         (s.physWrite (s.fifoSlot a.queue (s.fifoNext a.queue)) a.image).mem.frames = t.mem.frames ∧ (s.physWrite (s.fifoSlot a.queue (s.fifoNext a.queue)) a.image).mem.dram = t.mem.dram))

/-- R344 to R349: the MACC words go on at once and take their place at the end of the core's commands, with the range that they read or write; with nothing before it on its range, ZERO's completion leaves zeros there and nothing else changed, and LD's writes its accumulator words into its registers. -/
def Obligations.AccumulatorWords : Prop :=
  ∀ (s : State) (c : Issue),
    (∀ (g : Nat × Nat) (k : BitVec 5), s.OneGroup c g →
      let x := (kOf s g k.toNat).toNat
      let n := x / 2 ^ 16 % 2 ^ 10 + 1
      let lo := 1024 * (x % 2 ^ 10)
      x / 2 ^ 26 = 0 → x / 2 ^ 10 % 2 ^ 6 = 0 → x % 2 ^ 10 + n ≤ (s.launch g.1).accKib.toNat →
        let t := (queuedLast s g.1 (maccOf s g .zero 0 lo (1024 * n) 0 (groupKeys s c g))).groupOn c g
        exec (.maccZero k) s = .next t ∧
        (accClear s g.1 lo (1024 * n) → s.Canonical → ∃ t', exec .maccZeroComplete (completing s t g.1) = .next t' ∧ t'.fibres = t.fibres ∧
          ∀ p, Memory.read (t'.wg g.1).acc p = if lo ≤ p ∧ p < lo + 1024 * n then 0 else Memory.read (s.wg g.1).acc p)) ∧
    (∀ (f : Fibre) (d a n : BitVec 7), s.Sole c f →
      let m := n.toNat + 1
      let off := (f.v a.toNat).toNat
      let dst := (List.range m).map fun j => (f.wb.toNat + d.toNat + j) % f.alloc.toNat
      f.may d.toNat = true → f.may (d.toNat + n.toNat) = true → f.may a.toNat = true → d.toNat % m = 0 → off + 4 * m ≤ (s.launch f.wg).accBytes → off % (4 * m) = 0 →
        let t := (queuedLast s f.wg (maccOf s (f.wg, f.grp) (.ld f.key dst off) 0 off (4 * m) f.pc [f.key])).goOn f c
        exec (.maccLd d a n) s = .next t ∧
        (accClear s f.wg off (4 * m) → ∃ t', exec .maccLdDeliver (completing s t f.wg) = .next t' ∧ ∃ y ∈ t'.fibres, y.key = f.key ∧ y.pc = (nextOf c f).1 ∧
          y.regs = (f.setPhysBytes dst (Memory.readN (s.wg f.wg).acc off (4 * m))).regs)) ∧
    (∀ (g : Nat × Nat) (f : Fibre) (i : BitVec 3) (k : BitVec 5), s.OneGroup c g → lowest s c g f →
      let w := (s.launch g.1).slot i
      let r := stReq (kOf s g k.toNat).toNat (kOf s g (k.toNat + 1)).toNat (kOf s g (k.toNat + 2)).toNat
      let ob := packedBytes (elemOf (slotA w)).width r.cols
      let len := accSize w * r.accn * r.rows
      r.zero = false → r.cols ≤ r.accn → ob ≤ r.pitch → (∀ y, r.rank = some y → y < (s.launch g.1).cluster) → 1024 * r.acct + len ≤ (s.launch g.1).accBytes →
      r.dst + r.pitch * (r.rows - 1) + ob ≤ (s.launch g.1).padBytes →
        let u := queuedLast s g.1 (maccOf s g (.st f.gen r.accn r.rows r.cols r.scale r.rank r.dst r.pitch) w (1024 * r.acct) len f.pc (groupKeys s c g))
        exec (.maccSt i k) s = .next ((if stochastic w then u.modFibre f.key fun x => { x with gen := { x.gen with n := x.gen.n + BitVec.ofNat 64 (r.rows * r.cols) } } else u).groupOn c g))

/-- R379, R393, R396, R401, R412: VERS RESOLVE publishes, commits the path to its target, squashes every other live version that does not descend from it, and keeps the acceptance history, or tells why not; VERS STATE reads a status; VERS PTILE declares what its descriptor says. -/
def Obligations.VersionWords : Prop :=
  ∀ (s : State) (c : Issue) (d a b : BitVec 7), s.cur = some c →
    (s.each c (fun f => f.mayPair d.toNat && f.may a.toNat) →
      exec (.versState d a) s = .next (s.moved c fun f => f.setPair d.toNat (if f.run ≠ .live ∨ f.muted then 0 else s.versionStatus (BitVec.ofNat 10 (f.v a.toNat).toNat)))) ∧
    (∀ (g : Nat × Nat) (f : Fibre), s.OneGroup c g → lowest s c g f → s.carries g.1 g.2 = (s.launch g.1).version → s.isRoot (s.carries g.1 g.2) = true → (∀ x ∈ s.share c g, s.Settled x) →
      let u := (s.publishCore c.core).dropTensors
      let v : VID := BitVec.ofNat 10 (f.v a.toNat).toNat
      let n := vidDomain v
      let acc := (f.v b.toNat).toNat % 2 ^ 16
      let prop := (f.v b.toNat).toNat / 2 ^ 16
      let path := s.chain 64 v
      let dead := (s.liveOf n).filter fun x => !(path.contains x) && !(decide (vidSlot v ≠ 0) && (s.chain 64 x).contains v)
      f.may d.toNat = true → f.may a.toNat = true → f.may b.toNat = true → acc ≤ prop →
        (vidSlot v ≠ 0 → (s.version? v).map Version.state ≠ some .live → exec (.versResolve d a b) s = .next (((u.giveGroup c g d.toNat 1).snapshot c.core).groupOn c g)) ∧
        ((s.version? v).map Version.state = some .live → (s.version? v).map Version.pred = some true → exec (.versResolve d a b) s = .next (((u.giveGroup c g d.toNat 2).snapshot c.core).groupOn c g)) ∧
        ((vidSlot v = 0 ∧ s.version? v = none ∨ ((s.version? v).map Version.state = some .live ∧ (s.version? v).map Version.pred = some false)) → s.domains.length = 16 →
          ∃ t, exec (.versResolve d a b) s = .next t ∧
            t = (((((u.resolveTo n v).1.modDomain n fun x => { x with accept := if prop = 0 then x.accept else (7 * x.accept + 256 * acc / prop) / 8 }).giveGroup
              c g d.toNat (BitVec.ofNat 32 (path.length * 2 ^ 8 + dead.length * 2 ^ 16))).snapshot c.core)).groupOn c g ∧
            t.versions.map (fun x => (x.vid, x.state)) = s.versions.map (fun x => (x.vid, if x.vid ∈ path then VState.committed else if x.vid ∈ dead then .squashed else x.state)) ∧
            (t.domain n).accept = if prop = 0 then (s.domain n).accept else (7 * (s.domain n).accept + 256 * acc / prop) / 8)) ∧
    (∀ (g : Nat × Nat) (f : Fibre), s.OneGroup c g → lowest s c g f → f.mayPair a.toNat = true → s.carries g.1 g.2 = (s.launch g.1).version → s.isRoot (s.carries g.1 g.2) = true →
      pairVa f a.toNat % 32 = 0 →
        (∀ (u t : State) (bs : List Byte), s.readRecord f (BitVec.ofNat 48 (pairVa f a.toNat)) 32 = (u, .bytes bs) → ptileOk (u.launch g.1) bs = true → declared u g.1 bs = some t → exec (.versPtile a) s = .next (t.groupOn c g)) ∧
        (∀ (wg off : Nat) (t : State), s.target f.wg (pairVa f a.toNat) = .pad wg off → ptileOk (s.launch g.1) (s.padRead wg off 32) = true → declared s g.1 (s.padRead wg off 32) = some t →
          exec (.versPtile a) s = .next (t.groupOn c g)))

/-- R450, R451, R511: TLBI at level H removes the cached translations of its page, or all, from every core, and goes on when no access of before it is in flight; with one in flight it waits. -/
def Obligations.TranslationsAreRemoved : Prop :=
  ∀ (s : State) (c : Issue) (f : Fibre) (a : BitVec 7), s.Sole c f → f.pl ≠ .u → f.wait = none → f.mayPair a.toNat = true → s.mem.sweeps = [] →
    (s.late = false → (∀ n, s.inFlight n = false) →
      (∃ t, exec (.tlbi a) s = .next t ∧ (∀ k ∈ t.cores, (∀ x ∈ k.tlb, x.covers (pairVa f a.toNat) = false) ∧ ∀ x ∈ k.lastPages, x.page.covers (pairVa f a.toNat) = false) ∧
        ∃ g ∈ t.fibres, g.key = f.key ∧ g.pc = (nextOf c f).1 ∧ g.regs = f.regs ∧ g.wait = none) ∧
      (∃ t, exec .tlbiAll s = .next t ∧ (∀ k ∈ t.cores, k.tlb = [] ∧ k.lastPages = []) ∧ ∃ g ∈ t.fibres, g.key = f.key ∧ g.pc = (nextOf c f).1 ∧ g.regs = f.regs ∧ g.wait = none)) ∧
    (s.late = false → s.mem.loads = [] → s.mem.stores = [] → s.mem.atomics = [] → s.mem.posts = [] → (∃ r ∈ s.mem.peers, r.n < s.ids ∧ r.got = none ∧ r.bad = none) →
      (∃ t, exec (.tlbi a) s = .next t ∧ (∀ k ∈ t.cores, (∀ x ∈ k.tlb, x.covers (pairVa f a.toNat) = false) ∧ ∀ x ∈ k.lastPages, x.page.covers (pairVa f a.toNat) = false) ∧
        t.mem.sweeps = [(f.key, s.ids)] ∧ ∃ g ∈ t.fibres, g.key = f.key ∧ g.pc = f.pc ∧ g.regs = f.regs ∧ g.wait.map Wait.why = some .walk) ∧
      (∃ t, exec .tlbiAll s = .next t ∧ (∀ k ∈ t.cores, k.tlb = [] ∧ k.lastPages = []) ∧ t.mem.sweeps = [(f.key, s.ids)] ∧ ∃ g ∈ t.fibres, g.key = f.key ∧ g.pc = f.pc ∧ g.regs = f.regs ∧ g.wait.map Wait.why = some .walk))

/-- R48 to R51, R148: a dictionary parcel becomes the word of its entry, with the displacement added to the fields that the entry names; that word runs next, at once unless a result that it reads is on its way. -/
def Obligations.ParcelsExpand : Prop :=
  ∀ (s : State) (c : Issue) (f : Fibre) (h l : BitVec 10) (d x : BitVec 5) (v : Bool) (e : Dict), s.Sole c f → (s.launch f.wg).dict ≠ 0 →
    (s.core c.core).dicts.find? (fun y => decide (y.addr = (s.launch f.wg).dict) && y.filled) = some e →
    let i := if c.form = .low then l else h
    let n := if c.form = .low then x.toNat else d.toNat
    let w := leVal ((List.range 4).map fun j => Memory.read e.bytes (8 * i.toNat + j))
    let m := (Memory.read e.bytes (8 * i.toNat + 4)).toNat
    let fieldAt := fun (on lo : Nat) => (w / 2 ^ lo % 128 + if m / 2 ^ on % 2 = 1 then n else 0) % 128 * 2 ^ lo
    w < 2 ^ 31 → w / 2 ^ 24 ≠ 0x4A →
      ∃ k, s.clock ≤ k ∧ ((∀ g ∈ s.groups, g.flying = []) → k = s.clock) ∧
        exec (.dictionaryWord h d v l x) s = .next { s with clock := k, cur := some { c with expanded := some (BitVec.ofNat 32 (w / 2 ^ 21 * 2 ^ 21 + fieldAt 0 14 + fieldAt 1 7 + fieldAt 2 0)) } }

/-- R31, R492 to R494: the arithmetic words of a queue's program write d and go on; branches go forward, and a loop's body ends by going back to its first word while runs are left. Each uses one unit of the budget. -/
def Obligations.QueueProgramWords : Prop :=
  (∀ (s : State) (q x : BitVec 8) (p : Packet) (d a b : BitVec 4) (i : BitVec 16), Running s q p →
     (∀ r ∈ queueRows d a b i, exec r.1 s = .next (s.withHand q (withReg (onward p (p.pc + 1)) d (r.2 (qreg p d) (qreg p a) (qreg p b))))) ∧
     exec (.qtlr d x) s = .next (s.withHand q (withReg (onward p (p.pc + 1)) d ((s.queue x).timeline.toNat : Nat)))) ∧
  (∀ (s : State) (q n l : BitVec 8) (p : Packet) (a b : BitVec 4) (o : BitVec 16) (m : BitVec 12), Running s q p →
     (∀ r ∈ queueBranches a b o m, exec r.1 s = .next (s.withHand q (onward p (if r.2.2 (qreg p a) (qreg p b) then p.pc + 1 + r.2.1 else p.pc + 1)))) ∧
     exec (.qloop n l) s = .next (s.withHand q (onward { p with loops := (p.pc + 1, l.toNat, n.toNat - 1) :: p.loops } (p.pc + 1))) ∧
     (p.loops = [] → (onward p (p.pc + 1)).pc = p.pc + 1) ∧
     (∀ first len r, p.loops = (first, len, 0) :: r → p.pc + 1 = first + len → (∀ y ∈ r, p.pc + 1 ≠ y.1 + y.2.1) → (onward p (p.pc + 1)).pc = p.pc + 1 ∧ (onward p (p.pc + 1)).loops = r) ∧
     (∀ first len left r, p.loops = (first, len, left + 1) :: r → p.pc + 1 = first + len → (onward p (p.pc + 1)).pc = first ∧ (onward p (p.pc + 1)).loops = (first, len, left) :: r))

/-- R292, R492, R493, R495: a queue's program reads and writes its staging record and, through its windows, memory: the newest bytes of a page that lets it; a word outside its window ends the packet with PROGFAULT. -/
def Obligations.QueueMemory : Prop :=
  ∀ (s : State) (q : BitVec 8) (p : Packet) (d a : BitVec 4) (w : BitVec 2) (o : BitVec 14) (i : BitVec 16), Running s q p →
    (i.toNat + 8 ≤ 256 → p.record.length = 256 →
      exec (.qldp d i) s = .next (s.withHand q (withReg (onward p (p.pc + 1)) d (leVal ((p.record.drop i.toNat).take 8)))) ∧
      exec (.qstp d i) s = .next (s.withHand q { onward p (p.pc + 1) with record := p.record.take i.toNat ++ bytesOf 8 (qreg p d) ++ p.record.drop (i.toNat + 8) })) ∧
    (let x := (qreg p a + o.toNat) % 2 ^ 64
     let va := (s.qWbase q w.toNat + x) % 2 ^ 48
     x % 8 = 0 → x + 8 ≤ s.qWsize q w.toNat → va < ownAperture →
      (∀ (u : State) (bs : List Byte), State.engineFetch (queueKey q) none 2 s (s.whoQueue q) (BitVec.ofNat 48 va) 8 = .ok u bs →
        exec (.qldm d a w o) s = .next ((u.dropReplies (queueKey q)).withHand q (withReg (onward p (p.pc + 1)) d (leVal bs)))) ∧
      (∀ (u : State) (pa lp : Nat) (v : VID) (leaf : BitVec 64), s.translate (s.whoQueue q) (BitVec.ofNat 48 va) {} = (u, .ok pa v lp leaf) → (regionOf pa).cached = true → va % 65536 ≤ 65528 →
        (∀ l ∈ u.mem.refetch, l ≠ pa / 1024 ∧ l ≠ (pa + 7) / 1024) → Spacious u →
        ∃ t, exec (.qldm d a w o) s = .next t ∧ (t.queue q).packet = some (withReg (onward p (p.pc + 1)) d (leVal ((List.range 8).map fun j => u.newestFor v (pa + j)))) ∧
          t.fibres = u.fibres ∧ t.groups = u.groups ∧ t.wgs = u.wgs) ∧
      (∀ (u : State) (pa lp : Nat) (v : VID) (leaf : BitVec 64), s.translate (s.whoQueue q) (BitVec.ofNat 48 va) { write := true, read := false } = (u, .ok pa v lp leaf) → (∀ y, regionOf pa ≠ .peer y) →
        (∀ l ∈ u.mem.refetch, l ≠ pa / 1024 ∧ l ≠ (pa + 7) / 1024) → exec (.qstm d a w o) s = .next ((u.physWrite pa (bytesOf 8 (qreg p d))).withHand q (onward p (p.pc + 1))))) ∧
    (let x := (qreg p a + o.toNat) % 2 ^ 64
     (x % 8 ≠ 0 ∨ s.qWsize q w.toNat < x + 8) → exec (.qldm d a w o) s = .next (s.progFault q { p with used := p.used + 1 }) ∧ exec (.qstm d a w o) s = .next (s.progFault q { p with used := p.used + 1 }))

/-- R193, R381, R493, R496 to R498, R501, R503: the timeline words, QLAYER, and the words that dispatch or end a packet: a record in order becomes a grid of its queue, one out of order ends its packet with a report, and a queue that may not dispatch waits. -/
def Obligations.QueueTimelinesAndDispatch : Prop :=
  ∀ (s : State) (q x cc : BitVec 8) (p : Packet) (a : BitVec 4), Running s q p →
    let p1 : Packet := { p with used := p.used + 1 }
    (0 ≤ ((s.queue x).timeline - p.regs.getD a.toNat 0).toInt → exec (.qwait a x) s = .next (s.withHand q (onward p (p.pc + 1)))) ∧
    (((s.queue x).timeline - p.regs.getD a.toNat 0).toInt < 0 → exec (.qwait a x) s = .next (s.withHand q { p1 with stage := .qwait (p.regs.getD a.toNat 0) x })) ∧
    exec (.qsig a) s = .next ((s.raise q (p.regs.getD a.toNat 0)).withHand q (onward p (p.pc + 1))) ∧
    ((s.queue q).layer = BitVec.ofNat 16 (qreg p a) → exec (.qlayer a) s = .next (s.withHand q (onward p (p.pc + 1)))) ∧
    ((s.queue q).layer ≠ BitVec.ofNat 16 (qreg p a) →
      exec (.qlayer a) s = .next (((s.modQueue q fun y => { y with layer := BitVec.ofNat 16 (qreg p a) }).prefetch q (qreg p a % 2 ^ 16)).withHand q (onward p (p.pc + 1)))) ∧
    (let l := Launch.ofBytes p.record
     let ends := fun (code : Byte) => (s.reportPacket q p.id { status := 2, code := code }).endPacket q p.id
     let again : Packet := { p1 with regs := p.regs.set 14 (p.regs.getD 14 0 + 1), pc := 0, loops := [], stage := .program, repeats := p.repeats + 1 }
     s.evicts q = false →
      (s.ringStall q = true ∨ s.headsHold q p.id = true → exec .qgo s = .next (s.withHand q { p1 with stage := .dispatch }) ∧ (p.repeats < s.qRepmax q → exec .qrepeat s = .next (s.withHand q { p1 with stage := .dispatch }))) ∧
      (s.ringStall q = false → s.headsHold q p.id = false →
        (s.launchOk l = true → s.versionOk l = true → exec .qgo s = .next ((offered s q p).endPacket q p.id) ∧ (p.repeats < s.qRepmax q → exec .qrepeat s = .next ((offered s q p).withHand q again))) ∧
        (s.launchOk l = false → exec .qgo s = .next (ends 1) ∧ (p.repeats < s.qRepmax q → exec .qrepeat s = .next (ends 1))) ∧
        (s.launchOk l = true → s.versionOk l = false → exec .qgo s = .next (ends 2) ∧ (p.repeats < s.qRepmax q → exec .qrepeat s = .next (ends 2))))) ∧
    (s.qRepmax q ≤ p.repeats → exec .qrepeat s = .next (s.progFault q p1)) ∧
    (∀ u, s.dispatch q p1 = .taken u → exec .qgo s = .next (u.endPacket q p.id)) ∧
    exec (.qcancel cc) s = .next ((s.reportPacket q p.id { status := 1, code := cc }).endPacket q p.id)

/-- R202, R203, R215 to R219, R285, R452, R455, R503, R530: entries that meet merge; a pooled fibre that has waited 4,096 clocks gets an entry; the dispatcher places the head that the choice gives, or keeps the frames that it could pop while it waits for more; an idle workgroup and a grid that is over retire; a unit is stopped, saved and restored. That a placement keeps its popped frames while it waits, and holds its die meanwhile, is the model's reading (log 114); a restored fibre's home column is the model's choice (log 118). -/
def Obligations.BatchAndDispatchEvents : Prop :=
  ∀ (s : State),
    (∀ (core part : Nat) (a b : Entry), s.arg = .two core part → ((s.core core).entries.filter fun e => decide (e.part = part)) = [a, b] → a.order < b.order → s.pooled core part = [] →
      (∀ e ∈ [a, b], ∃ f ∈ seated s core part e.index, f.run = .live) → (∀ f ∈ seated s core part a.index, ∀ g ∈ seated s core part b.index, f.home ≠ g.home) →
      (∀ f ∈ seated s core part a.index, ∀ g ∈ seated s core part b.index, f.run = .live → g.run = .live → s.alike f g = true) →
      ∃ t, exec .entryMerge s = .next t ∧ { t with fibres := s.fibres, cores := s.cores } = s ∧
        t.fibres = s.fibres.map fun f => if f ∈ seated s core part b.index then { f with seat := .entry a.index } else f) ∧
    (∀ (core part n since : Nat) (e : Entry) (f : Fibre) (r : List Fibre), s.arg = .two core part → s.freeEntry core part = none → s.pooled core part = f :: r → newestEntry part (s.core core).entries = some e → e.index < 16 →
      f.seat = .pool n since → since + 4096 ≤ s.clock → (∀ x ∈ f :: r, ∀ k j, x.seat = .pool k j → k < s.order) →
      ∃ t, exec .poolStarvationTimeout s = .next t ∧ s.Reseated t ∧ (∃ x ∈ t.fibres, x.key = f.key ∧ x.seat = .entry e.index) ∧
        ∀ g ∈ seated s core part e.index, g.run = .live → s.alike f g = false → (∀ x ∈ s.fibres, x.key = g.key → x = g) → ∃ x ∈ t.fibres, x.key = g.key ∧ x.seat = .pool s.order s.clock) ∧
    (∀ (d : Nat) (s1 : State) (q : BitVec 8) (h : Head) (r : List Head) (places : List (Nat × List Span)), s.arg = .die d → s.power.low = false → s.placingOn d = none → (s.noteUnfit d).choose d 4 = some (s1, q) →
      (s1.queue q).heads = h :: r → (let l := (s1.grid h.grid).launch; l.dict = 0 ∨ ∀ p ∈ places, ∃ x ∈ (s1.core p.1).dicts, x.addr = l.dict) →
      (h.restore = [] → s1.fitNew q (s1.grid h.grid).launch = some places → places ≠ [] →
        ((s1.grid h.grid).launch.stackPages ≤ (s1.pressOf d).free.length → exec .dispatchHead s = .next ((s1.startWgs (s1.grid h.grid) places).placedHead q h)) ∧
        ((s1.pressOf d).free.length < (s1.grid h.grid).launch.stackPages →
          ∃ t, exec .dispatchHead s = .next t ∧ t.placingOn d = some { die := d, q := q, grid := h.grid, frames := (s1.pressOf d).free } ∧ (t.queue q).heads = h :: r ∧ t.wgs = s.wgs)) ∧
      (h.restore ≠ [] → s1.fitSaved q (s1.grid h.grid).launch h.restore = some places → ∃ t, exec .restoreUnit s = .next t ∧ (t.queue q).heads = r ∧
        ∀ w ∈ h.restore.take places.length, (s1.wg? w).isSome = true → (t.wg w).resident = true)) ∧
    (∀ (n : Nat) (w : Workgroup), s.arg = .num n → s.wg? n = some w → w.resident = true →
      (w.stopping = false → s.wgIdle n = true → ∃ t, exec .workgroupRetire s = .next t ∧ t.fibres.map (fun f => { f with gbar := none }) = (s.fibres.filter fun f => decide (f.wg ≠ n)).map (fun f => { f with gbar := none }) ∧ t.groups = s.groups.filter (fun g => decide (g.wg ≠ n)) ∧
        (∀ x ∈ t.wgs, x.id ≠ n) ∧ ∀ g, s.grid? w.grid = some g → (t.grid w.grid).retired = g.retired + 1) ∧
      (w.stopping = true → s.unitQuiet ((s.unitOf w).map (·.id)) = true → (∀ f ∈ s.fibres, f.wg ∈ (s.unitOf w).map (·.id) → s.Settled f) → ∃ t, exec .preempt s = .next t ∧ (∀ x ∈ s.unitOf w, (t.wg x.id).resident = false) ∧
        (t.queue (s.grid w.grid).queue).heads = { grid := w.grid, restore := (s.unitOf w).map (·.id) } :: (s.queue (s.grid w.grid).queue).heads)) ∧
    (∀ (n : Nat) (g : Grid), s.arg = .num n → s.grid? n = some g → s.gridIdle g = true →
      (g.launch.doneW = 0 ∨ g.dead = true → exec .gridRetire s = .next (s.endGrid g) ∧ (g.seq = none → s.endGrid g = s.modGrid n fun x => { x with done := true })) ∧
      (g.launch.doneW ≠ 0 → g.dead = false → g.launch.doneW.toNat % 8 ≠ 0 → exec .gridRetire s = .next ((s.report n { status := 6, code := 0, addr := g.launch.doneW }).endGrid g)) ∧
      (∀ u, g.launch.doneW ≠ 0 → g.dead = false → s.incrementDone g = some u → exec .gridRetire s = .next (u.endGrid g))) ∧
    (∀ (q : BitVec 8) (since : Nat) (w : Workgroup), s.arg = .queue q → (s.queue q).unfit = some since → s.qPwait q ≠ 0 → since + 2 ^ s.qPwait q ≤ s.clock → (∀ x ∈ s.wgs, x.stopping = true → x.core / 24 ≠ queueDie q) →
      s.headFits q = false → (s.queue q).heads ≠ [] → s.bestVictim (s.wgs.filter fun x => s.mayStop q x) = some w →
      ∃ t, exec .preemptWaitTimeout s = .next t ∧ (∀ x ∈ s.unitOf w, (t.wg x.id).stopping = true) ∧ (∀ f ∈ t.fibres, f.wg ∈ (s.unitOf w).map (·.id) → f.run ≠ .ended → f.seat = .saved))

/-- R250, R331 to R349: the idle engine takes the best ready command, zeroes its range before the first step of mode 0, reads its operands and reserves what it consumes, or stops at poison; a step's fetch ends, with the granules that it consumes EMPTY, or, of a squashed command, released as they are; its products are added to the accumulators; a command whose steps are over leaves; ZERO clears its range, LD writes its registers, ST lands its rows when its turn comes. -/
def Obligations.MatrixEvents : Prop :=
  ∀ (s : State) (core e : Nat) (m : MCmd), s.arg = .two core e →
    (∀ q, s.engineIdle core e = true → s.nextCmd core = some m → m.kind = .mul q →
      let z := if m.step = 0 ∧ m.mode = 0 then s.modWg m.wg fun w => { w with acc := Memory.clear w.acc m.lo m.len } else s
      let sa := z.fetchScales m (slotA m.slot) q.sa q.rowsAll
      let sb := z.fetchScales m (slotB m.slot) q.sb q.rowsB
      let cnt := stepElems q (kstep m.width) m.step
      (∀ x, z.stepPoison m q = some x → exec .matrixStepStart s = .next (z.stopCmd core m .poison (BitVec.ofNat 64 x.va))) ∧
      (∀ (s1 s2 : State) (da db : List Byte), z.stepPoison m q = none → z.fetchOperand m core q.a q.strA (slotA m.slot) sa q.row0 q.rowsA cnt = .ok s1 da → s1.fetchOperand m core q.b q.strB (slotB m.slot) sb 0 q.rowsB cnt = .ok s2 db →
        ∃ t, exec .matrixStepStart s = .next t ∧
          (∀ n ∈ (s2.core core).mcmds, n.seq = m.seq → core < s2.cores.length →
            { n with phase := .fetching, engine := some e, age := s.cmdAge m, since := s.clock, dataA := da, dataB := db, scaleA := sa, scaleB := sb } ∈ (t.core core).mcmds) ∧
          ∀ x ∈ s2.consumed m q m.step, (s2.wg? x.wg).isSome = true → (x.g, Holder.matrix m.whole) ∈ (t.wg x.wg).reserved)) ∧
    (∀ q, s.running core e = some m → m.kind = .mul q → m.phase = .fetching →
      let u := s.modCore core fun c => { c with mcmds := c.mcmds.map fun n => if n.seq = m.seq then { n with phase := .computing } else n }
      exec .matrixFetchDone s = .next (if m.stop then u.freeGrans m.whole (s.consumed m q m.step) else u.emptyGrans m.whole m.step (s.consumed m q m.step))) ∧
    (∀ q, s.running core e = some m → m.kind = .mul q → m.phase = .computing → exec .matrixKstepEnd s = .next (((s.modWg m.wg fun w => { w with acc := accAfter m q w.acc }).modCmd core m.seq fun n =>
      { n with step := n.step + 1 }).afterStep core e { m with step := m.step + 1 } q)) ∧
    (∀ q, commandAt s core e m q → q.ks ≤ m.step → m.phase = .queued → ∃ t, exec .matrixCommandComplete s = .next t ∧ t = s.endCmd core m ∧ ∀ x ∈ (t.core core).mcmds, x.seq ≠ m.seq) ∧
    (maccAt s core e m → m.kind = .zero → ∃ t, exec .maccZeroComplete s = .next t ∧ (∀ x ∈ (t.core core).mcmds, x.seq ≠ e) ∧ t.fibres = s.fibres ∧ t.mem = s.mem ∧
      (s.Canonical → ∀ p, Memory.read (t.wg m.wg).acc p = if m.lo ≤ p ∧ p < m.lo + m.len then 0 else Memory.read (s.wg m.wg).acc p)) ∧
    (∀ fib dst off, maccAt s core e m → m.kind = .ld fib dst off →
      exec .maccLdDeliver s = .next ((s.modCore core fun c => { c with mcmds := c.mcmds.filter fun n => decide (n.seq ≠ e) }).modFibre fib fun f => f.setPhysBytes dst (Memory.readN (s.wg m.wg).acc off (4 * dst.length)))) ∧
    (∀ gen accn rows cols scale rank dst pitch wg, maccAt s core e m → m.kind = .st gen accn rows cols scale rank dst pitch → s.operandWg m rank = some wg →
      let width := (elemOf (slotA m.slot)).width
      let vals := (List.range (rows * cols)).map fun n => accElem m.slot (s.wg m.wg).acc m.lo (accn * (n / cols) + n % cols)
      let r := storeElems m.slot scale vals gen
      s.turnOf (.st core e) = true →
        exec .maccStComplete s = .next (((s.dropCmd core e).landRows m.vid wg dst pitch ((List.range rows).map fun i => packElems width ((r.1.drop (cols * i)).take cols))).modGroup m.wg m.grp fun g => g.raise r.2))

/-- R160, R166, R168, R250, R258, R260 to R262, R265, R273, R277, R280, R287, R288, R291, R448: CLINE and the events of the memory: accesses in flight come to their end, waiting accesses proceed when their turn comes, publications complete, fills and victims, write-through to host memory, and table walks. -/
def Obligations.MemoryEvents : Prop :=
  ∀ (s : State),
    (∀ (s1 : State) (c : Issue) (f : Fibre) (x : Bool) (a o : BitVec 7) (pa lp : Nat) (v : VID) (leaf : BitVec 64), s.Sole c f → f.mayPair a.toNat = true →
      (ownAperture ≤ effAddr f a o 1024 → exec (.cline x a o) s = .next (s.goOn f c)) ∧
      (effAddr f a o 1024 < ownAperture → effAddr f a o 1024 % 1024 = 0 → s.translate (s.who f) (BitVec.ofNat 48 (effAddr f a o 1024)) {} = (s1, .ok pa v lp leaf) →
        let w := s1.landAll f.key
        exec (.cline x a o) s = .next ((w.cleanLine f.core (pa / 1024) x).goOn f c) ∧
        (w.Canonical → w.isRoot v = true → f.core < w.cores.length → Spacious w → ∀ t, exec (.cline x a o) s = .next t → ∀ p, t.nearByte f.core v p = w.nearByte f.core v p ∧ t.newestByte p = w.newestByte p))) ∧
    (∀ (n : Nat) (l : PLoad), s.arg = .num n → (s.mem.loads.find? fun x => decide (x.n = n)) = some l → s.blocked l = false → (∀ x ∈ s.mem.loads, l.after x = false) →
      ∃ t, exec .loadDataReturn s = .next t ∧ t = s.returnLoad l ∧ (∀ x ∈ t.mem.loads, x.n ≠ n) ∧
        (∀ (f : Fibre) (h : BitVec 2) (regs : List Nat) (bs : List Byte), s.fibre? l.fib = some f → l.core = f.core → l.hint = h.toNat → l.dst = .lanes regs → (regionOf l.pa).cached = true → bs.length = l.size →
          l.pa % 1024 + l.size ≤ 1024 → Spacious s → reads s f h l.vid l.pa bs →
          t.fibres = ((if h = 3 then s.saw l.fib l.pa l.size else s).modFibre l.fib fun x => x.setPhysBytes regs bs).fibres)) ∧
    (∀ (n : Nat) (p : PStore), s.arg = .num n → (s.mem.stores.find? fun x => decide (x.n = n)) = some p → (s.mem.stores.find? fun x => decide (x.fib = p.fib)) = some p →
      exec .storeLands s = .next (({ s with mem := { s.mem with stores := s.mem.stores.filter fun x => decide (x.n ≠ n) } } : State).landStore p.core p.vid p.va.toNat p.pa p.data p.hint)) ∧
    (∀ (n : Nat) (p : PAtomic), s.arg = .num n → (s.mem.atomics.find? fun x => decide (x.n = n)) = some p → s.heldBack p = false →
      exec .atomicAtHome s = .next (s.performPending p) ∧
      (isRelease p.op p.sc = false → acquires p.op (syncOrd p.sc) = false →
        let r := ({ s with mem := { s.mem with atomics := s.mem.atomics.filter fun x => decide (x.n ≠ n) } } : State).atomicAt p.core p.vid p.pa p.op p.wide false p.b p.expect false
        s.performPending p = (r.1.saw p.fib p.pa (if p.wide then 8 else 4)).giveOld p.fib p.dst r.2.1)) ∧
    (∀ (f : Fibre) (a : WaitAcc) (since : Nat), s.arg = .fibre f.key → s.fibre? f.key = some f → f.run = .live → f.wait = some { why := .access a, since := since } →
      (a.need = .free ∨ (s.wg a.wg).tag (a.off / 1024) ≠ .poisoned) → s.turnOf (.fibre f.key) = true →
      exec .waitedAccessProceeds s = .next (((s.performAccess f a).passOn f.key a.pc a.rep).settleServed [f.key]) ∧
      ∃ t, exec .waitedAccessProceeds s = .next t ∧
        (a.store = false → ∃ x ∈ t.fibres, x.key = f.key ∧ x.pc = a.pc ∧ x.rep = a.rep ∧ x.wait = none ∧ x.regs = (f.setPhysBytes a.dst (s.padRead a.wg a.off a.size)).regs) ∧
        (a.store = true → t.wgs = (if a.sf then s.landFull a.wg a.off a.data (s.fibreVid f) else s.padWrite a.wg a.off a.data).wgs)) ∧
    (∀ (p : Pub) (r : List Pub), s.mem.pubs = p :: r → (∀ x ∈ r, x.stamp ≠ p.stamp) → ∃ t, exec .publicationComplete s = .next t ∧ t.mem.pubs = r ∧ t.mem.complete = p.stamp ∧
      (s.isRoot p.vid = true → Memory.sorted p.cells = true → (∀ f ∈ s.mem.frames, Memory.sorted f.cells = true) → (∀ line, (s.committed line).length ≤ 3 ∧ ∀ y ∈ s.committed line, y.1.toNat < p.stamp.toNat) → RoomFor s p.cells →
        ∀ a, t.newestByte a = (Memory.get p.cells a).getD (s.newestByte a))) ∧
    (∀ line sector, s.arg = .dram line (.fill sector) → ∃ t, exec .dramAnswer s = .next t ∧ t = (s.useLine line).fill line sector ∧
      ((∀ f ∈ s.mem.frames, Memory.sorted f.cells = true) → Spacious s → ∀ a, t.newestByte a = s.newestByte a)) ∧
    (∀ line, s.arg = .dram line .victim →
      ((s.ways line).length < 16 → exec .dramAnswer s = .next s) ∧
      (∀ f, 16 ≤ (s.ways line).length → s.victim? line = some f → (s.frameStamp f).isSome = true → exec .dramAnswer s = .next (s.dropOldest f.line)) ∧
      (∀ f, 16 ≤ (s.ways line).length → s.victim? line = some f → (s.frameStamp f).isSome = false → f.kind = .priv → exec .dramAnswer s = .next (s.evictPriv f)) ∧
      (∀ f, 16 ≤ (s.ways line).length → s.victim? line = some f → (s.frameStamp f).isSome = false → f.kind = .spec → s.deadVersion f.vid = false → exec .dramAnswer s = .next (s.evictSpec f))) ∧
    (∀ line, s.arg = .num line → line ∈ s.hostDirty → ∃ t, exec .hostWriteThrough s = .next t ∧ line ∉ t.hostDirty ∧ (s.Canonical → ∀ a, t.newestByte a = s.newestByte a) ∧
      (s.Canonical → ∀ a, a / 1024 = line → (∃ y ∈ s.committed line, (Memory.get y.2.cells a).isSome = true) →
        (∀ y ∈ s.committed line, (Memory.get y.2.cells a).isSome = true → y.2.dirty.getLsbD (a / 32 % 32) = true) → Memory.read t.mem.dram a = s.newestByte a)) ∧
    (∀ (f : Fibre) (va : VA) (w : Bool), s.arg = .walk f.key va w → s.fibre? f.key = some f → exec .tableWalk s = .next (s.translate (s.who f) va { read := !w, write := w }).1)

/-- R250, R352 to R364: posts expose commands, the engine reads the next one of a ring, starts the one exposed first on a channel, waits for tags, moves its data and ends it, or stops it; multicast slots are taken, and drained by each rank as its tags and its stream allow; a slot goes with its last rank. -/
def Obligations.CopyEvents : Prop :=
  (∀ (s : State) (n : Nat), s.arg = .num n →
     (∀ p, (s.mem.posts.find? fun x => decide (x.n = n)) = some p → (s.mem.posts.find? fun x => decide (x.fib = p.fib)) = some p →
       let l := s.launch p.fib.wg
       let w := s.wg p.fib.wg
       exec .notifyPost s = .next (s.landPost p) ∧
         ∀ (f : Fibre) (v : Nat), s.fibre? p.fib = some f → atomicLeaves p.op 32 (leVal (s.padRead p.fib.wg l.notifyOff 4)) (p.b.toNat % 2 ^ 32) (p.expect.toNat % 2 ^ 32) = some v →
           l.ringLog2 ≠ 0 → p.sc.toNat / 2 % 2 = 1 → (BitVec.ofNat 32 v - w.ringC).toNat ≤ l.ringSize → (s.wg? p.fib.wg).isSome = true →
           let t := s.landPost p
           (t.wg p.fib.wg).pOld = BitVec.ofNat 32 v ∧ (t.wg p.fib.wg).exposed.length = w.exposed.length + (BitVec.ofNat 32 v - w.pOld).toNat ∧ ∀ x ∈ t.mem.posts, x.n ≠ n) ∧
     (∀ e r, (s.wg n).exposed = e :: r → (s.wg n).resident = true → (s.wg n).stopping = false → (∀ k ∈ (s.core (s.wg n).core).ccmds, k.wg = n → k.token = e.token → k.channel ≠ none) →
       let l := s.launch n
       let bs := s.padRead n (l.ringOff + 32 * (e.idx.toNat % max l.ringSize 1)) 32
       let u := (s.modWg n fun x => { x with exposed := r, ringC := x.ringC + 1 }).padWrite n (l.notifyOff + 4) (bytesOf 4 ((s.wg n).ringC + 1).toNat)
       (s.isSquashed e.vid = true → exec .copyCommandRead s = .next (u.modWg n fun x => x.lowerToken e.token)) ∧
       (s.isSquashed e.vid = false → copyOk bs l = true → exec .copyCommandRead s = .next (({ u with ids := u.ids + 1 } : State).modCore (s.wg n).core fun c => { c with ccmds := c.ccmds ++
         [{ n := u.ids, wg := n, grp := e.grp, idx := e.idx, bytes := bs, token := e.token, vid := e.vid, order := e.order, at_ := e.at_ }] })) ∧
       (s.isSquashed e.vid = false → copyOk bs l = false → exec .copyCommandRead s = .next ((u.copyFault n e.grp e.token e.idx .copyCommand (BitVec.ofNat 64 (ownAperture + (l.ringOff + 32 * (e.idx.toNat % max l.ringSize 1))))).modWg n fun x => x.lowerToken e.token))) ∧
     (∀ core k, s.ccmd? n = some (core, k) →
       let q := copyReq k.bytes
       (s.copyCanStart (s.core core) k = true → (∀ x ∈ (s.core core).ccmds, s.copyCanStart (s.core core) x = true → s.exposedBefore x k = false) →
         exec .copyCommandStart s = .next (s.modCcmd n fun x => { x with channel := some (s.core core).freeChannel, began := s.clock, tagsOk := !q.waits, bad := if q.loads && q.waits then (s.poisonedAt k.wg q.granules).map fun g => (Code.poison, BitVec.ofNat 64 (ownAperture + 1024 * g)) else none })) ∧
       (s.turnOf (.copy n) = true →
         exec .copyTagWaitSatisfied s = .next (let t := s.modCcmd n fun x => { x with tagsOk := true }
           if q.loads then t.modWg k.wg fun w => { w with reserved := w.reserved ++ q.granules.map fun g => (g, Holder.copy n) } else t)) ∧
       (k.channel ≠ none → k.bad = none → q.mcast = 0 →
         (k.moved = false → s.copyReady k q = true → exec .copyCommandComplete s = .next (s.runCopy core k q) ∧
           ∀ x, s.moveCopy core k q = .ok x → s.runCopy core k q =
             (if q.loads then (x.s.landXfer k.wg k.vid q.sf x.rows).endCopy core k
              else (if q.sf && q.stores then q.granules.foldl (fun (t : State) g => t.consume k.wg g) (x.s.postXfer k x) else x.s.postXfer k x).modCcmd k.n fun y => { y with moved := true })) ∧
         (k.moved = true → s.copyPublished k = true → exec .copyCommandComplete s = .next (s.endCopy core k))) ∧
       (∀ c a, k.bad = some (c, a) → s.copyPublished k = true → exec .copyCommandStop s = .next ((s.copyFault k.wg k.grp k.token k.idx c a).endCopy core k)) ∧
       (∀ g, k.bad = none → k.channel ≠ none → k.moved = false → q.stores = true → s.poisonedAt k.wg q.granules = some g →
         exec .copyCommandStop s = .next ((s.copyFault k.wg k.grp k.token k.idx .poison (BitVec.ofNat 64 (ownAperture + 1024 * g))).endCopy core k)) ∧
       (∀ x, k.channel ≠ none → k.bad = none → q.mcast ≠ 0 → (s.mem.slots.filter fun m => decide (m.core / 4 = core / 4)).length < 32 → s.moveCopy core k q = .ok x →
         let ranks := (List.range 4).filter fun r => decide (bits q.mcast r r = 1) && decide ((x.s.clusterWgs k.wg).getD r 0 ≠ 0)
         (q.we = true → ∀ r ∈ ranks, x.s.poisonedAt ((x.s.clusterWgs k.wg).getD r 0) q.granules = none) →
         (ranks = [] → exec .multicastSlotAcquire s = .next (x.s.endCopy core k)) ∧
         (ranks ≠ [] → exec .multicastSlotAcquire s = .next (({ x.s with mem := { x.s.mem with slots := x.s.mem.slots ++ [{ n := n, core := core, wgs := x.s.clusterWgs k.wg, ranks := ranks, rows := x.rows, we := q.we, sf := q.sf, wg := k.wg, grp := k.grp, token := k.token, slot := BitVec.ofNat 10 (k.idx.toNat % max (s.launch k.wg).ringSize 1), vid := k.vid }] } } : State).endCopy core k))))) ∧
  (∀ (s : State) (n rank : Nat) (m : McSlot), s.arg = .two n rank → (s.mem.slots.find? fun x => decide (x.n = n)) = some m → rank ∈ m.ranks →
     let wg := m.wgs.getD rank 0
     (s.wg wg).resident = true → (s.wg wg).stopping = false → (m.we = true → s.allEmpty wg m.vid m.granules = true) → (m.sf = true → ∀ g ∈ m.granules, s.tagMeets wg g m.vid .free = true) →
     drainsFirst (s.mem.slots.takeWhile fun x => decide (x.n ≠ n)) m.wg m.token wg m.spans = false →
       ∃ t, exec .multicastDrain s = .next t ∧ t.wgs = (s.landXfer wg m.vid m.sf m.rows).wgs ∧
         t.mem.slots = if m.ranks.all (fun r => decide (r = rank)) then (s.landXfer wg m.vid m.sf m.rows).mem.slots.filter fun x => decide (x.n ≠ n)
           else (s.landXfer wg m.vid m.sf m.rows).mem.slots.map fun x => if x.n = n then { x with ranks := m.ranks.filter fun r => decide (r ≠ rank) } else x)

/-- R201, R331, R373, R387, R391, R434, R437, R444, R451: what ends a wait: the instruction is tried again; a parked fibre enters its handler; a fault that the part has resolved is replayed; a wait that is overdue ends in the handler with WATCHDOG; a TLBI whose sweep is done goes on. -/
def Obligations.WaitsEnd : Prop :=
  ∀ (s : State) (f : Fibre) (since : Nat), s.arg = .fibre f.key → s.fibre? f.key = some f →
    (∀ r ∈ retryRows, ∀ i, f.wait = some { why := r.2, since := since } → f.seat = .entry i → exec r.1 s = .next { s with agenda := .issue f.core f.part i false :: s.agenda }) ∧
    (∀ (c : Issue) (x : Trap) (lanes : Word), f.issue? = some c → s.liveMembers c = [f] → f.wait = some { why := .trap x lanes, since := since } → s.owedLds f = [] → (∀ g ∈ s.fibres, g.key = f.key → g = f) → s.Settled f →
      ∃ t, exec .trapEntry s = .next t ∧ ∃ g ∈ t.fibres, g.key = f.key ∧ g.pl = .h ∧ g.pc = BitVec.ofNat 48 ((s.launch f.wg).traph.toNat / 2 * 2) ∧ g.wait = none ∧ g.trap = trapRegs x f.pc lanes ∧ g.regs = f.regs) ∧
    (∀ (c : Code) (va : VA) (w : Bool), f.wait = some { why := .hardware c va w, since := since } → (∀ u x, s.translate (s.who f) va { read := !w, write := w } = (u, .fault x) → x.code ≠ c) →
      exec .faultReplay s = .next (s.modFibre f.key fun x => { x with wait := none })) ∧
    (∀ (c : Issue) (why : Why), f.issue? = some c → s.liveMembers c = [f] → (why = .clasp ∨ (∃ a, why = .access a) ∨ (∃ gs pc rep, why = .cons gs pc rep) ∨ (∃ p pc rep, why = .trun p pc rep) ∨ ∃ x va w, why = .hardware x va w) → f.wait = some { why := why, since := since } → since + 2 ^ s.wdShift < s.clock →
      f.pl = .u → (s.launch f.wg).traph ≠ 0 → s.Settled f → s.owedLds f = [] → f.gbar = none → (∀ g ∈ s.fibres, g.key = f.key → g = f) → f.run = .live → s.pooled f.core f.part = [] →
      ∃ t, exec .watchdog s = .next t ∧ ∃ g ∈ t.fibres, g.key = f.key ∧ g.pl = .h ∧ g.trap.cause = BitVec.ofNat 32 Code.watchdog.num ∧ g.pc = BitVec.ofNat 48 ((s.launch f.wg).traph.toNat / 2 * 2) ∧ g.wait = none) ∧
    (∀ (c : Issue) (i mark : Nat), (f.key, mark) ∈ s.mem.sweeps → f.issue? = some c → s.liveMembers c = [f] → f.seat = .entry i → f.wait = some { why := .walk, since := since } → (∀ n, s.inFlight n = false) →
      exec .tlbiSweepDone s = .next { s with agenda := .issue f.core f.part i false :: s.agenda, mem := { s.mem with sweeps := s.mem.sweeps.filter fun x => decide (x.1 ≠ f.key) } }) ∧
    (∀ (c : Issue) (p : BitVec 4) (pc : VA) (rep : Word), s.trunLine = [(c, f.wg, f.grp)] → s.share c (f.wg, f.grp) = [f] → f.muted = false → s.wholeGroup (f.wg, f.grp) [f] = true → (s.group f.wg f.grp).task = none →
      f.wait = some { why := .trun p pc rep, since := since } →
      let fits := (s.core (s.wg f.wg).core).tasks.filter fun k => decide (k.wg = f.wg) && decide (k.width = (s.launch f.wg).shape.toNat % 4)
      (∀ k, pickTask (fits.filter s.eligible) = some k → exec .trunRetry s = .next (((s.startTask c (f.wg, f.grp) p k none).passOn f.key pc rep).settleServed [f.key])) ∧
      (pickTask (fits.filter s.eligible) = none → (∀ k ∈ fits, s.predictable k = none) → (∃ k ∈ (s.core (s.wg f.wg).core).tasks, k.wg = f.wg ∧ k.state ≠ .verify) → exec .trunRetry s = .next s))

/-- R377, R378, R388, R395, R399, R402, R406 to R408: a waiting write's page is copied; frames of a committed version are retagged; a slot that nothing uses becomes FREE; a range's arrival enters its history; the loupe commits or squashes a prediction; domains are enabled, disabled and given a larger pool. -/
def Obligations.VersionEvents : Prop :=
  ∀ (s : State),
    (∀ (f : Fibre) (since : Nat) (va : VA) (w : Bool) (leaf : Nat) (x : Version) (t : State), s.arg = .fibre f.key → s.fibre? f.key = some f → f.wait = some { why := .hardware .versionPage va w, since := since } →
      s.leafAt va.toNat = some leaf → s.version? (s.actual (s.fibreVid f)) = some x → (∀ c ∈ x.copies, c.1 ≠ leaf) → s.copyVersionPage (some f.core) (s.actual (s.fibreVid f)) leaf = some t → exec .versionPageCopy s = .next t) ∧
    (∀ (f : Fibre) (since : Nat) (va : VA) (w : Bool) (leaf : Nat) (x : Version), s.arg = .fibre f.key → s.fibre? f.key = some f → f.wait = some { why := .hardware .versionPage va w, since := since } →
      s.leafAt va.toNat = some leaf → s.version? (s.actual (s.fibreVid f)) = some x → (∃ c ∈ x.copies, c.1 = leaf) → exec .versionPageCopy s = .next s) ∧
    (∀ (v : VID) (line : Nat), s.arg = .two v.toNat line → exec .frameRetag s = .next (s.retag v line)) ∧
    (∀ (v : VID) (x : Version), s.arg = .vid v → s.version? v = some x → s.versionUsed v = false → (x.state = .squashed ∨ (x.state = .committed ∧ ∀ f ∈ s.mem.frames, f.kind = .spec → f.vid ≠ v)) →
      ∃ t, exec .versionSlotFree s = .next t ∧ t.version? v = none ∧ (∀ u, u ≠ v → t.version? u = s.version? u) ∧ ∀ f ∈ t.mem.frames, f.kind = .spec → f.vid ≠ v) ∧
    (∀ (wg i : Nat) (p : PRange), s.arg = .two wg i → s.range? wg i = some p → p.done = false → p.cnt ≤ p.arrived.length →
      let full := decide (∃ j < p.cnt, (s.wg wg).tag (p.first + j) ≠ .empty)
      let after := fun (q : PRange) => { q with done := full, arrived := if full then q.arrived else [], backoff := q.backoff - 1, pending := q.owner.isSome }
      (p.owner = none → exec .rangeArrival s = .next ((s.shiftHistory wg p (s.padRead wg (1024 * p.first) (1024 * p.cnt))).modRange wg p.first after)) ∧
      (p.owner ≠ none → exec .rangeArrival s = .next (((s.physWrite (s.histAt (s.histDomain wg) p.hslot 0xC000) (s.arrivalBytes wg p)).shiftHistory wg p (s.arrivalBytes wg p)).modRange wg p.first after))) ∧
    (∀ (wg i : Nat) (p : PRange), s.arg = .two wg i → s.range? wg i = some p → (p.owner = none ∨ p.pending = false) → exec .loupeCompare s = .next s.finishVerify) ∧
    (∀ (wg i : Nat) (p : PRange) (v : VID), s.arg = .two wg i → s.range? wg i = some p → p.owner = some v → p.pending = true →
      (s.loupePasses wg p = true → exec .loupeCompare s = .next (s.loupeCommit v).finishVerify) ∧
      (s.loupePasses wg p = false → exec .loupeCompare s = .next ((s.squash v).modRange wg p.first fun q => { q with backoff := q.backoffInit, owner := none, pending := false }))) ∧
    (∀ (d : BitVec 4), s.arg = .domain d → s.domains.length = 16 →
      (s.domEnabled d.toNat = false → ∃ t, exec .domainEnable s = .next t ∧ t.domEnabled d.toNat = true ∧ (t.domain d.toNat).accept = 256 ∧ (t.domain d.toNat).effects = [] ∧ (∀ x ∈ t.versions, vidDomain x.vid ≠ d.toNat) ∧ t.fibres = s.fibres) ∧
      (s.domEnabled d.toNat = true → Memory.wf s.ctl = true → ∃ t, exec .domainDisable s = .next t ∧ t.domEnabled d.toNat = false ∧ ∀ x ∈ t.versions, vidDomain x.vid = d.toNat → x.state ≠ .live)) ∧
    (∀ (d : BitVec 4) (v : BitVec 32), s.arg = .domainVal d v → s.domEnabled d.toNat = true → s.poolN d.toNat < v.toNat → v.toNat ≤ s.poolCap d.toNat → s.Canonical →
      ∃ t, exec .domainPoolGrow s = .next t ∧ t.poolN d.toNat = v.toNat ∧ { t with ctl := s.ctl } = s)

/-- R459 to R466, R522: the frame rings, the sweeper's examination of an entry, the window for compression and its end, an expansion that begins and that ends, and a migration. That a page which the settling leaves with speculative frames stays where it is, is the model's reading (log 116). -/
def Obligations.PressureEvents : Prop :=
  ∀ (s : State) (d : Nat), d < s.press.length →
    (s.arg = .die d →
      (∀ f r, (s.pressOf d).free = f :: r → exec .frpop s = .next (s.modPress d fun p => { p with free := r })) ∧
      (∀ f r, (s.pressOf d).cxl = f :: r → exec .cxlpop s = .next (s.modPress d fun p => { p with cxl := r })) ∧
      (s.sweepEn d = true → s.sweepPaused d = false →
        let f := (s.pressOf d).sweepAt
        let u := (s.modPress d fun p => { p with paused := false }).sweepFrame d f
        ∃ t, exec .sweepEntry s = .next t ∧ (t.pressOf d).sweepAt = (if f + 1 = Config.framesPerDie then 0 else f + 1) ∧ (t.pressOf d).ready = (u.pressOf d).ready ∧ t.mem = u.mem) ∧
      (∀ f leaf r, s.compEn d = true → (s.pressOf d).free.length < bits (s.pressReg d 0x18) 31 0 → (s.pressOf d).window = none → (s.pressOf d).ready = (f, leaf) :: r →
        ftState (s.ftWord d f) = ftCold → s.readEntry (s.ftPte d f) = leaf → s.pageSpec (framePa d f) = false →
        ∃ t, exec .compressStart s = .next t ∧ (t.pressOf d).window = some ⟨f, s.ftPte d f⟩ ∧ (t.pressOf d).ready = r) ∧
      (∀ w, (s.pressOf d).window = some w →
        let u := (s.modPress d fun p => { p with window := none }).settlePage (framePa d w.frame)
        let r := if u.pageSpec (framePa d w.frame) then (u, u.readEntry w.leafPa, false) else u.placePage d w.frame (u.readEntry w.leafPa)
        let v := r.1.closeWindow w.leafPa r.2.1
        ftState (s.ftWord d w.frame) = ftWindow →
          exec .compressFinish s = .next (if r.2.2 then v.freeFrame d w.frame else v.setFt d w.frame (ftWith (v.ftWord d w.frame) ftInuse 0))) ∧
      (∀ m x f, (s.pressOf d).move = some m → frameIndex m.src = some (x, f) →
        let u := (s.modPress d fun p => { p with move := none }).settlePage m.src
        let v := ((u.installPage m.dest (u.pageCells m.src)).stampPage m.dest (u.pageStamps m.src)).moveBarriers m.leafPa (fun _ => true) (GbarWait.inFrame m.dest)
        let leaf := setFrame ((v.readEntry m.leafPa &&& ~~~(0x1F#64 <<< 52)) ||| BitVec.ofNat 64 (m.tier * 2 ^ 55 + m.gran * 2 ^ 52)) m.dest
        let z := (v.closeWindow m.leafPa leaf).migState d 2
        (u.pageSpec m.src = false → ftState (z.ftWord x f) = ftInuse ∨ ftState (z.ftWord x f) = ftCold → exec .migrationDone s = .next (z.freeFrame x f)) ∧
        (u.pageSpec m.src = true → exec .migrationDone s = .next ((u.closeWindow m.leafPa (u.readEntry m.leafPa)).migState d 3)))) ∧
    (∀ v, s.arg = .dieVal d v →
      ((s.pressOf d).free.length < ringRoom → exec .frpush s = .next (s.modPress d fun p => { p with free := p.free ++ [v.toNat] })) ∧
      ((s.pressOf d).cxl.length < ringRoom → exec .cxlpush s = .next (s.modPress d fun p => { p with cxl := p.cxl ++ [v.toNat] })) ∧
      (let u := s.setCtl (pressBase d + 0x88) 8 (v &&& 0x01F3FFFFFFFF0000#64).toNat
       let at_ := bits (u.pressReg d 0x80) 49 3 * 8
       let leaf := u.readEntry at_
       let m : Move := { leafPa := at_, src := 65536 * leafFrame leaf, dest := 65536 * bits v.toNat 49 16, tier := bits v.toNat 56 55, gran := bits v.toNat 54 52 }
       (s.pressOf d).move = none → v.getLsbD 0 = true → u.destFree m.dest m.tier = true → leafV leaf = true → leafZ leaf = false → leafWpw leaf = false → u.pageSpec m.src = false →
        exec .migrate s = .next (((u.openWindow at_).migState d 1).modPress d fun p => { p with move := some m }))) ∧
    (∀ (f : Fibre) (since : Nat) (va : VA) (w : Bool) (leaf : Nat) (rd : Nat) (rec_ : ZoneRec) (nf : Nat) (r : List Nat), s.arg = .fibre f.key → s.fibre? f.key = some f → f.wait = some { why := .hardware .compressedPage va w, since := since } →
      s.leafAt va.toNat = some leaf → s.expansionOf leaf = none → leafV (s.readEntry leaf) = true → leafZ (s.readEntry leaf) = true → s.zoneRec (s.readEntry leaf) = some (rd, rec_) → (∀ e ∈ (s.pressOf rd).expanding, e.record ≠ rec_.index) →
      rd < s.press.length →
      ((s.pressOf rd).free = nf :: r → ∃ t, exec .pageExpansion s = .next t ∧ (t.pressOf rd).free = r ∧ (t.pressOf rd).expanding = (s.pressOf rd).expanding ++ [{ leafPa := leaf, pz := s.readEntry leaf, frame := nf, record := rec_.index }]) ∧
      ((s.pressOf rd).free = [] → exec .pageExpansion s = .next s)) ∧
    (∀ (leaf rd : Nat) (e : Expansion), s.arg = .num leaf → s.expansionOf leaf = some (rd, e) → rd < s.press.length →
      ∃ t, exec .pageExpansion s = .next t ∧ t = s.endExpansion rd e ∧
        (∀ x ∈ (t.pressOf rd).expanding, x.leafPa ≠ e.leafPa) ∧ (∀ x ∈ (t.pressOf rd).zone, x.index ≠ e.record) ∧
        (s.readEntry e.leafPa ≠ e.pz → (s.pressOf rd).free.length < ringRoom → (t.pressOf rd).free = (s.pressOf rd).free ++ [e.frame]))

/-- R469 to R474: a serving queue picks a victim below its low mark and reclaims its frames; a channel's retirement starts or is refused, and its rebuild goes through its stripes; an error poisons its line, which is refetched from its host page or has its page quarantined. That the start of a retirement takes the FREE frames off the ring is the model's reading (log 117), and which lines a second failure takes is the model's free value (log 127). -/
def Obligations.EvictionsAndErrors : Prop :=
  ∀ (s : State) (d : Nat),
    (∀ (q : BitVec 8) (r : RingHead) (x : SeqRec) (t : State), s.arg = .queue q → s.evicts q = true → s.ringHead q (s.qKvring q) = some r → r.count < s.qKvlow q → (∀ y ∈ s.sequences q, y.state ≠ 2) →
      victimOf ((s.sequences q).filter fun y => decide (y.state = 1)) = some x → s.kvStore q (x.va + 32) [2] = some t → exec .kvRingCount s = .next t) ∧
    (∀ (q : BitVec 8) (x : SeqRec) (t u : State), s.arg = .queue q → s.evicts q = true → ((s.sequences q).find? fun y => decide (y.state = 2) && decide (field y.bytes 34 2 = 0)) = some x →
      State.reclaim q (field x.bytes 0 8) (field x.bytes 8 4) s 0 = (t, true) → t.kvStore q (x.va + 8) (bytesOf 4 0) = some u → exec .kvVictimReclaim s = .next (u.requeue q x)) ∧
    (∀ (stack : BitVec 3) (chan : BitVec 5), d < s.press.length → s.arg = .dieVal d (BitVec.ofNat 64 (512 + 8 * chan.toNat + stack.toNat)) → stack.toNat < 6 → (∀ r ∈ (s.pressOf d).rebuilds, r.running = false ∧ r.stack ≠ stack) →
      let u := s.setCtl (pressBase d + 0x58) 8 (s.pressReg d 0x58 / 2 ^ 8 * 2 ^ 8 + 8 * chan.toNat + stack.toNat)
      let top := u.pressReg d 0x60 - retireStep
      let v := u.modPress d fun p => { p with rebuilds := { stack := stack, chans := [chan], running := true } :: p.rebuilds }
      (u.framesUsed d top = false → u.areasAbove d top = false →
        ∃ t, exec .channelRetireGo s = .next t ∧ t = ((v.retireFrames d top).setCtl (pressBase d + 0x60) 8 top).setRetire d 1 0 ∧
          (t.pressOf d).rebuilds = { stack := stack, chans := [chan], running := true } :: (s.pressOf d).rebuilds ∧ (t.pressOf d).free = (s.pressOf d).free.filter fun f => decide (f < (top - hbmBase d) / 65536)) ∧
      (u.framesUsed d top = true ∨ u.areasAbove d top = true → exec .channelRetireGo s = .next (u.setRetire d 3 (bits (s.pressReg d 0x58) 63 32)))) ∧
    (s.arg = .die d → (∃ r ∈ (s.pressOf d).rebuilds, r.running = true) →
      let n := (bits (s.pressReg d 0x58) 63 32 + 1) % 2 ^ 32
      (n < Config.stripes → exec .stripeRebuild s = .next (s.setRetire d (bits (s.pressReg d 0x58) 11 10) n)) ∧
      (Config.stripes ≤ n → exec .stripeRebuild s = .next ((s.setRetire d 2 n).modPress d fun p => { p with rebuilds := p.rebuilds.map fun r => { r with running := false } }))) ∧
    (∀ line, s.arg = .num line →
      (∀ x f, frameIndex (1024 * line) = some (x, f) → (ftState (s.ftWord x f) ≠ ftInuse ∧ ftState (s.ftWord x f) ≠ ftCold) ∨ s.ftHbpa x f = 0 ∨ ftRf (s.ftWord x f) = true → exec .uncorrectableError s = .next (s.quarantine line)) ∧
      (∀ x f leaf, frameIndex (1024 * line) = some (x, f) → ftState (s.ftWord x f) = ftInuse ∨ ftState (s.ftWord x f) = ftCold → s.ftHbpa x f ≠ 0 → ftRf (s.ftWord x f) = false → s.frameLeaf x f = some leaf → leafHb leaf = true →
        ∃ t, exec .uncorrectableError s = .next t ∧ line ∈ t.mem.poison ∧ line ∈ t.mem.refetch)) ∧
    (∀ pa, pa / 1024 ∈ s.mem.refetch →
      (s.arg = .refetched pa true → ∃ t, exec .hostRefetchDone s = .next t ∧ (∀ l, l ∈ t.mem.poison ↔ l ∈ s.mem.poison ∧ l ≠ pa / 1024) ∧ (∀ l, l ∈ t.mem.refetch ↔ l ∈ s.mem.refetch ∧ l ≠ pa / 1024) ∧ t.mem.dram = s.mem.dram) ∧
      (s.arg = .refetched pa false → exec .hostRefetchDone s = .next (s.quarantine (pa / 1024))))

/-- R485 to R491, R494, R498, R500, R502, R526: doorbells and their interrupts, the host's accesses to device memory, queues enabled and disabled, packets taken, waits on timelines released, and packets completed. The slots of the device FIFO are the model's reading (log 20), and the layout and masks of the MSI-X table are presumed (log 131). -/
def Obligations.HostQueueEvents : Prop :=
  ∀ (s : State) (q : BitVec 8),
    (∀ v, s.arg = .queueVal q v →
      exec .doorbellTail s = .next (s.wake.modQueue q fun x => x.withTail (v.setWidth 32)) ∧
      (((s.queue q).due = [] → ∃ t, exec .doorbellDridx s = .next t ∧ (t.queue q).dridx = v.setWidth 32 ∧ t.fibres = s.fibres)) ∧
      ((s.queue q).timeline = v → ∃ t, exec .doorbellArm s = .next t ∧ (t.queue q).arm = none ∧ t.front.msix = q.toNat :: s.front.msix ∧
        (s.masked q.toNat = false → t.front.msixSent = q.toNat :: s.front.msixSent) ∧ (s.masked q.toNat = true → t.front.msixSent = s.front.msixSent ∧ q.toNat ∈ t.front.msixPending)) ∧
      (((s.queue q).timeline - v).toInt < 0 → ∃ t, exec .doorbellArm s = .next t ∧ (t.queue q).arm = some v ∧ t.front.msix = s.front.msix)) ∧
    (∀ off data, s.arg = .bytesAt off data → off + data.length ≤ 2 ^ 34 → data ≠ [] → off % 64 + data.length ≤ 64 →
      let pa := s.bar2win.toNat * 2 ^ 34 + off
      s.secureAt pa = false → deviceMemory pa = true → exec .hostBar2Write s = .next (s.physWrite pa data)) ∧
    (∀ off n, s.arg = .two off n → off < 2 ^ 34 →
      let pa := s.bar2win.toNat * 2 ^ 34 + off
      (∀ i < n, s.secureAt (pa + i) = false ∧ deviceMemory (pa + i) = true) →
      ∃ t, exec .hostBar2Read s = .next t ∧ t.front.reads = (List.range n).map (fun i => s.newestByte (pa + i)) :: s.front.reads ∧ t.mem = s.mem) ∧
    (∀ off n v, s.arg = .control off n v → 0x100000 ≤ off → off < 0x200000 → ∃ t, exec .hostBar2Read s = .next t ∧ t.front.reads = (List.range n).map (fun i => s.msixByte (off - 0x100000 + i)) :: s.front.reads ∧ t.mem = s.mem ∧ t.ctl = s.ctl) ∧
    (s.arg = .queue q →
      (s.qEnabled q = false → s.badField q = none → s.badWord q (s.readProgram q) = none → s.Canonical →
        ∃ t, exec .queueEnable s = .next t ∧ t.qEnabled q = true ∧ (t.queue q).program = s.readProgram q ∧ (t.queue q).timeline = 0 ∧ (t.queue q).head = 0 ∧ (t.queue q).tail = 0 ∧ (t.queue q).arrivals = [] ∧
          t.front.msix = match (s.queue q).arm with
            | none => s.front.msix
            | some h => if 0 ≤ (0 - h : DWord).toInt then q.toNat :: s.front.msix else s.front.msix) ∧
      (∀ off, s.qEnabled q = false → s.badField q = some off → exec .queueEnable s = .next (s.setErr q 8 off)) ∧
      (s.Canonical → ∃ t, exec .queueDisable s = .next t ∧ t.qEnabled q = false ∧ t.front = s.front) ∧
      (∀ slot k1 r, maySeize s q → (s.queue q).arrivals = Arrival.fifo slot k1 :: r →
        ∃ t p, exec .packetTake s = .next t ∧ (t.queue q).packet = some p ∧ p.record = s.physRead (s.qField q 16 8 + 256 * slot) 256 ∧ p.orig = p.record ∧ p.k1 = k1 ∧ p.seq = (s.queue q).seq ∧ p.pc = 0 ∧ p.regs = List.replicate 15 0 ++ [BitVec.ofNat 64 (s.queue q).seq] ∧
          (t.queue q).arrivals = r ∧ (t.queue q).head = (s.queue q).head) ∧
      (∀ i r, maySeize s q → (s.queue q).arrivals = Arrival.ring i :: r →
        ∃ t p, exec .packetTake s = .next t ∧ (t.queue q).packet = some p ∧ p.record = s.frontRead q (s.qRing q + 256 * (i.toNat % 2 ^ s.qLog2h q)) 256 ∧ p.k1 = 0 ∧ (t.queue q).head = (s.queue q).head + 1) ∧
      (∀ p v x, (s.queue q).packet = some p → p.stage = .qwait v x → 0 ≤ ((s.queue x).timeline - v).toInt → exec .timelineWaitRelease s = .next (s.withHand q (p.goto (p.pc + 1)))) ∧
      (∀ p, (s.queue q).packet = some p → p.stage = .entryWait → 0 ≤ ((s.queue (BitVec.ofNat 8 (leVal ((p.orig.drop 152).take 1)))).timeline - BitVec.ofNat 64 (leVal ((p.orig.drop 144).take 8))).toInt →
        exec .timelineWaitRelease s = .next (s.withHand q { p with stage := stageOf p.orig })) ∧
      (∀ x r, (s.queue q).flights = x :: r → s.packetOver q x = true → x.owes = false → s.ringStall q = false → exec .packetComplete s = .next (s.completePacket q x)))

/-- R506, R510, R511, R514 to R518, R521: a peer's request is translated at U, performed and answered; replies reach their requests; the link's failures; the collective engine's tables, ring, commands, messages and completions. -/
def Obligations.PeersAndCollectives : Prop :=
  ∀ (s : State),
    exec .d2dLaneFailure s = .next s ∧
    (∃ t, exec .d2dLinkFailure s = .next t ∧ t.stopped = some .link ∧ t.mem = s.mem ∧ t.fibres = s.fibres) ∧
    (∀ (r : PeerIn) (v u : VID) (s1 : State) (pa : Nat), s.arg = .request r → s.arrivingVid r.rvid = some v → r.va.toNat + r.op.size ≤ ownAperture →
      s.engineTranslate { level := .u, secure := false, vid := v } r.va r.op.need r.op.size 4 = .ok s1 (pa, u) → isMemory pa = true → exec .peerRequest s = .next ((s1.servePeer u pa r.op).1.answerPeer r (s1.servePeer u pa r.op).2)) ∧
    (∀ (n : Nat) (r : PeerReq), (s.mem.peers.find? fun x => decide (x.n = n)) = some r →
      (s.arg = .reply n .ack → r.waits = false → exec .peerReply s = .next (s.endPeer n)) ∧
      (s.arg = .reply n .error ∨ s.arg = .reply n .poison → r.waits = false → exec .peerReply s = .next ((s.endPeer n).failedPost r)) ∧
      (∀ bs regs f, s.arg = .reply n (.data bs) → r.waits = true → r.got = none → r.bad = none → r.dst = .lanes regs → r.acq = 0 → (∀ x ∈ s.mem.peers, r.behind x = false) →
        s.fibre? r.fib = some f → r.casFailed bs = false → (∀ g ∈ s.fibres, g.key = f.key → g = f) → (∀ e ∈ (s.domain (vidDomain (s.fibreVid f))).effects, e.fib ≠ f.key) →
        ∃ t, exec .peerReply s = .next t ∧ (∀ x ∈ t.mem.peers, x.n ≠ n) ∧ ∃ g ∈ t.fibres, g.key = f.key ∧ g.regs = (f.setPhysBytes regs bs).regs ∧ g.pc = f.pc ∧ g.wait = f.wait) ∧
      (∀ bs, s.arg = .reply n (.data bs) → r.waits = true → r.got = none → r.bad = none → r.dst = .record → (∀ x ∈ s.mem.peers, r.behind x = false) →
        exec .peerReply s = .next ((s.modPeer n fun x => { x with got := some bs }).retryFor n))) ∧
    (∀ (v : Nat) (bs : List Byte), s.arg = .num v →
      (bs = s.collRead (bits v 49 4 * 16) (16 + 8 * min (leVal (s.collRead (bits v 49 4 * 16) 2)) 1024) → tableFault s.station bs = 0 →
        ∃ t, exec .collectiveTableLoad s = .next t ∧ t.coll.valid = s.coll.valid ||| (1#16 <<< (v % 16)) ∧ t.mem = s.mem) ∧
      (bs = s.collRead (bits v 49 4 * 16) (16 + 8 * min (leVal (s.collRead (bits v 49 4 * 16) 2)) 1024) → tableFault s.station bs ≠ 0 →
        ∃ t, exec .collectiveTableLoad s = .next t ∧ t.coll.valid = s.coll.valid &&& ~~~(1#16 <<< (v % 16)) ∧ t.mem = s.mem) ∧
      (v % 16 = 0 → exec .collectiveRingConfig s = .next (s.setCtl 0x48 8 0)) ∧
      (∀ u, 4 ≤ v % 16 → v % 16 ≤ 10 → s.crLog2 = 0 → s.collWrite (s.crNotify + 4) (bytesOf 4 0) = .done u →
        exec .collectiveRingConfig s = .next (({ u with coll := { u.coll with pOld := 0, c := 0 } } : State).setCtl 0x48 8 (v % 16))) ∧
      (∀ c st, (s.coll.cmds.find? fun x => decide (x.n = v)) = some c → c.status = some st → s.collWrites c = false →
        ∃ t, exec .collectiveComplete s = .next t ∧ (∀ x ∈ t.coll.cmds, x.n ≠ v) ∧ t.mem = (s.collDone c.doneW.toNat st).mem)) ∧
    (∀ p by_ r, s.coll.posts = (p, by_) :: r →
      ((p - s.coll.c).toNat ≤ 2 ^ s.crLog2 → exec .collectivePost s = .next { s with coll := { s.coll with posts := r, pOld := p, exposed := s.coll.exposed ++ List.replicate (p - s.coll.pOld).toNat by_ } }) ∧
      (2 ^ s.crLog2 < (p - s.coll.c).toNat → ∃ t, exec .collectivePost s = .next t ∧ t.coll = { s.coll with posts := r } ∧ t.ctl = (s.setCtl 0x58 8 (bits (s.ctlNat 0x58 8) 1 1 * 2 + 1)).ctl)) ∧
    (∀ by_ r s1 bs, s.coll.exposed = by_ :: r → s.fenced by_.1 by_.2 3 = false → State.engineFetch (collKey 0) none 2 s s.whoColl (BitVec.ofNat 48 (s.crBase + 64 * (s.coll.c.toNat % 2 ^ s.crLog2))) 64 = .ok s1 bs →
      let u := s1.dropReplies (collKey 0)
      (∀ t, u.collOk bs = true → u.collBegin bs by_ = some t → exec .collectiveCommandRead s = .next (t.collCount (s.coll.c + 1))) ∧
      (u.collOk bs = false → exec .collectiveCommandRead s = .next ((u.collInvalid bs by_).collCount (s.coll.c + 1)))) ∧
    (∀ (m : CollIn), s.arg = .collective m → (s.collFor m = none → exec .collectivePartialArrive s = .next { s with coll := { s.coll with early := s.coll.early ++ [m] } }) ∧
      (∀ c child elems, s.collFor m = some c → m.msg = .part child c.op c.ty c.count elems → (∃ i ∈ s.topoChildren c.topo, i ≠ child ∧ i ∉ c.children) → c.sentUp = false → c.op ≠ 2 →
        exec .collectivePartialArrive s = .next { s with coll := { s.coll with cmds := s.coll.cmds.map fun x => if x.n = c.n then { c with children := child :: c.children, acc := List.zipWith (collCombine c.ty) c.acc elems } else x } }))

/-- R520 to R523, R526, R528, R529: reset, writes of the control space, of the MSI-X table and of status bits, reports of failed channels, quotes, the power tick and the low state. The layout of the MSI-X table is presumed (log 131). -/
def Obligations.PlatformEvents : Prop :=
  ∀ (s : State),
    (∃ t, exec .deviceReset s = .next t ∧ { t with mem := {}, agenda := [], fresh := 0 } = State.reset ∧ { t.mem with dram := [] } = State.reset.mem ∧ (Memory.wf s.mem.dram = true → ∀ a, Memory.read t.mem.dram a = if regionOf a = .host then Memory.read s.mem.dram a else 0)) ∧
    (∀ d stack chan, s.arg = .channel d stack chan → (∀ r ∈ (s.pressOf (d % 2)).rebuilds, r.stack = stack → r.running = false) →
      ∃ t, exec .channelFailureReport s = .next t ∧ t.ctl = (s.setCtl 0x28 8 (s.ctlNat 0x28 8 / 2 ^ 15 * 2 ^ 15 + 2 ^ 14 + d % 2 * 2 ^ 13 + stack.toNat * 2 ^ 10 + chan.toNat * 2 ^ 5)).ctl ∧
        t.front.msix = if s.ctlNat 0x28 8 / 2 ^ 14 % 2 = 1 then s.front.msix else 256 :: s.front.msix) ∧
    (∀ d stack chan r a, s.arg = .channel d stack chan → s.ctlNat 0x28 8 / 2 ^ 14 % 2 = 1 → ((s.pressOf (d % 2)).rebuilds.find? fun r => decide (r.stack = stack) && r.running) = some r → r.chans.getLast? = some a → a ≠ chan →
      let u := s.setCtl 0x28 8 (s.ctlNat 0x28 8 / 2 ^ 15 * 2 ^ 15 + 2 ^ 14 + d % 2 * 2 ^ 13 + stack.toNat * 2 ^ 10 + chan.toNat * 2 ^ 5)
      exec .channelFailureReport s = .next ((linesLost (d % 2) stack a chan (bits (u.pressReg (d % 2) 0x58) 63 32)).foldl (fun (t : State) l => t.uncorrectable l) u)) ∧
    (∀ n v, s.arg = .control 0x58 n v → Memory.wf s.ctl = true → ∃ t, exec .statusW1c s = .next t ∧ t.ctlNat 0x58 8 = (BitVec.ofNat 64 (s.ctlNat 0x58 8) &&& ~~~(v &&& 3)).toNat) ∧
    (∀ n v, s.arg = .control 0x28 n v → (BitVec.ofNat 64 (s.ctlNat 0x28 8) &&& v &&& 0xC000) ≠ 0 →
      ∃ t, exec .statusW1c s = .next t ∧ t.ctl = (s.setCtl 0x28 8 (BitVec.ofNat 64 (s.ctlNat 0x28 8) &&& ~~~(v &&& 0xC000)).toNat).ctl ∧ t.front.msix = 256 :: s.front.msix) ∧
    (∀ v, s.arg = .control 0x08 8 v → Memory.wf s.ctl = true → ∃ t, exec .controlRegisterWrite s = .next t ∧ t.station = v.toNat % 1024 ∧ t.mem = s.mem ∧ t.fibres = s.fibres) ∧
    (∀ v, s.arg = .num v → exec .controlRegisterWrite s = .next { s with bar2win := BitVec.ofNat 16 v }) ∧
    (∀ off v, s.arg = .two off v → off < 4112 → Memory.wf s.front.msixTable = true →
      ∃ t, exec .controlRegisterWrite s = .next t ∧ t.front.msixPending = (s.front.msixPending.filter fun x => t.masked x) ∧ t.front.msixSent = (s.front.msixPending.filter fun x => !(t.masked x)) ++ s.front.msixSent ∧
        (∀ i, i < 4112 → Memory.read t.front.msixTable i = if i / 4 = off / 4 then BitVec.ofNat 8 (v % 2 ^ 32 / 2 ^ (8 * (i % 4))) else Memory.read s.front.msixTable i) ∧ t.mem = s.mem ∧ t.fibres = s.fibres) ∧
    (∀ nonce, s.arg = .nonce nonce → nonce.length = 48 →
      exec .attestationQuote s = .next { s with quotes := ((s.meas.flatMap fun m => bytesOf 48 m.toNat) ++ nonce ++ Config.sign ((s.meas.flatMap fun m => bytesOf 48 m.toNat) ++ nonce)) :: s.quotes }) ∧
    (∀ temp watts avg, s.arg = .power temp watts avg → temp < 110 → ∃ t, exec .powerTick s = .next t ∧ t.power.junction = BitVec.ofNat 8 temp ∧ { t with power := s.power } = s ∧
      t.power.step = BitVec.ofNat 4 (nextStep s.power.step.toNat (bits (s.ctlNat 0x60000 8) 11 0) (bits (s.ctlNat 0x60008 8) 11 8) temp watts avg)) ∧
    ((∀ q, s.qEnabled q = false) → (∀ w ∈ s.wgs, w.resident = false) → ∃ t, exec .enterLow s = .next t ∧ t.power = { s.power with low := true } ∧ t.mem = s.mem ∧ t.ctl = s.ctl ∧ ∀ c ∈ t.cores, c.tlb = [] ∧ c.lastPages = [])

/-- R36 to R45, R492, R493: the decoder gives back every well-formed instruction from its word, with every operand at every value that the encoding admits. -/
def Obligations.DecodingUndoesEncoding : Prop :=
  (∀ (i : Instr) (w : Word), i.wellFormed = true → encode i = some w → decode w = some i) ∧ (∀ (i : Instr) (w : Word), encodeQ i = some w → decodeQ w = some i)

/-- R40, R44, R46, R494: a word that decodes is the word of its instruction, and its reserved fields are in order: no bit of a word is passed over, and every other word is refused. -/
def Obligations.EncodingUndoesDecoding : Prop :=
  (∀ (w : Word) (i : Instr), decode w = some i → encode i = some w ∧ i.wellFormed = true) ∧ (∀ (w : Word) (i : Instr), decodeQ w = some i → encodeQ i = some w)

/-- R39 to R45, R493: words written out from their encodings decode to the instructions that they stand for, and encode back; a word with a bit set in a zero field, or with an unassigned major, is refused. -/
def Obligations.WordsStandForTheirInstructions : Prop :=
  (∀ x ∈ fibreWords, decode (BitVec.ofNat 32 x.1) = some x.2 ∧ encode x.2 = some (BitVec.ofNat 32 x.1)) ∧
  (∀ x ∈ queueWords, decodeQ (BitVec.ofNat 32 x.1) = some x.2 ∧ encodeQ x.2 = some (BitVec.ofNat 32 x.1)) ∧
  decode 0x5F000001#32 = none ∧ decode 0x00000000#32 = none ∧ decodeQ 0x38000001#32 = none

/-- R36, R50, R447, R492: a step runs the instruction that it fetches and decodes: a fibre's word at its pc, which is the four newest bytes there, least significant first; a word of a queue's program; or the event that the next turn brings on. A device that has stopped stays stopped. That a fetch reads the newest committed bytes is the model's choice (log 108). -/
def Obligations.StepRunsTheDecodedInstruction : Prop :=
  ∀ (s : State) (r : List Turn),
    (∀ w, s.stopped = some w → step s = .fault (.deviceStopped w)) ∧
    (s.stopped = none →
      (∀ (core part entry : Nat) (f : Fibre) (u : State) (w : Word) (i : Instr),
        let c : Issue := { core := core, part := part, entry := entry }
        let s0 : State := { s with agenda := r, late := false }
        s.agenda = .issue core part entry false :: r → s0.liveMembers c = [f] → f.wait = none → f.notBefore ≤ s.clock → f.rep.toNat % 128 = 0 → f.pc.toNat % 4 = 0 →
        s0.outranked c = false → (∀ x ∈ s0.members c, s0.asking x.key = false) → (∀ q ∈ s.mem.peers, q.got = none) → (∀ m ∈ (s.core f.core).mcmds, f.key ∉ m.signers) →
        s0.fetchAt f f.pl f.pc = (u, .ok w) → (∀ g ∈ u.groups, g.flying = []) → (u.core f.core).mcmds = (s.core f.core).mcmds →
        (∀ x ∈ u.members c, (∀ l ∈ u.mem.loads, l.fib.wg ≠ x.wg) ∧ (∀ p ∈ u.mem.atomics, p.fib.wg ≠ x.wg) ∧ ∀ p ∈ u.mem.posts, p.fib.wg ≠ x.wg) → decode w = some i →
        step s = ranOn i { u.noteIssue c with cur := some { c with form := if w.getLsbD 31 then .high else .full } }) ∧
      (∀ (q : BitVec 8) (p : Packet) (w : Word) (i : Instr), s.agenda = .queue q :: r → (s.queue q).packet = some p → p.stage = .program → (s.queue q).program[p.pc]? = some w → decodeQ w = some i →
        step s = ranOn i { s with agenda := r, curQ := some q }) ∧
      (∀ (i : Instr) (a : Arg), s.agenda = .event i a :: r → step s = ranOn i { s with agenda := r, arg := a })) ∧
    (∀ (f : Fibre) (s1 : State) (pa lp : Nat) (v : VID) (leaf : BitVec 64), f.pc.toNat < ownAperture → s.translate { s.who f with level := f.pl } f.pc { exec := true, read := false } = (s1, .ok pa v lp leaf) → isMemory pa = true →
      s.fetchAt f f.pl f.pc = (s1, .ok (BitVec.ofNat 32 (leVal (s1.newestBytes v pa 4)))))

/-- R21, R252, R258, R277, R278, R378, R379, R520, R521, R526, R528: what reset leaves, by the values that the manual states; and every memory is then in its canonical form. -/
def Obligations.ResetState : Prop :=
  let s := State.reset
  s.Canonical ∧ s.clock = 0 ∧ s.mem.stamp = 0 ∧ s.mem.complete = 0 ∧ s.mem.frames = [] ∧ s.cores.length = 48 ∧
    (∀ c ∈ s.cores, c.sigma = 0 ∧ c.caught = 0 ∧ c.lines = [] ∧ c.tasks = [] ∧ c.mcmds = [] ∧ c.ccmds = []) ∧
    s.domains.length = 16 ∧ (∀ d ∈ s.domains, d.accept = 256 ∧ d.floor = 0 ∧ d.effects = []) ∧ (∀ v, s.version? v = none) ∧
    s.meas = List.replicate 8 0 ∧ s.power.step = 0 ∧ s.stopped = none ∧
    s.ctlNat 0x00 8 = 0xCA29000000000001 ∧ s.station = 0 ∧ s.wdShift = 34 ∧ s.ageShift = 12 ∧ s.ptRoot = 0 ∧ s.tsave = 0 ∧ s.crLog2 = 0 ∧ s.saveN = 0 ∧ s.stkN = 0 ∧
    (∀ d < 2, s.cmaxKib d = 32 ∧ s.coldAge d = 3 ∧ s.sweepEn d = false ∧ s.compEn d = false ∧ s.pressReg d 0x60 = hbmBase d + 0x5A00000000 ∧ bits (s.pressReg d 0) 7 4 = 4) ∧
    bits (s.ctlNat 0x60000 8) 11 0 = 2800 ∧ bits (s.ctlNat 0x60008 8) 11 8 = 8 ∧ (∀ q, s.qEnabled q = false) ∧ (∀ d < 16, s.domEnabled d = false)

/-- 00 R5, 10 R245, R247, R252, R258, R277, R317: every step keeps every memory in its canonical form: no byte is listed twice, and none that reads 0 by itself. -/
def Obligations.StepsKeepMemoriesCanonical : Prop := ∀ s t : State, s.Canonical → step s = .next t → t.Canonical
end

