-- ==== Sys2Proof/Laws/Memory.lean ====
section
/-! SUPPORT. The laws of byte lists: what a read after a write gives, that every operation keeps the canonical form, and that little-endian bytes hold the number that was put into them. -/

namespace Sys2Proof.Machine.Memory

/-! Rising addresses. -/

theorem risingFrom_mono {lo hi : Nat} {m : Cells} (h : lo ≤ hi) (r : risingFrom hi m = true) : risingFrom lo m = true := by
  cases m with
  | nil => rfl
  | cons x r' => simp only [risingFrom, Bool.and_eq_true, decide_eq_true_eq] at *; exact ⟨by omega, r.2⟩

theorem get_of_rising {lo a : Nat} {m : Cells} (r : risingFrom lo m = true) (h : a < lo) : get m a = none := by
  cases m with
  | nil => rfl
  | cons x r' =>
    simp only [risingFrom, Bool.and_eq_true, decide_eq_true_eq] at r
    simp only [get]
    rw [if_neg (by omega), if_pos (by omega)]

/-- A listed byte reads as it was listed, and every other address reads as before. -/
theorem get_put (m : Cells) (a : Nat) (b : Byte) (p : Nat) : get (put m a b) p = if p = a then some b else get m p := by
  induction m with
  | nil =>
    simp only [put, get]
    split
    · rfl
    · split <;> rfl
  | cons x r ih =>
    obtain ⟨k, c⟩ := x
    simp only [put]
    split
    · subst a
      simp only [get]
      split
      · rfl
      · rfl
    · split
      · simp only [get]
        by_cases h1 : p = a
        · simp [h1]
        · rw [if_neg h1, if_neg h1]
          by_cases h2 : p < a
          · rw [if_pos h2, if_neg (by omega), if_pos (by omega)]
          · rw [if_neg h2]
      · simp only [get, ih]
        by_cases h1 : p = a
        · subst p; rw [if_neg (by omega), if_neg (by omega)]; simp
        · simp [h1]

theorem put_rising {lo : Nat} {m : Cells} {a : Nat} (b : Byte) (h : risingFrom lo m = true) (ha : lo ≤ a) : risingFrom lo (put m a b) = true := by
  induction m generalizing lo with
  | nil => simp [put, risingFrom, ha]
  | cons x r ih =>
    obtain ⟨k, c⟩ := x
    simp only [risingFrom, Bool.and_eq_true, decide_eq_true_eq] at h
    simp only [put]
    split
    · subst a; simp [risingFrom, h.1, h.2]
    · split
      · simp only [risingFrom, Bool.and_eq_true, decide_eq_true_eq]
        exact ⟨ha, by omega, h.2⟩
      · simp only [risingFrom, Bool.and_eq_true, decide_eq_true_eq]
        exact ⟨h.1, ih h.2 (by omega)⟩

theorem del_rising {lo : Nat} {m : Cells} (a : Nat) (h : risingFrom lo m = true) : risingFrom lo (del m a) = true := by
  induction m generalizing lo with
  | nil => rfl
  | cons x r ih =>
    obtain ⟨k, c⟩ := x
    simp only [risingFrom, Bool.and_eq_true, decide_eq_true_eq] at h
    simp only [del]
    split
    · exact risingFrom_mono (by omega) h.2
    · split
      · simp [risingFrom, h.1, h.2]
      · simp only [risingFrom, Bool.and_eq_true, decide_eq_true_eq]; exact ⟨h.1, ih h.2⟩

theorem get_del_of_rising {lo : Nat} {m : Cells} (a p : Nat) (h : risingFrom lo m = true) : get (del m a) p = if p = a then none else get m p := by
  induction m generalizing lo with
  | nil => simp [del, get]
  | cons x r ih =>
    obtain ⟨k, c⟩ := x
    simp only [risingFrom, Bool.and_eq_true, decide_eq_true_eq] at h
    simp only [del]
    split
    · subst a
      by_cases h1 : p = k
      · subst p; simp [get_of_rising h.2 (Nat.lt_succ_self k)]
      · simp only [get, h1, if_false]
        split
        · exact get_of_rising h.2 (by omega)
        · rfl
    · split
      · by_cases h1 : p = a
        · subst p; simp only [get]; rw [if_neg (by omega), if_pos (by omega)]; simp
        · simp [h1]
      · simp only [get, ih h.2]
        by_cases h1 : p = a
        · subst p; rw [if_neg (by omega), if_neg (by omega)]; simp
        · simp [h1]

theorem filter_rising {lo : Nat} {m : Cells} (q : Nat × Byte → Bool) (h : risingFrom lo m = true) : risingFrom lo (m.filter q) = true := by
  induction m generalizing lo with
  | nil => rfl
  | cons x r ih =>
    obtain ⟨k, c⟩ := x
    simp only [risingFrom, Bool.and_eq_true, decide_eq_true_eq] at h
    simp only [List.filter_cons]
    split
    · simp only [risingFrom, Bool.and_eq_true, decide_eq_true_eq]; exact ⟨h.1, ih h.2⟩
    · exact risingFrom_mono (by omega) (ih h.2)

/-! Lists that say which bytes are present. -/

theorem put_sorted {m : Cells} (a : Nat) (b : Byte) (h : sorted m = true) : sorted (put m a b) = true := put_rising b h (Nat.zero_le a)

theorem del_sorted {m : Cells} (a : Nat) (h : sorted m = true) : sorted (del m a) = true := del_rising a h

theorem filter_sorted {m : Cells} (q : Nat × Byte → Bool) (h : sorted m = true) : sorted (m.filter q) = true := filter_rising q h

theorem clear_sorted {m : Cells} (lo n : Nat) (h : sorted m = true) : sorted (clear m lo n) = true := filter_sorted _ h

theorem within_sorted {m : Cells} (lo n : Nat) (h : sorted m = true) : sorted (within m lo n) = true := filter_sorted _ h

theorem overlay_sorted {m : Cells} (top : Cells) (h : sorted m = true) : sorted (overlay m top) = true := by
  unfold overlay
  induction top generalizing m with
  | nil => exact h
  | cons x r ih => exact ih (put_sorted x.1 x.2 h)

theorem putN_sorted {m : Cells} (a : Nat) (bs : List Byte) (h : sorted m = true) : sorted (putN m a bs) = true := by
  induction bs generalizing m a with
  | nil => exact h
  | cons b r ih => exact ih (a + 1) (put_sorted a b h)

/-! Memories whose unlisted bytes read 0. -/

theorem sorted_of_wf {m : Cells} (h : wf m = true) : sorted m = true := by simp only [wf, Bool.and_eq_true] at h; exact h.1

theorem mem_put {m : Cells} {a : Nat} {b : Byte} {x : Nat × Byte} (h : x ∈ put m a b) : x = (a, b) ∨ x ∈ m := by
  induction m with
  | nil => simpa [put] using h
  | cons y r ih =>
    obtain ⟨k, c⟩ := y
    simp only [put] at h
    split at h
    · simp only [List.mem_cons] at h ⊢; exact h.imp_right .inr
    · split at h
      · simpa [List.mem_cons] using h
      · simp only [List.mem_cons] at h ⊢
        rcases h with h | h
        · exact .inr (.inl h)
        · exact (ih h).imp_right .inr

theorem mem_del {m : Cells} {a : Nat} {x : Nat × Byte} (h : x ∈ del m a) : x ∈ m := by
  induction m with
  | nil => simp [del] at h
  | cons y r ih =>
    obtain ⟨k, c⟩ := y
    simp only [del] at h
    split at h
    · exact List.mem_cons_of_mem _ h
    · split at h
      · exact h
      · simp only [List.mem_cons] at h ⊢
        exact h.imp_right ih

theorem put_wf {m : Cells} {a : Nat} {b : Byte} (h : wf m = true) (hb : b ≠ 0) : wf (put m a b) = true := by
  simp only [wf, Bool.and_eq_true, List.all_eq_true, decide_eq_true_eq] at *
  exact ⟨put_rising b h.1 (Nat.zero_le a), fun x hx => (mem_put hx).elim (fun e => e ▸ hb) (h.2 x)⟩

theorem del_wf {m : Cells} (a : Nat) (h : wf m = true) : wf (del m a) = true := by
  simp only [wf, Bool.and_eq_true, List.all_eq_true, decide_eq_true_eq] at *
  exact ⟨del_rising a h.1, fun x hx => h.2 x (mem_del hx)⟩

theorem filter_wf {m : Cells} (q : Nat × Byte → Bool) (h : wf m = true) : wf (m.filter q) = true := by
  simp only [wf, Bool.and_eq_true, List.all_eq_true, decide_eq_true_eq] at *
  exact ⟨filter_rising q h.1, fun x hx => h.2 x (List.mem_of_mem_filter hx)⟩

theorem clear_wf {m : Cells} (lo n : Nat) (h : wf m = true) : wf (clear m lo n) = true := filter_wf _ h

theorem write_wf {m : Cells} (a : Nat) (b : Byte) (h : wf m = true) : wf (write m a b) = true := by
  unfold write
  split
  · exact del_wf a h
  · exact put_wf h ‹_›

theorem writeN_wf {m : Cells} (a : Nat) (bs : List Byte) (h : wf m = true) : wf (writeN m a bs) = true := by
  induction bs generalizing m a with
  | nil => exact h
  | cons b r ih => exact ih (a + 1) (write_wf a b h)

theorem writeAll_wf {m : Cells} (top : Cells) (h : wf m = true) : wf (writeAll m top) = true := by
  unfold writeAll
  induction top generalizing m with
  | nil => exact h
  | cons x r ih => exact ih (write_wf x.1 x.2 h)

/-- A byte reads as it was written, and every other address reads as before. -/
theorem read_write {m : Cells} (a : Nat) (b : Byte) (p : Nat) (h : wf m = true) : read (write m a b) p = if p = a then b else read m p := by
  unfold write
  split
  · subst b
    unfold read
    rw [get_del_of_rising a p (sorted_of_wf h)]
    split <;> simp
  · unfold read
    rw [get_put]
    split <;> simp

/-- Written bytes read as written, and every other address reads as before. -/
theorem read_writeN {m : Cells} (a : Nat) (bs : List Byte) (p : Nat) (h : wf m = true) :
    read (writeN m a bs) p = if a ≤ p ∧ p < a + bs.length then bs.getD (p - a) 0 else read m p := by
  induction bs generalizing m a with
  | nil => simp only [writeN, List.length_nil]; rw [if_neg (by omega)]
  | cons b r ih =>
    simp only [writeN, List.length_cons]
    rw [ih (a + 1) (write_wf a b h), read_write a b p h]
    by_cases h1 : p = a
    · subst p; rw [if_neg (by omega), if_pos rfl, if_pos (by omega)]; simp
    · rw [if_neg h1]
      by_cases h2 : a + 1 ≤ p ∧ p < a + 1 + r.length
      · rw [if_pos h2, if_pos (by omega)]
        obtain ⟨n, hn⟩ : ∃ n, p - a = n + 1 := ⟨p - a - 1, by omega⟩
        rw [hn, show p - (a + 1) = n by omega]; simp
      · rw [if_neg h2, if_neg (by omega)]

theorem readN_length (m : Cells) (a n : Nat) : (readN m a n).length = n := by simp [readN]

/-- Bytes that were written read back. -/
theorem readN_writeN {m : Cells} (a : Nat) (bs : List Byte) (h : wf m = true) : readN (writeN m a bs) a bs.length = bs := by
  apply List.ext_getElem
  · simp [readN]
  · intro i h1 h2
    simp only [readN, List.getElem_map, List.getElem_range]
    rw [read_writeN a bs _ h, if_pos (by omega)]
    simp [h2]

/-- Bytes outside what was written read as before. -/
theorem readN_writeN_apart {m : Cells} (a : Nat) (bs : List Byte) (b n : Nat) (h : wf m = true) (d : b + n ≤ a ∨ a + bs.length ≤ b) :
    readN (writeN m a bs) b n = readN m b n := by
  unfold readN
  apply List.map_congr_left
  intro i hi
  have := List.mem_range.mp hi
  rw [read_writeN a bs _ h, if_neg (by omega)]

end Sys2Proof.Machine.Memory

namespace Sys2Proof.Machine

theorem leBytes_length (n v : Nat) : (leBytes n v).length = n := by
  induction n generalizing v with
  | zero => rfl
  | succ n ih => simp [leBytes, ih]

/-- Little-endian bytes hold the number that was put into them, modulo their width. -/
theorem leNat_leBytes (n v : Nat) : leNat (leBytes n v) = v % 256 ^ n := by
  induction n generalizing v with
  | zero => simp [leBytes, leNat, Nat.mod_one]
  | succ n ih =>
    simp only [leBytes, leNat, ih, BitVec.toNat_ofNat]
    rw [show (256 : Nat) ^ (n + 1) = 256 * 256 ^ n by rw [Nat.pow_succ, Nat.mul_comm], Nat.mod_mul]

end Sys2Proof.Machine
end

