-- ==== Sys2Proof/Laws/State.lean ====
section
/-! SUPPORT. What each update of the state leaves of each field, and what a record reads as after an update. -/

namespace Sys2Proof.Machine

/-! modFibre. -/

@[simp] theorem State.modFibre_fibres (s : State) (k : FibreKey) (g : Fibre → Fibre) : (s.modFibre k g).fibres = s.fibres.map fun f => if f.is k then g f else f := rfl
@[simp] theorem State.modFibre_groups (s : State) (k : FibreKey) (g : Fibre → Fibre) : (s.modFibre k g).groups = s.groups := rfl
@[simp] theorem State.modFibre_wgs (s : State) (k : FibreKey) (g : Fibre → Fibre) : (s.modFibre k g).wgs = s.wgs := rfl
@[simp] theorem State.modFibre_grids (s : State) (k : FibreKey) (g : Fibre → Fibre) : (s.modFibre k g).grids = s.grids := rfl
@[simp] theorem State.modFibre_cores (s : State) (k : FibreKey) (g : Fibre → Fibre) : (s.modFibre k g).cores = s.cores := rfl
@[simp] theorem State.modFibre_mem (s : State) (k : FibreKey) (g : Fibre → Fibre) : (s.modFibre k g).mem = s.mem := rfl
@[simp] theorem State.modFibre_versions (s : State) (k : FibreKey) (g : Fibre → Fibre) : (s.modFibre k g).versions = s.versions := rfl
@[simp] theorem State.modFibre_domains (s : State) (k : FibreKey) (g : Fibre → Fibre) : (s.modFibre k g).domains = s.domains := rfl
@[simp] theorem State.modFibre_front (s : State) (k : FibreKey) (g : Fibre → Fibre) : (s.modFibre k g).front = s.front := rfl
@[simp] theorem State.modFibre_press (s : State) (k : FibreKey) (g : Fibre → Fibre) : (s.modFibre k g).press = s.press := rfl
@[simp] theorem State.modFibre_coll (s : State) (k : FibreKey) (g : Fibre → Fibre) : (s.modFibre k g).coll = s.coll := rfl
@[simp] theorem State.modFibre_power (s : State) (k : FibreKey) (g : Fibre → Fibre) : (s.modFibre k g).power = s.power := rfl
@[simp] theorem State.modFibre_ctl (s : State) (k : FibreKey) (g : Fibre → Fibre) : (s.modFibre k g).ctl = s.ctl := rfl
@[simp] theorem State.modFibre_bar2win (s : State) (k : FibreKey) (g : Fibre → Fibre) : (s.modFibre k g).bar2win = s.bar2win := rfl
@[simp] theorem State.modFibre_meas (s : State) (k : FibreKey) (g : Fibre → Fibre) : (s.modFibre k g).meas = s.meas := rfl
@[simp] theorem State.modFibre_quotes (s : State) (k : FibreKey) (g : Fibre → Fibre) : (s.modFibre k g).quotes = s.quotes := rfl
@[simp] theorem State.modFibre_stopped (s : State) (k : FibreKey) (g : Fibre → Fibre) : (s.modFibre k g).stopped = s.stopped := rfl
@[simp] theorem State.modFibre_clock (s : State) (k : FibreKey) (g : Fibre → Fibre) : (s.modFibre k g).clock = s.clock := rfl
@[simp] theorem State.modFibre_agenda (s : State) (k : FibreKey) (g : Fibre → Fibre) : (s.modFibre k g).agenda = s.agenda := rfl
@[simp] theorem State.modFibre_cur (s : State) (k : FibreKey) (g : Fibre → Fibre) : (s.modFibre k g).cur = s.cur := rfl
@[simp] theorem State.modFibre_curQ (s : State) (k : FibreKey) (g : Fibre → Fibre) : (s.modFibre k g).curQ = s.curQ := rfl
@[simp] theorem State.modFibre_arg (s : State) (k : FibreKey) (g : Fibre → Fibre) : (s.modFibre k g).arg = s.arg := rfl
@[simp] theorem State.modFibre_late (s : State) (k : FibreKey) (g : Fibre → Fibre) : (s.modFibre k g).late = s.late := rfl
@[simp] theorem State.modFibre_ids (s : State) (k : FibreKey) (g : Fibre → Fibre) : (s.modFibre k g).ids = s.ids := rfl
@[simp] theorem State.modFibre_order (s : State) (k : FibreKey) (g : Fibre → Fibre) : (s.modFibre k g).order = s.order := rfl
@[simp] theorem State.modFibre_fresh (s : State) (k : FibreKey) (g : Fibre → Fibre) : (s.modFibre k g).fresh = s.fresh := rfl

/-! modGroup. -/

@[simp] theorem State.modGroup_fibres (s : State) (wg grp : Nat) (h : Group → Group) : (s.modGroup wg grp h).fibres = s.fibres := rfl
@[simp] theorem State.modGroup_groups (s : State) (wg grp : Nat) (h : Group → Group) : (s.modGroup wg grp h).groups = s.groups.map fun g => if g.is wg grp then h g else g := rfl
@[simp] theorem State.modGroup_wgs (s : State) (wg grp : Nat) (h : Group → Group) : (s.modGroup wg grp h).wgs = s.wgs := rfl
@[simp] theorem State.modGroup_grids (s : State) (wg grp : Nat) (h : Group → Group) : (s.modGroup wg grp h).grids = s.grids := rfl
@[simp] theorem State.modGroup_cores (s : State) (wg grp : Nat) (h : Group → Group) : (s.modGroup wg grp h).cores = s.cores := rfl
@[simp] theorem State.modGroup_mem (s : State) (wg grp : Nat) (h : Group → Group) : (s.modGroup wg grp h).mem = s.mem := rfl
@[simp] theorem State.modGroup_versions (s : State) (wg grp : Nat) (h : Group → Group) : (s.modGroup wg grp h).versions = s.versions := rfl
@[simp] theorem State.modGroup_domains (s : State) (wg grp : Nat) (h : Group → Group) : (s.modGroup wg grp h).domains = s.domains := rfl
@[simp] theorem State.modGroup_front (s : State) (wg grp : Nat) (h : Group → Group) : (s.modGroup wg grp h).front = s.front := rfl
@[simp] theorem State.modGroup_press (s : State) (wg grp : Nat) (h : Group → Group) : (s.modGroup wg grp h).press = s.press := rfl
@[simp] theorem State.modGroup_coll (s : State) (wg grp : Nat) (h : Group → Group) : (s.modGroup wg grp h).coll = s.coll := rfl
@[simp] theorem State.modGroup_power (s : State) (wg grp : Nat) (h : Group → Group) : (s.modGroup wg grp h).power = s.power := rfl
@[simp] theorem State.modGroup_ctl (s : State) (wg grp : Nat) (h : Group → Group) : (s.modGroup wg grp h).ctl = s.ctl := rfl
@[simp] theorem State.modGroup_bar2win (s : State) (wg grp : Nat) (h : Group → Group) : (s.modGroup wg grp h).bar2win = s.bar2win := rfl
@[simp] theorem State.modGroup_meas (s : State) (wg grp : Nat) (h : Group → Group) : (s.modGroup wg grp h).meas = s.meas := rfl
@[simp] theorem State.modGroup_quotes (s : State) (wg grp : Nat) (h : Group → Group) : (s.modGroup wg grp h).quotes = s.quotes := rfl
@[simp] theorem State.modGroup_stopped (s : State) (wg grp : Nat) (h : Group → Group) : (s.modGroup wg grp h).stopped = s.stopped := rfl
@[simp] theorem State.modGroup_clock (s : State) (wg grp : Nat) (h : Group → Group) : (s.modGroup wg grp h).clock = s.clock := rfl
@[simp] theorem State.modGroup_agenda (s : State) (wg grp : Nat) (h : Group → Group) : (s.modGroup wg grp h).agenda = s.agenda := rfl
@[simp] theorem State.modGroup_cur (s : State) (wg grp : Nat) (h : Group → Group) : (s.modGroup wg grp h).cur = s.cur := rfl
@[simp] theorem State.modGroup_curQ (s : State) (wg grp : Nat) (h : Group → Group) : (s.modGroup wg grp h).curQ = s.curQ := rfl
@[simp] theorem State.modGroup_arg (s : State) (wg grp : Nat) (h : Group → Group) : (s.modGroup wg grp h).arg = s.arg := rfl
@[simp] theorem State.modGroup_late (s : State) (wg grp : Nat) (h : Group → Group) : (s.modGroup wg grp h).late = s.late := rfl
@[simp] theorem State.modGroup_ids (s : State) (wg grp : Nat) (h : Group → Group) : (s.modGroup wg grp h).ids = s.ids := rfl
@[simp] theorem State.modGroup_order (s : State) (wg grp : Nat) (h : Group → Group) : (s.modGroup wg grp h).order = s.order := rfl
@[simp] theorem State.modGroup_fresh (s : State) (wg grp : Nat) (h : Group → Group) : (s.modGroup wg grp h).fresh = s.fresh := rfl

/-! modWg. -/

@[simp] theorem State.modWg_fibres (s : State) (id : Nat) (h : Workgroup → Workgroup) : (s.modWg id h).fibres = s.fibres := rfl
@[simp] theorem State.modWg_groups (s : State) (id : Nat) (h : Workgroup → Workgroup) : (s.modWg id h).groups = s.groups := rfl
@[simp] theorem State.modWg_wgs (s : State) (id : Nat) (h : Workgroup → Workgroup) : (s.modWg id h).wgs = s.wgs.map fun w => if w.id = id then h w else w := rfl
@[simp] theorem State.modWg_grids (s : State) (id : Nat) (h : Workgroup → Workgroup) : (s.modWg id h).grids = s.grids := rfl
@[simp] theorem State.modWg_cores (s : State) (id : Nat) (h : Workgroup → Workgroup) : (s.modWg id h).cores = s.cores := rfl
@[simp] theorem State.modWg_mem (s : State) (id : Nat) (h : Workgroup → Workgroup) : (s.modWg id h).mem = s.mem := rfl
@[simp] theorem State.modWg_versions (s : State) (id : Nat) (h : Workgroup → Workgroup) : (s.modWg id h).versions = s.versions := rfl
@[simp] theorem State.modWg_domains (s : State) (id : Nat) (h : Workgroup → Workgroup) : (s.modWg id h).domains = s.domains := rfl
@[simp] theorem State.modWg_front (s : State) (id : Nat) (h : Workgroup → Workgroup) : (s.modWg id h).front = s.front := rfl
@[simp] theorem State.modWg_press (s : State) (id : Nat) (h : Workgroup → Workgroup) : (s.modWg id h).press = s.press := rfl
@[simp] theorem State.modWg_coll (s : State) (id : Nat) (h : Workgroup → Workgroup) : (s.modWg id h).coll = s.coll := rfl
@[simp] theorem State.modWg_power (s : State) (id : Nat) (h : Workgroup → Workgroup) : (s.modWg id h).power = s.power := rfl
@[simp] theorem State.modWg_ctl (s : State) (id : Nat) (h : Workgroup → Workgroup) : (s.modWg id h).ctl = s.ctl := rfl
@[simp] theorem State.modWg_bar2win (s : State) (id : Nat) (h : Workgroup → Workgroup) : (s.modWg id h).bar2win = s.bar2win := rfl
@[simp] theorem State.modWg_meas (s : State) (id : Nat) (h : Workgroup → Workgroup) : (s.modWg id h).meas = s.meas := rfl
@[simp] theorem State.modWg_quotes (s : State) (id : Nat) (h : Workgroup → Workgroup) : (s.modWg id h).quotes = s.quotes := rfl
@[simp] theorem State.modWg_stopped (s : State) (id : Nat) (h : Workgroup → Workgroup) : (s.modWg id h).stopped = s.stopped := rfl
@[simp] theorem State.modWg_clock (s : State) (id : Nat) (h : Workgroup → Workgroup) : (s.modWg id h).clock = s.clock := rfl
@[simp] theorem State.modWg_agenda (s : State) (id : Nat) (h : Workgroup → Workgroup) : (s.modWg id h).agenda = s.agenda := rfl
@[simp] theorem State.modWg_cur (s : State) (id : Nat) (h : Workgroup → Workgroup) : (s.modWg id h).cur = s.cur := rfl
@[simp] theorem State.modWg_curQ (s : State) (id : Nat) (h : Workgroup → Workgroup) : (s.modWg id h).curQ = s.curQ := rfl
@[simp] theorem State.modWg_arg (s : State) (id : Nat) (h : Workgroup → Workgroup) : (s.modWg id h).arg = s.arg := rfl
@[simp] theorem State.modWg_late (s : State) (id : Nat) (h : Workgroup → Workgroup) : (s.modWg id h).late = s.late := rfl
@[simp] theorem State.modWg_ids (s : State) (id : Nat) (h : Workgroup → Workgroup) : (s.modWg id h).ids = s.ids := rfl
@[simp] theorem State.modWg_order (s : State) (id : Nat) (h : Workgroup → Workgroup) : (s.modWg id h).order = s.order := rfl
@[simp] theorem State.modWg_fresh (s : State) (id : Nat) (h : Workgroup → Workgroup) : (s.modWg id h).fresh = s.fresh := rfl

/-! modGrid. -/

@[simp] theorem State.modGrid_fibres (s : State) (id : Nat) (h : Grid → Grid) : (s.modGrid id h).fibres = s.fibres := rfl
@[simp] theorem State.modGrid_groups (s : State) (id : Nat) (h : Grid → Grid) : (s.modGrid id h).groups = s.groups := rfl
@[simp] theorem State.modGrid_wgs (s : State) (id : Nat) (h : Grid → Grid) : (s.modGrid id h).wgs = s.wgs := rfl
@[simp] theorem State.modGrid_grids (s : State) (id : Nat) (h : Grid → Grid) : (s.modGrid id h).grids = s.grids.map fun g => if g.id = id then h g else g := rfl
@[simp] theorem State.modGrid_cores (s : State) (id : Nat) (h : Grid → Grid) : (s.modGrid id h).cores = s.cores := rfl
@[simp] theorem State.modGrid_mem (s : State) (id : Nat) (h : Grid → Grid) : (s.modGrid id h).mem = s.mem := rfl
@[simp] theorem State.modGrid_versions (s : State) (id : Nat) (h : Grid → Grid) : (s.modGrid id h).versions = s.versions := rfl
@[simp] theorem State.modGrid_domains (s : State) (id : Nat) (h : Grid → Grid) : (s.modGrid id h).domains = s.domains := rfl
@[simp] theorem State.modGrid_front (s : State) (id : Nat) (h : Grid → Grid) : (s.modGrid id h).front = s.front := rfl
@[simp] theorem State.modGrid_press (s : State) (id : Nat) (h : Grid → Grid) : (s.modGrid id h).press = s.press := rfl
@[simp] theorem State.modGrid_coll (s : State) (id : Nat) (h : Grid → Grid) : (s.modGrid id h).coll = s.coll := rfl
@[simp] theorem State.modGrid_power (s : State) (id : Nat) (h : Grid → Grid) : (s.modGrid id h).power = s.power := rfl
@[simp] theorem State.modGrid_ctl (s : State) (id : Nat) (h : Grid → Grid) : (s.modGrid id h).ctl = s.ctl := rfl
@[simp] theorem State.modGrid_bar2win (s : State) (id : Nat) (h : Grid → Grid) : (s.modGrid id h).bar2win = s.bar2win := rfl
@[simp] theorem State.modGrid_meas (s : State) (id : Nat) (h : Grid → Grid) : (s.modGrid id h).meas = s.meas := rfl
@[simp] theorem State.modGrid_quotes (s : State) (id : Nat) (h : Grid → Grid) : (s.modGrid id h).quotes = s.quotes := rfl
@[simp] theorem State.modGrid_stopped (s : State) (id : Nat) (h : Grid → Grid) : (s.modGrid id h).stopped = s.stopped := rfl
@[simp] theorem State.modGrid_clock (s : State) (id : Nat) (h : Grid → Grid) : (s.modGrid id h).clock = s.clock := rfl
@[simp] theorem State.modGrid_agenda (s : State) (id : Nat) (h : Grid → Grid) : (s.modGrid id h).agenda = s.agenda := rfl
@[simp] theorem State.modGrid_cur (s : State) (id : Nat) (h : Grid → Grid) : (s.modGrid id h).cur = s.cur := rfl
@[simp] theorem State.modGrid_curQ (s : State) (id : Nat) (h : Grid → Grid) : (s.modGrid id h).curQ = s.curQ := rfl
@[simp] theorem State.modGrid_arg (s : State) (id : Nat) (h : Grid → Grid) : (s.modGrid id h).arg = s.arg := rfl
@[simp] theorem State.modGrid_late (s : State) (id : Nat) (h : Grid → Grid) : (s.modGrid id h).late = s.late := rfl
@[simp] theorem State.modGrid_ids (s : State) (id : Nat) (h : Grid → Grid) : (s.modGrid id h).ids = s.ids := rfl
@[simp] theorem State.modGrid_order (s : State) (id : Nat) (h : Grid → Grid) : (s.modGrid id h).order = s.order := rfl
@[simp] theorem State.modGrid_fresh (s : State) (id : Nat) (h : Grid → Grid) : (s.modGrid id h).fresh = s.fresh := rfl

/-! modCore. -/

@[simp] theorem State.modCore_fibres (s : State) (c : Nat) (h : Core → Core) : (s.modCore c h).fibres = s.fibres := rfl
@[simp] theorem State.modCore_groups (s : State) (c : Nat) (h : Core → Core) : (s.modCore c h).groups = s.groups := rfl
@[simp] theorem State.modCore_wgs (s : State) (c : Nat) (h : Core → Core) : (s.modCore c h).wgs = s.wgs := rfl
@[simp] theorem State.modCore_grids (s : State) (c : Nat) (h : Core → Core) : (s.modCore c h).grids = s.grids := rfl
@[simp] theorem State.modCore_cores (s : State) (c : Nat) (h : Core → Core) : (s.modCore c h).cores = s.cores.modify c h := rfl
@[simp] theorem State.modCore_mem (s : State) (c : Nat) (h : Core → Core) : (s.modCore c h).mem = s.mem := rfl
@[simp] theorem State.modCore_versions (s : State) (c : Nat) (h : Core → Core) : (s.modCore c h).versions = s.versions := rfl
@[simp] theorem State.modCore_domains (s : State) (c : Nat) (h : Core → Core) : (s.modCore c h).domains = s.domains := rfl
@[simp] theorem State.modCore_front (s : State) (c : Nat) (h : Core → Core) : (s.modCore c h).front = s.front := rfl
@[simp] theorem State.modCore_press (s : State) (c : Nat) (h : Core → Core) : (s.modCore c h).press = s.press := rfl
@[simp] theorem State.modCore_coll (s : State) (c : Nat) (h : Core → Core) : (s.modCore c h).coll = s.coll := rfl
@[simp] theorem State.modCore_power (s : State) (c : Nat) (h : Core → Core) : (s.modCore c h).power = s.power := rfl
@[simp] theorem State.modCore_ctl (s : State) (c : Nat) (h : Core → Core) : (s.modCore c h).ctl = s.ctl := rfl
@[simp] theorem State.modCore_bar2win (s : State) (c : Nat) (h : Core → Core) : (s.modCore c h).bar2win = s.bar2win := rfl
@[simp] theorem State.modCore_meas (s : State) (c : Nat) (h : Core → Core) : (s.modCore c h).meas = s.meas := rfl
@[simp] theorem State.modCore_quotes (s : State) (c : Nat) (h : Core → Core) : (s.modCore c h).quotes = s.quotes := rfl
@[simp] theorem State.modCore_stopped (s : State) (c : Nat) (h : Core → Core) : (s.modCore c h).stopped = s.stopped := rfl
@[simp] theorem State.modCore_clock (s : State) (c : Nat) (h : Core → Core) : (s.modCore c h).clock = s.clock := rfl
@[simp] theorem State.modCore_agenda (s : State) (c : Nat) (h : Core → Core) : (s.modCore c h).agenda = s.agenda := rfl
@[simp] theorem State.modCore_cur (s : State) (c : Nat) (h : Core → Core) : (s.modCore c h).cur = s.cur := rfl
@[simp] theorem State.modCore_curQ (s : State) (c : Nat) (h : Core → Core) : (s.modCore c h).curQ = s.curQ := rfl
@[simp] theorem State.modCore_arg (s : State) (c : Nat) (h : Core → Core) : (s.modCore c h).arg = s.arg := rfl
@[simp] theorem State.modCore_late (s : State) (c : Nat) (h : Core → Core) : (s.modCore c h).late = s.late := rfl
@[simp] theorem State.modCore_ids (s : State) (c : Nat) (h : Core → Core) : (s.modCore c h).ids = s.ids := rfl
@[simp] theorem State.modCore_order (s : State) (c : Nat) (h : Core → Core) : (s.modCore c h).order = s.order := rfl
@[simp] theorem State.modCore_fresh (s : State) (c : Nat) (h : Core → Core) : (s.modCore c h).fresh = s.fresh := rfl

/-! modPress. -/

@[simp] theorem State.modPress_fibres (s : State) (d : Nat) (h : Press → Press) : (s.modPress d h).fibres = s.fibres := rfl
@[simp] theorem State.modPress_groups (s : State) (d : Nat) (h : Press → Press) : (s.modPress d h).groups = s.groups := rfl
@[simp] theorem State.modPress_wgs (s : State) (d : Nat) (h : Press → Press) : (s.modPress d h).wgs = s.wgs := rfl
@[simp] theorem State.modPress_grids (s : State) (d : Nat) (h : Press → Press) : (s.modPress d h).grids = s.grids := rfl
@[simp] theorem State.modPress_cores (s : State) (d : Nat) (h : Press → Press) : (s.modPress d h).cores = s.cores := rfl
@[simp] theorem State.modPress_mem (s : State) (d : Nat) (h : Press → Press) : (s.modPress d h).mem = s.mem := rfl
@[simp] theorem State.modPress_versions (s : State) (d : Nat) (h : Press → Press) : (s.modPress d h).versions = s.versions := rfl
@[simp] theorem State.modPress_domains (s : State) (d : Nat) (h : Press → Press) : (s.modPress d h).domains = s.domains := rfl
@[simp] theorem State.modPress_front (s : State) (d : Nat) (h : Press → Press) : (s.modPress d h).front = s.front := rfl
@[simp] theorem State.modPress_press (s : State) (d : Nat) (h : Press → Press) : (s.modPress d h).press = s.press.modify d h := rfl
@[simp] theorem State.modPress_coll (s : State) (d : Nat) (h : Press → Press) : (s.modPress d h).coll = s.coll := rfl
@[simp] theorem State.modPress_power (s : State) (d : Nat) (h : Press → Press) : (s.modPress d h).power = s.power := rfl
@[simp] theorem State.modPress_ctl (s : State) (d : Nat) (h : Press → Press) : (s.modPress d h).ctl = s.ctl := rfl
@[simp] theorem State.modPress_bar2win (s : State) (d : Nat) (h : Press → Press) : (s.modPress d h).bar2win = s.bar2win := rfl
@[simp] theorem State.modPress_meas (s : State) (d : Nat) (h : Press → Press) : (s.modPress d h).meas = s.meas := rfl
@[simp] theorem State.modPress_quotes (s : State) (d : Nat) (h : Press → Press) : (s.modPress d h).quotes = s.quotes := rfl
@[simp] theorem State.modPress_stopped (s : State) (d : Nat) (h : Press → Press) : (s.modPress d h).stopped = s.stopped := rfl
@[simp] theorem State.modPress_clock (s : State) (d : Nat) (h : Press → Press) : (s.modPress d h).clock = s.clock := rfl
@[simp] theorem State.modPress_agenda (s : State) (d : Nat) (h : Press → Press) : (s.modPress d h).agenda = s.agenda := rfl
@[simp] theorem State.modPress_cur (s : State) (d : Nat) (h : Press → Press) : (s.modPress d h).cur = s.cur := rfl
@[simp] theorem State.modPress_curQ (s : State) (d : Nat) (h : Press → Press) : (s.modPress d h).curQ = s.curQ := rfl
@[simp] theorem State.modPress_arg (s : State) (d : Nat) (h : Press → Press) : (s.modPress d h).arg = s.arg := rfl
@[simp] theorem State.modPress_late (s : State) (d : Nat) (h : Press → Press) : (s.modPress d h).late = s.late := rfl
@[simp] theorem State.modPress_ids (s : State) (d : Nat) (h : Press → Press) : (s.modPress d h).ids = s.ids := rfl
@[simp] theorem State.modPress_order (s : State) (d : Nat) (h : Press → Press) : (s.modPress d h).order = s.order := rfl
@[simp] theorem State.modPress_fresh (s : State) (d : Nat) (h : Press → Press) : (s.modPress d h).fresh = s.fresh := rfl

/-! modDomain. -/

@[simp] theorem State.modDomain_fibres (s : State) (d : Nat) (h : Domain → Domain) : (s.modDomain d h).fibres = s.fibres := rfl
@[simp] theorem State.modDomain_groups (s : State) (d : Nat) (h : Domain → Domain) : (s.modDomain d h).groups = s.groups := rfl
@[simp] theorem State.modDomain_wgs (s : State) (d : Nat) (h : Domain → Domain) : (s.modDomain d h).wgs = s.wgs := rfl
@[simp] theorem State.modDomain_grids (s : State) (d : Nat) (h : Domain → Domain) : (s.modDomain d h).grids = s.grids := rfl
@[simp] theorem State.modDomain_cores (s : State) (d : Nat) (h : Domain → Domain) : (s.modDomain d h).cores = s.cores := rfl
@[simp] theorem State.modDomain_mem (s : State) (d : Nat) (h : Domain → Domain) : (s.modDomain d h).mem = s.mem := rfl
@[simp] theorem State.modDomain_versions (s : State) (d : Nat) (h : Domain → Domain) : (s.modDomain d h).versions = s.versions := rfl
@[simp] theorem State.modDomain_domains (s : State) (d : Nat) (h : Domain → Domain) : (s.modDomain d h).domains = s.domains.modify d h := rfl
@[simp] theorem State.modDomain_front (s : State) (d : Nat) (h : Domain → Domain) : (s.modDomain d h).front = s.front := rfl
@[simp] theorem State.modDomain_press (s : State) (d : Nat) (h : Domain → Domain) : (s.modDomain d h).press = s.press := rfl
@[simp] theorem State.modDomain_coll (s : State) (d : Nat) (h : Domain → Domain) : (s.modDomain d h).coll = s.coll := rfl
@[simp] theorem State.modDomain_power (s : State) (d : Nat) (h : Domain → Domain) : (s.modDomain d h).power = s.power := rfl
@[simp] theorem State.modDomain_ctl (s : State) (d : Nat) (h : Domain → Domain) : (s.modDomain d h).ctl = s.ctl := rfl
@[simp] theorem State.modDomain_bar2win (s : State) (d : Nat) (h : Domain → Domain) : (s.modDomain d h).bar2win = s.bar2win := rfl
@[simp] theorem State.modDomain_meas (s : State) (d : Nat) (h : Domain → Domain) : (s.modDomain d h).meas = s.meas := rfl
@[simp] theorem State.modDomain_quotes (s : State) (d : Nat) (h : Domain → Domain) : (s.modDomain d h).quotes = s.quotes := rfl
@[simp] theorem State.modDomain_stopped (s : State) (d : Nat) (h : Domain → Domain) : (s.modDomain d h).stopped = s.stopped := rfl
@[simp] theorem State.modDomain_clock (s : State) (d : Nat) (h : Domain → Domain) : (s.modDomain d h).clock = s.clock := rfl
@[simp] theorem State.modDomain_agenda (s : State) (d : Nat) (h : Domain → Domain) : (s.modDomain d h).agenda = s.agenda := rfl
@[simp] theorem State.modDomain_cur (s : State) (d : Nat) (h : Domain → Domain) : (s.modDomain d h).cur = s.cur := rfl
@[simp] theorem State.modDomain_curQ (s : State) (d : Nat) (h : Domain → Domain) : (s.modDomain d h).curQ = s.curQ := rfl
@[simp] theorem State.modDomain_arg (s : State) (d : Nat) (h : Domain → Domain) : (s.modDomain d h).arg = s.arg := rfl
@[simp] theorem State.modDomain_late (s : State) (d : Nat) (h : Domain → Domain) : (s.modDomain d h).late = s.late := rfl
@[simp] theorem State.modDomain_ids (s : State) (d : Nat) (h : Domain → Domain) : (s.modDomain d h).ids = s.ids := rfl
@[simp] theorem State.modDomain_order (s : State) (d : Nat) (h : Domain → Domain) : (s.modDomain d h).order = s.order := rfl
@[simp] theorem State.modDomain_fresh (s : State) (d : Nat) (h : Domain → Domain) : (s.modDomain d h).fresh = s.fresh := rfl

/-! modQueue. -/

@[simp] theorem State.modQueue_fibres (s : State) (q : BitVec 8) (h : Queue → Queue) : (s.modQueue q h).fibres = s.fibres := rfl
@[simp] theorem State.modQueue_groups (s : State) (q : BitVec 8) (h : Queue → Queue) : (s.modQueue q h).groups = s.groups := rfl
@[simp] theorem State.modQueue_wgs (s : State) (q : BitVec 8) (h : Queue → Queue) : (s.modQueue q h).wgs = s.wgs := rfl
@[simp] theorem State.modQueue_grids (s : State) (q : BitVec 8) (h : Queue → Queue) : (s.modQueue q h).grids = s.grids := rfl
@[simp] theorem State.modQueue_cores (s : State) (q : BitVec 8) (h : Queue → Queue) : (s.modQueue q h).cores = s.cores := rfl
@[simp] theorem State.modQueue_mem (s : State) (q : BitVec 8) (h : Queue → Queue) : (s.modQueue q h).mem = s.mem := rfl
@[simp] theorem State.modQueue_versions (s : State) (q : BitVec 8) (h : Queue → Queue) : (s.modQueue q h).versions = s.versions := rfl
@[simp] theorem State.modQueue_domains (s : State) (q : BitVec 8) (h : Queue → Queue) : (s.modQueue q h).domains = s.domains := rfl
@[simp] theorem State.modQueue_press (s : State) (q : BitVec 8) (h : Queue → Queue) : (s.modQueue q h).press = s.press := rfl
@[simp] theorem State.modQueue_coll (s : State) (q : BitVec 8) (h : Queue → Queue) : (s.modQueue q h).coll = s.coll := rfl
@[simp] theorem State.modQueue_power (s : State) (q : BitVec 8) (h : Queue → Queue) : (s.modQueue q h).power = s.power := rfl
@[simp] theorem State.modQueue_ctl (s : State) (q : BitVec 8) (h : Queue → Queue) : (s.modQueue q h).ctl = s.ctl := rfl
@[simp] theorem State.modQueue_bar2win (s : State) (q : BitVec 8) (h : Queue → Queue) : (s.modQueue q h).bar2win = s.bar2win := rfl
@[simp] theorem State.modQueue_meas (s : State) (q : BitVec 8) (h : Queue → Queue) : (s.modQueue q h).meas = s.meas := rfl
@[simp] theorem State.modQueue_quotes (s : State) (q : BitVec 8) (h : Queue → Queue) : (s.modQueue q h).quotes = s.quotes := rfl
@[simp] theorem State.modQueue_stopped (s : State) (q : BitVec 8) (h : Queue → Queue) : (s.modQueue q h).stopped = s.stopped := rfl
@[simp] theorem State.modQueue_clock (s : State) (q : BitVec 8) (h : Queue → Queue) : (s.modQueue q h).clock = s.clock := rfl
@[simp] theorem State.modQueue_agenda (s : State) (q : BitVec 8) (h : Queue → Queue) : (s.modQueue q h).agenda = s.agenda := rfl
@[simp] theorem State.modQueue_cur (s : State) (q : BitVec 8) (h : Queue → Queue) : (s.modQueue q h).cur = s.cur := rfl
@[simp] theorem State.modQueue_curQ (s : State) (q : BitVec 8) (h : Queue → Queue) : (s.modQueue q h).curQ = s.curQ := rfl
@[simp] theorem State.modQueue_arg (s : State) (q : BitVec 8) (h : Queue → Queue) : (s.modQueue q h).arg = s.arg := rfl
@[simp] theorem State.modQueue_late (s : State) (q : BitVec 8) (h : Queue → Queue) : (s.modQueue q h).late = s.late := rfl
@[simp] theorem State.modQueue_ids (s : State) (q : BitVec 8) (h : Queue → Queue) : (s.modQueue q h).ids = s.ids := rfl
@[simp] theorem State.modQueue_order (s : State) (q : BitVec 8) (h : Queue → Queue) : (s.modQueue q h).order = s.order := rfl
@[simp] theorem State.modQueue_fresh (s : State) (q : BitVec 8) (h : Queue → Queue) : (s.modQueue q h).fresh = s.fresh := rfl

/-! setCtl. -/

@[simp] theorem State.setCtl_fibres (s : State) (off n v : Nat) : (s.setCtl off n v).fibres = s.fibres := rfl
@[simp] theorem State.setCtl_groups (s : State) (off n v : Nat) : (s.setCtl off n v).groups = s.groups := rfl
@[simp] theorem State.setCtl_wgs (s : State) (off n v : Nat) : (s.setCtl off n v).wgs = s.wgs := rfl
@[simp] theorem State.setCtl_grids (s : State) (off n v : Nat) : (s.setCtl off n v).grids = s.grids := rfl
@[simp] theorem State.setCtl_cores (s : State) (off n v : Nat) : (s.setCtl off n v).cores = s.cores := rfl
@[simp] theorem State.setCtl_mem (s : State) (off n v : Nat) : (s.setCtl off n v).mem = s.mem := rfl
@[simp] theorem State.setCtl_versions (s : State) (off n v : Nat) : (s.setCtl off n v).versions = s.versions := rfl
@[simp] theorem State.setCtl_domains (s : State) (off n v : Nat) : (s.setCtl off n v).domains = s.domains := rfl
@[simp] theorem State.setCtl_front (s : State) (off n v : Nat) : (s.setCtl off n v).front = s.front := rfl
@[simp] theorem State.setCtl_press (s : State) (off n v : Nat) : (s.setCtl off n v).press = s.press := rfl
@[simp] theorem State.setCtl_coll (s : State) (off n v : Nat) : (s.setCtl off n v).coll = s.coll := rfl
@[simp] theorem State.setCtl_power (s : State) (off n v : Nat) : (s.setCtl off n v).power = s.power := rfl
@[simp] theorem State.setCtl_ctl (s : State) (off n v : Nat) : (s.setCtl off n v).ctl = Memory.writeN s.ctl off (leBytes n v) := rfl
@[simp] theorem State.setCtl_bar2win (s : State) (off n v : Nat) : (s.setCtl off n v).bar2win = s.bar2win := rfl
@[simp] theorem State.setCtl_meas (s : State) (off n v : Nat) : (s.setCtl off n v).meas = s.meas := rfl
@[simp] theorem State.setCtl_quotes (s : State) (off n v : Nat) : (s.setCtl off n v).quotes = s.quotes := rfl
@[simp] theorem State.setCtl_stopped (s : State) (off n v : Nat) : (s.setCtl off n v).stopped = s.stopped := rfl
@[simp] theorem State.setCtl_clock (s : State) (off n v : Nat) : (s.setCtl off n v).clock = s.clock := rfl
@[simp] theorem State.setCtl_agenda (s : State) (off n v : Nat) : (s.setCtl off n v).agenda = s.agenda := rfl
@[simp] theorem State.setCtl_cur (s : State) (off n v : Nat) : (s.setCtl off n v).cur = s.cur := rfl
@[simp] theorem State.setCtl_curQ (s : State) (off n v : Nat) : (s.setCtl off n v).curQ = s.curQ := rfl
@[simp] theorem State.setCtl_arg (s : State) (off n v : Nat) : (s.setCtl off n v).arg = s.arg := rfl
@[simp] theorem State.setCtl_late (s : State) (off n v : Nat) : (s.setCtl off n v).late = s.late := rfl
@[simp] theorem State.setCtl_ids (s : State) (off n v : Nat) : (s.setCtl off n v).ids = s.ids := rfl
@[simp] theorem State.setCtl_order (s : State) (off n v : Nat) : (s.setCtl off n v).order = s.order := rfl
@[simp] theorem State.setCtl_fresh (s : State) (off n v : Nat) : (s.setCtl off n v).fresh = s.fresh := rfl

/-! Records read back. -/

theorem Fibre.is_iff (f : Fibre) (k : FibreKey) : f.is k = true ↔ f.key = k := by
  obtain ⟨a, b, c⟩ := k
  simp [Fibre.is, Fibre.key, and_assoc]

theorem find?_map_key {α : Type} (l : List α) (p : α → Bool) (g : α → α) (h : ∀ x, p x = true → p (g x) = true) :
    (l.map fun x => if p x then g x else x).find? p = (l.find? p).map g := by
  induction l with
  | nil => rfl
  | cons x r ih =>
    by_cases hx : p x = true
    · simp [hx, h x hx]
    · simp [hx, ih]

theorem State.fibre?_modFibre (s : State) (k : FibreKey) (g : Fibre → Fibre) (h : ∀ f, (g f).key = f.key) : (s.modFibre k g).fibre? k = (s.fibre? k).map g :=
  find?_map_key _ _ _ fun f hf => (Fibre.is_iff _ _).2 ((h f).trans ((Fibre.is_iff _ _).1 hf))

theorem State.fibre?_key {s : State} {k : FibreKey} {f : Fibre} (h : s.fibre? k = some f) : f.key = k := by
  have := List.find?_some (p := fun (x : Fibre) => x.is k) h
  exact (Fibre.is_iff _ _).1 this

theorem State.fibre?_mem {s : State} {k : FibreKey} {f : Fibre} (h : s.fibre? k = some f) : f ∈ s.fibres := List.mem_of_find?_eq_some h

theorem State.wg?_modWg (s : State) (id : Nat) (h : Workgroup → Workgroup) (k : ∀ w, (h w).id = w.id) : (s.modWg id h).wg? id = (s.wg? id).map h := by
  have := find?_map_key s.wgs (fun w => decide (w.id = id)) h (fun w hw => by simpa [k] using hw)
  simpa [State.wg?, State.modWg] using this

theorem State.wg?_modWg_ne (s : State) (id j : Nat) (h : Workgroup → Workgroup) (k : ∀ w, (h w).id = w.id) (n : j ≠ id) : (s.modWg id h).wg? j = s.wg? j := by
  simp only [State.wg?, State.modWg]
  induction s.wgs with
  | nil => rfl
  | cons w r ih =>
    by_cases hw : w.id = id
    · simp only [List.map_cons, hw, if_true, List.find?_cons, k]
      simp [show ¬ id = j from fun e => n e.symm, ih]
    · simp [hw, List.find?_cons, ih]

theorem State.wg_modWg_ne (s : State) (id j : Nat) (h : Workgroup → Workgroup) (k : ∀ w, (h w).id = w.id) (n : j ≠ id) : (s.modWg id h).wg j = s.wg j := by
  simp [State.wg, s.wg?_modWg_ne id j h k n]

theorem State.wg_modWg (s : State) (id : Nat) (h : Workgroup → Workgroup) (k : ∀ w, (h w).id = w.id) (e : (s.wg? id).isSome = true) : (s.modWg id h).wg id = h (s.wg id) := by
  obtain ⟨w, hw⟩ := Option.isSome_iff_exists.1 e
  simp [State.wg, s.wg?_modWg id h k, hw]

theorem State.core_modCore (s : State) (c : Nat) (h : Core → Core) (e : c < s.cores.length) : (s.modCore c h).core c = h (s.core c) := by
  simp [State.core, State.modCore, List.getD_eq_getElem?_getD, e]

theorem State.core_modCore_ne (s : State) (c d : Nat) (h : Core → Core) (n : d ≠ c) : (s.modCore c h).core d = s.core d := by
  simp [State.core, State.modCore, List.getD_eq_getElem?_getD, Ne.symm n]

theorem State.pressOf_modPress (s : State) (d : Nat) (h : Press → Press) (e : d < s.press.length) : (s.modPress d h).pressOf d = h (s.pressOf d) := by
  simp [State.pressOf, State.modPress, List.getD_eq_getElem?_getD, e]

theorem State.domain_modDomain (s : State) (d : Nat) (h : Domain → Domain) (e : d < s.domains.length) : (s.modDomain d h).domain d = h (s.domain d) := by
  simp [State.domain, State.modDomain, List.getD_eq_getElem?_getD, e]

/-- A queue's run state after a change that keeps its number. -/
theorem State.queue_modQueue (s : State) (q : BitVec 8) (h : Queue → Queue) (k : ∀ x, (h x).q = x.q) : (s.modQueue q h).queue q = h (s.queue q) := by
  simp only [State.queue, State.modQueue]
  split
  · rename_i a
    have := find?_map_key s.front.queues (fun x => decide (x.q = q)) h (fun x hx => by simpa [k] using hx)
    simp only [decide_eq_true_eq] at this
    rw [this]
    cases e : s.front.queues.find? fun x => decide (x.q = q) with
    | none => simp only [List.find?_eq_none, List.any_eq_true] at *; obtain ⟨x, hx, hq⟩ := a; exact absurd hq (e x hx)
    | some x => simp
  · rename_i a
    simp only [Bool.not_eq_true, List.any_eq_false] at a
    have e : (s.front.queues.find? fun x => decide (x.q = q)) = none := by simpa [List.find?_eq_none] using a
    simp [List.find?_append, e, k]

theorem State.queue_modQueue_ne (s : State) (q p : BitVec 8) (h : Queue → Queue) (k : ∀ x, (h x).q = x.q) (n : p ≠ q) : (s.modQueue q h).queue p = s.queue p := by
  simp only [State.queue, State.modQueue]
  have hm : (s.front.queues.map fun x => if x.q = q then h x else x).find? (fun x => decide (x.q = p)) = s.front.queues.find? fun x => decide (x.q = p) := by
    induction s.front.queues with
    | nil => rfl
    | cons x r ih =>
      by_cases hx : x.q = q
      · simp only [List.map_cons, hx, if_true, List.find?_cons, k]
        simp [show ¬ q = p from fun e => n e.symm, ih]
      · simp [hx, List.find?_cons, ih]
  split
  · rw [hm]
  · simp [List.find?_append, k, show ¬ q = p from fun e => n e.symm]

/-- A register of the control space reads as it was written. -/
theorem State.ctlNat_setCtl (s : State) (off n v : Nat) (h : Memory.wf s.ctl = true) : (s.setCtl off n v).ctlNat off n = v % 256 ^ n := by
  have e := Memory.readN_writeN off (leBytes n v) h
  rw [leBytes_length] at e
  simp only [State.ctlNat, State.setCtl, e, leNat_leBytes]

/-- A register apart from what is written reads as before. -/
theorem State.ctlNat_setCtl_apart (s : State) (off n v o m : Nat) (h : Memory.wf s.ctl = true) (d : o + m ≤ off ∨ off + n ≤ o) : (s.setCtl off n v).ctlNat o m = s.ctlNat o m := by
  simp only [State.ctlNat, State.setCtl]
  rw [Memory.readN_writeN_apart off _ o m h (by rw [leBytes_length]; exact d)]

theorem State.setCtl_wf (s : State) (off n v : Nat) (h : Memory.wf s.ctl = true) : Memory.wf (s.setCtl off n v).ctl = true := Memory.writeN_wf _ _ h

end Sys2Proof.Machine
end

