-- ==== Sys2Proof/Laws/Canonical.lean ====
section
/-! SUPPORT. The shared operations over the device's memory keep every memory in its canonical form: the frames of the L2, the lines of the tile stores, DRAM, the control space and the scratchpads. -/

namespace Sys2Proof.Machine

open Memory

/-- Every frame of a list holds its bytes in rising order. -/
abbrev FramesSorted (fs : List Frame) : Prop := ∀ f ∈ fs, sorted f.cells = true

/-- A state whose memories are those of a canonical one is canonical. -/
theorem State.Canonical.of_same {s t : State} (h : s.Canonical) (dram : t.mem.dram = s.mem.dram) (ctl : t.ctl = s.ctl) (frames : t.mem.frames = s.mem.frames)
    (lines : ∀ c ∈ t.cores, ∃ d ∈ s.cores, c.lines = d.lines) (pubs : t.mem.pubs = s.mem.pubs)
    (pads : ∀ w ∈ t.wgs, ∃ x ∈ s.wgs, w.scratch = x.scratch ∧ w.acc = x.acc) : t.Canonical where
  dram := dram ▸ h.dram
  ctl := ctl ▸ h.ctl
  frames := frames ▸ h.frames
  lines c m l n := by
    obtain ⟨d, hd, e⟩ := lines c m
    exact h.lines d hd l (e ▸ n)
  pubs := pubs ▸ h.pubs
  pads w m := by
    obtain ⟨x, hx, e⟩ := pads w m
    rw [e.1, e.2]; exact h.pads x hx

/-- Fibres, groups, grids and the rest of a state have no part in the canonical form. -/
theorem State.Canonical.of_eq {s t : State} (h : s.Canonical) (mem : t.mem = s.mem) (ctl : t.ctl = s.ctl) (cores : t.cores = s.cores) (wgs : t.wgs = s.wgs) : t.Canonical :=
  h.of_same (by rw [mem]) ctl (by rw [mem]) (fun c m => ⟨c, cores ▸ m, rfl⟩) (by rw [mem]) fun w m => ⟨w, wgs ▸ m, rfl, rfl⟩

/-- Nor have the stamps and the requests of the memory. -/
theorem State.Canonical.of_eqMem {s t : State} (h : s.Canonical) (dram : t.mem.dram = s.mem.dram) (frames : t.mem.frames = s.mem.frames) (pubs : t.mem.pubs = s.mem.pubs)
    (ctl : t.ctl = s.ctl) (cores : t.cores = s.cores) (wgs : t.wgs = s.wgs) : t.Canonical :=
  h.of_same dram ctl frames (fun c m => ⟨c, cores ▸ m, rfl⟩) pubs fun w m => ⟨w, wgs ▸ m, rfl, rfl⟩

/-- The lines of a core, by its number. -/
theorem State.Canonical.core_lines {s : State} (h : s.Canonical) (c : Nat) : ∀ l ∈ (s.core c).lines, sorted l.cells = true := by
  cases e : s.cores[c]? with
  | none => simp [State.core, e]
  | some d =>
    intro l m
    simp only [State.core, List.getD_eq_getElem?_getD, e, Option.getD_some] at m
    exact h.lines d (List.mem_of_getElem? e) l m

theorem reset_dram_wf : wf State.reset.mem.dram = true := rfl

theorem State.Canonical.modFibre {s : State} (h : s.Canonical) (k : FibreKey) (g : Fibre → Fibre) : (s.modFibre k g).Canonical := h.of_eq rfl rfl rfl rfl

theorem State.Canonical.modGroup {s : State} (h : s.Canonical) (w g : Nat) (x : Group → Group) : (s.modGroup w g x).Canonical := h.of_eq rfl rfl rfl rfl

theorem mem_modify {α : Type} {l : List α} {n : Nat} {g : α → α} {x : α} (h : x ∈ l.modify n g) : x ∈ l ∨ ∃ y ∈ l, x = g y := by
  induction l generalizing n with
  | nil => simp at h
  | cons a r ih =>
    cases n with
    | zero => simp only [List.modify_zero_cons, List.mem_cons] at h; rcases h with rfl | h
              · exact .inr ⟨a, by simp, rfl⟩
              · exact .inl (by simp [h])
    | succ n => simp only [List.modify_succ_cons, List.mem_cons] at h; rcases h with rfl | h
                · exact .inl (by simp)
                · rcases ih h with h | ⟨y, hy, e⟩
                  · exact .inl (by simp [h])
                  · exact .inr ⟨y, by simp [hy], e⟩

/-- A change of a core keeps the form if it keeps its lines in order. -/
theorem State.Canonical.modCore {s : State} (h : s.Canonical) (c : Nat) (g : Core → Core)
    (k : ∀ d ∈ s.cores, ∀ l ∈ (g d).lines, sorted l.cells = true) : (s.modCore c g).Canonical :=
  ⟨h.dram, h.ctl, h.frames, fun d m l n => by
    rcases mem_modify m with m | ⟨d', m', rfl⟩
    · exact h.lines d m l n
    · exact k d' m' l n, h.pubs, h.pads⟩

/-- A change of a workgroup keeps the form if it keeps its two memories so. -/
theorem State.Canonical.modWg {s : State} (h : s.Canonical) (n : Nat) (g : Workgroup → Workgroup)
    (k : ∀ w ∈ s.wgs, wf (g w).scratch = true ∧ wf (g w).acc = true) : (s.modWg n g).Canonical :=
  ⟨h.dram, h.ctl, h.frames, h.lines, h.pubs, fun w m => by
    simp only [State.modWg, List.mem_map] at m
    obtain ⟨x, hx, rfl⟩ := m
    split
    · exact k x hx
    · exact h.pads x hx⟩

theorem State.Canonical.setCtl {s : State} (h : s.Canonical) (off n v : Nat) : (s.setCtl off n v).Canonical :=
  ⟨h.dram, writeN_wf off _ h.ctl, h.frames, h.lines, h.pubs, h.pads⟩

theorem State.Canonical.withFrames {s : State} (h : s.Canonical) {fs : List Frame} (k : FramesSorted fs) : ({ s with mem := { s.mem with frames := fs } } : State).Canonical :=
  ⟨h.dram, h.ctl, k, h.lines, h.pubs, h.pads⟩

/-! Frames. -/

theorem FramesSorted.filter {fs : List Frame} (h : FramesSorted fs) (p : Frame → Bool) : FramesSorted (fs.filter p) := fun f m => h f (List.mem_of_mem_filter m)

theorem FramesSorted.map {fs : List Frame} (h : FramesSorted fs) {g : Frame → Frame} (k : ∀ f ∈ fs, sorted (g f).cells = true) : FramesSorted (fs.map g) := by
  intro f m
  obtain ⟨x, hx, rfl⟩ := List.mem_map.1 m
  exact k x hx

theorem FramesSorted.append {fs gs : List Frame} (h : FramesSorted fs) (k : FramesSorted gs) : FramesSorted (fs ++ gs) := fun f m =>
  (List.mem_append.1 m).elim (h f) (k f)

theorem putFrame_sorted {fs : List Frame} (h : FramesSorted fs) (same : Frame → Bool) (fresh : Frame) {cs : Cells} (k : sorted cs = true) : FramesSorted (putFrame fs same fresh cs) := by
  unfold putFrame
  split
  · refine h.map fun f m => ?_
    split
    · exact overlay_sorted cs (h f m)
    · exact h f m
  · refine h.append fun f m => ?_
    simp only [List.mem_singleton] at m
    subst m; exact k

theorem foldl_putFrame_sorted {ls : List Nat} {fs : List Frame} (h : FramesSorted fs) (same : Nat → Frame → Bool) (fresh : Nat → Frame) (cs : Nat → Cells) (k : ∀ l, sorted (cs l) = true) :
    FramesSorted (ls.foldl (fun fs l => putFrame fs (same l) (fresh l) (cs l)) fs) := by
  induction ls generalizing fs with
  | nil => exact h
  | cons l r ih => exact ih (putFrame_sorted h _ _ (k l))

theorem gathered_sorted (cs : List Cells) : sorted (gathered cs) = true := by
  unfold gathered
  induction cs with
  | nil => rfl
  | cons c r ih => exact overlay_sorted c ih

theorem mem_byStamp {x y : BitVec 64 × Frame} {l : List (BitVec 64 × Frame)} (h : y ∈ byStamp x l) : y = x ∨ y ∈ l := by
  induction l with
  | nil => simpa [byStamp] using h
  | cons a r ih =>
    unfold byStamp at h
    split at h
    · simpa using h
    · rcases List.mem_cons.1 h with h | h
      · simp [h]
      · rcases ih h with h | h <;> simp [h]

theorem mem_oldestFirst {fs : List Frame} {line : Nat} {x : BitVec 64 × Frame} (h : x ∈ oldestFirst fs line) : x.2 ∈ fs := by
  unfold oldestFirst at h
  rw [List.mem_reverse] at h
  have k : ∀ l : List Frame, x ∈ l.foldr (fun f acc => byStamp (f.stamp, f) acc) [] → x.2 ∈ l := by
    intro l
    induction l with
    | nil => simp
    | cons f r ih =>
      intro m
      rcases mem_byStamp m with rfl | m
      · simp
      · exact List.mem_cons_of_mem _ (ih m)
  exact List.mem_of_mem_filter (k _ h)

theorem mergeOldest_sorted {fs : List Frame} (h : FramesSorted fs) (line : Nat) : FramesSorted (mergeOldest fs line) := by
  unfold mergeOldest
  split
  · next t0 f0 t1 f1 r e =>
    have k : sorted f0.cells = true := h f0 (mem_oldestFirst (line := line) (x := (t0, f0)) (by rw [e]; simp))
    refine (h.filter _).map fun f m => ?_
    split
    · exact overlay_sorted _ k
    · exact h f (List.mem_of_mem_filter m)
  · exact h

theorem mergeDown_sorted {fs : List Frame} (h : FramesSorted fs) (keep line n : Nat) : FramesSorted (mergeDown keep line n fs) := by
  induction n generalizing fs with
  | zero => exact h
  | succ n ih =>
    unfold mergeDown
    split
    · exact h
    · exact ih (mergeOldest_sorted h line)

theorem State.retagged_sorted (s : State) {fs : List Frame} (h : FramesSorted fs) (v : VID) (line : Nat) : FramesSorted (s.retagged fs v line) := by
  unfold State.retagged
  split
  · exact h
  · simp only
    split
    · exact h
    · refine (h.filter _).append fun f m => ?_
      simp only [List.mem_singleton] at m
      subst m; exact gathered_sorted _

theorem State.retagLine_sorted (s : State) {fs : List Frame} (h : FramesSorted fs) (line : Nat) : FramesSorted (s.retagLine fs line) := by
  unfold State.retagLine
  generalize ((fs.filter fun f => decide (f.kind = .spec) && decide (f.line = line)).map (·.vid)) = vs
  induction vs generalizing fs with
  | nil => exact h
  | cons v r ih => exact ih (s.retagged_sorted h v line)

theorem State.trimFrames_sorted (s : State) {fs : List Frame} (h : FramesSorted fs) (line : Nat) : FramesSorted (s.trimFrames fs line) := by
  unfold State.trimFrames
  split
  · exact h
  · exact mergeDown_sorted (s.retagLine_sorted h line) 4 line _

theorem foldl_keeps {α β : Type} {P : β → Prop} {g : β → α → β} {l : List α} {b : β} (h : P b) (k : ∀ b x, P b → P (g b x)) : P (l.foldl g b) := by
  induction l generalizing b with
  | nil => exact h
  | cons x r ih => exact ih (k b x h)

theorem State.wholeSectors_sorted (s : State) (cs : Cells) : sorted (s.wholeSectors cs) = true :=
  foldl_keeps (P := fun m => sorted m = true) rfl fun _ _ h => foldl_keeps (P := fun m => sorted m = true) h fun _ _ h => put_sorted _ _ h

/-! What frees a way, and what puts bytes into frames. -/

theorem State.Canonical.retag {s : State} (h : s.Canonical) (v : VID) (line : Nat) : (s.retag v line).Canonical :=
  h.withFrames (s.trimFrames_sorted (s.retagged_sorted h.frames v line) line)

theorem State.Canonical.dropOldest {s : State} (h : s.Canonical) (line : Nat) : (s.dropOldest line).Canonical := by
  have k := s.retagLine_sorted h.frames line
  unfold State.dropOldest
  simp only
  split
  · exact h
  · exact ⟨writeAll_wf _ h.dram, h.ctl, k.filter _, h.lines, h.pubs, h.pads⟩
  · exact h.withFrames (mergeOldest_sorted k line)

/-- A change of a frame's marks keeps the form. -/
theorem State.Canonical.markFrames {s : State} (h : s.Canonical) {g : Frame → Frame} (k : ∀ f, (g f).cells = f.cells) :
    ({ s with mem := { s.mem with frames := s.mem.frames.map g } } : State).Canonical :=
  h.withFrames (FramesSorted.map h.frames fun f m => by rw [k f]; exact h.frames f m)

theorem State.Canonical.evictSpec {s : State} (h : s.Canonical) (f : Frame) : (s.evictSpec f).Canonical := by
  unfold State.evictSpec
  simp only
  split
  · exact ⟨writeAll_wf _ h.dram, h.ctl, FramesSorted.filter h.frames _, h.lines, h.pubs, h.pads⟩
  · exact h.markFrames fun f => by split <;> rfl

theorem State.Canonical.evictPriv {s : State} (h : s.Canonical) (f : Frame) : (s.evictPriv f).Canonical := h.markFrames fun f => by split <;> rfl

theorem State.Canonical.freeWay {s : State} (h : s.Canonical) (line : Nat) : (s.freeWay line).Canonical := by
  unfold State.freeWay
  split
  · exact h
  · split
    · exact h
    · split
      · exact h.dropOldest _
      · split
        · exact h
        · split
          · exact h.withFrames (FramesSorted.filter h.frames _)
          · exact h.evictSpec _
        · exact h.evictPriv _

theorem State.Canonical.putIn {s : State} (h : s.Canonical) (line : Nat) (same : Frame → Bool) (fresh : Frame) {cs : Cells} (k : sorted cs = true) :
    (s.putIn line same fresh cs).Canonical := by
  unfold State.putIn
  simp only
  split
  · exact h.withFrames (putFrame_sorted h.frames _ _ k)
  · exact (h.freeWay line).withFrames (putFrame_sorted (h.freeWay line).frames _ _ k)

theorem State.Canonical.specPut {s : State} (h : s.Canonical) (v : VID) {cs : Cells} (k : sorted cs = true) : (s.specPut v cs).Canonical := by
  unfold State.specPut
  split
  · split
    · exact foldl_keeps (P := State.Canonical) h fun _ _ h => h.putIn _ _ _ (filter_sorted _ k)
    · exact h
  · exact h

theorem State.Canonical.privatePut {s : State} (h : s.Canonical) (core : Nat) {cs : Cells} (k : sorted cs = true) : (s.privatePut core cs).Canonical :=
  foldl_keeps (P := State.Canonical) h fun _ _ h => h.putIn _ _ _ (filter_sorted _ k)

theorem State.Canonical.useLine {s : State} (h : s.Canonical) (line : Nat) : (s.useLine line).Canonical :=
  (foldl_keeps (P := State.Canonical) h fun _ _ h => h.freeWay line).markFrames fun f => by split <;> rfl

theorem State.Canonical.commitLine {s : State} (h : s.Canonical) (stamp : BitVec 64) (line : Nat) {cs : Cells} (k : sorted cs = true) : (s.commitLine stamp line cs).Canonical := by
  have g : ∀ {u : State}, u.Canonical → ∀ same fresh, ({ u with mem := { u.mem with frames := u.trimFrames (putFrame u.mem.frames same fresh cs) line } } : State).Canonical :=
    fun {u} hu same fresh => hu.withFrames (u.trimFrames_sorted (putFrame_sorted hu.frames _ _ k) line)
  unfold State.commitLine
  simp only
  split
  · exact g h _ _
  · exact g (h.freeWay line) _ _

theorem State.Canonical.commitCells {s : State} (h : s.Canonical) (stamp : BitVec 64) (cs : Cells) : (s.commitCells stamp cs).Canonical :=
  (foldl_keeps (P := State.Canonical) h fun _ _ h => h.commitLine _ _ (filter_sorted _ (s.wholeSectors_sorted cs))).of_eqMem rfl rfl rfl rfl rfl rfl

/-! Tile stores. -/

theorem State.dirtyCells_sorted (s : State) (core : Nat) (p : VID → Bool) : sorted (s.dirtyCells core p) = true := gathered_sorted _

theorem State.privateCells_sorted (s : State) (core : Nat) : sorted (s.privateCells core) = true := gathered_sorted _

theorem oldestLine_mem {xs : List (Nat × Line)} {x : Nat × Line} (h : oldestLine xs = some x) : x ∈ xs := by
  induction xs generalizing x with
  | nil => simp [oldestLine] at h
  | cons y r ih =>
    unfold oldestLine at h
    split at h
    · simp at h; simp [h]
    · rename_i z e
      simp only [Option.some.injEq] at h
      split at h
      · simp [h]
      · subst h; exact List.mem_cons_of_mem _ (ih e)

theorem State.tileWays_sorted {s : State} (h : s.Canonical) (slice set : Nat) : ∀ x ∈ s.tileWays slice set, sorted x.2.cells = true := by
  intro x m
  simp only [State.tileWays, List.mem_flatMap, List.mem_map, List.mem_filter] at m
  obtain ⟨c, -, l, ⟨ml, -⟩, rfl⟩ := m
  exact h.core_lines c l ml

theorem State.Canonical.evictLine {s : State} (h : s.Canonical) (core : Nat) {l : Line} (k : sorted l.cells = true) : (s.evictLine core l).Canonical := by
  have h1 := h.modCore core (fun c => { c with lines := c.lines.erase l }) fun d m x n => h.lines d m x (List.mem_of_mem_erase n)
  unfold State.evictLine
  simp only
  split
  · exact h1
  · split
    · exact h1.privatePut core k
    · exact h1.specPut _ k

theorem State.Canonical.bringLine {s : State} (h : s.Canonical) (core : Nat) {l : Line} (k : sorted l.cells = true) : (s.bringLine core l).Canonical := by
  have g : ∀ {u : State}, u.Canonical → (u.modCore core fun c => { c with lines := c.lines ++ [l] }).Canonical := fun {u} hu =>
    hu.modCore core _ fun d m x n => by
      rcases List.mem_append.1 n with n | n
      · exact hu.lines d m x n
      · simp only [List.mem_singleton] at n; subst n; exact k
  unfold State.bringLine
  simp only
  split
  · exact g h
  · split
    · exact g h
    · rename_i x e
      exact g (h.evictLine _ (State.tileWays_sorted h _ _ x (oldestLine_mem e)))

/-- A change of a core's lines, each on its own, keeps the form if it keeps the bytes of each in order. -/
theorem State.Canonical.mapLines {s : State} (h : s.Canonical) (core : Nat) {g : Line → Line} (k : ∀ l, sorted l.cells = true → sorted (g l).cells = true) :
    (s.modCore core fun c => { c with lines := c.lines.map g }).Canonical :=
  h.modCore core _ fun d m l n => by
    obtain ⟨l0, hl, rfl⟩ := List.mem_map.1 n
    exact k l0 (h.lines d m l0 hl)

theorem State.Canonical.dirtyPut {s : State} (h : s.Canonical) (core : Nat) (v : VID) (va pa : Nat) (bs : List Byte) : (s.dirtyPut core v va pa bs).Canonical := by
  have h1 := h.mapLines core (g := fun l => if s.lineAt v va l then { l with cells := putN l.cells pa bs, used := s.clock }
      else if !l.tensor && s.sameVersion l.vid (s.actual v) then { l with cells := clear l.cells pa bs.length } else l) fun l k => by
      split
      · exact putN_sorted _ _ k
      · split
        · exact clear_sorted _ _ k
        · exact k
  unfold State.dirtyPut
  simp only
  split
  · exact h1
  · exact h1.bringLine core (putN_sorted pa bs rfl)

theorem State.Canonical.touchLines {s : State} (h : s.Canonical) (core : Nat) (p : Line → Bool) : (s.modCore core fun c => { c with lines := c.lines.map fun l => if p l then { l with used := s.clock } else l }).Canonical :=
  h.mapLines core fun l k => by split <;> exact k

theorem State.Canonical.useTile {s : State} (h : s.Canonical) (core : Nat) (v : VID) (va pa : Nat) : (s.useTile core v va pa).Canonical := by
  unfold State.useTile
  simp only
  split
  · exact h.touchLines core _
  · split
    · exact h.touchLines _ _
    · exact h.bringLine core rfl

theorem State.Canonical.cleanLine {s : State} (h : s.Canonical) (core line : Nat) (inval : Bool) : (s.cleanLine core line inval).Canonical := by
  refine (h.privatePut core (filter_sorted _ (s.dirtyCells_sorted core _))).modCore core _ fun d m l n => ?_
  obtain ⟨l0, hl, rfl⟩ := List.mem_map.1 (List.mem_of_mem_filter n)
  have k := (h.privatePut core (filter_sorted (fun x : Host.Cell => decide (x.1 / 1024 = line)) (s.dirtyCells_sorted core _))).lines d m l0 hl
  split
  · exact filter_sorted _ k
  · exact k

/-! Publications and boundaries. -/

theorem State.Canonical.clobber {s : State} (h : s.Canonical) (hit : GbarWait → Bool) : (s.clobber hit).Canonical := h.of_eq rfl rfl rfl rfl

theorem State.Canonical.completePub {s : State} (h : s.Canonical) {p : Pub} (k : sorted p.cells = true) : (s.completePub p).Canonical := by
  have g : ∀ {u : State}, u.Canonical → ({ u with mem := { u.mem with pubs := u.mem.pubs.filter fun q => decide (q.stamp ≠ p.stamp), complete := p.stamp } } : State).Canonical :=
    fun {u} hu => ⟨hu.dram, hu.ctl, hu.frames, hu.lines, fun q m => hu.pubs q (List.mem_of_mem_filter m), hu.pads⟩
  unfold State.completePub
  simp only
  split
  · exact g ((h.commitCells _ _).clobber _)
  · exact g ((h.specPut _ k).clobber _)

theorem State.Canonical.drainPubs {s : State} (h : s.Canonical) : s.drainPubs.Canonical := by
  unfold State.drainPubs
  have k := h.pubs
  revert k
  generalize s.mem.pubs = ps
  intro k
  induction ps generalizing s with
  | nil => exact h
  | cons p r ih => exact ih (h.completePub (k p (by simp))) fun q m => k q (by simp [m])

theorem State.Canonical.publishCells {s : State} (h : s.Canonical) (cs : Cells) (gbar : Bool) : (s.publishCells cs gbar).Canonical := by
  have h2 := (h.drainPubs.of_eqMem (t := { s.drainPubs with mem := { s.drainPubs.mem with stamp := s.drainPubs.mem.stamp + 1 } }) rfl rfl rfl rfl rfl rfl).commitCells (s.drainPubs.mem.stamp + 1) cs
  unfold State.publishCells
  simp only
  split
  · exact h2.of_eqMem rfl rfl rfl rfl rfl rfl
  · exact (h2.clobber (s.overlapsWord 0 cs)).of_eqMem rfl rfl rfl rfl rfl rfl

theorem State.Canonical.postPub {s : State} (h : s.Canonical) (v : VID) (owner : Nat) {cs : Cells} (k : sorted cs = true) : (s.postPub v owner cs).Canonical :=
  ⟨h.dram, h.ctl, h.frames, h.lines, fun p m => by
    simp only [State.postPub, List.mem_append, List.mem_singleton] at m
    rcases m with m | rfl
    · exact h.pubs p m
    · exact k, h.pads⟩

theorem State.Canonical.owns {s : State} (h : s.Canonical) (core : Nat) (cs : Cells) : (s.owns core cs).Canonical := h.modCore core _ fun d m l n => h.lines d m l n

theorem State.Canonical.saw {s : State} (h : s.Canonical) (f : FibreKey) (pa n : Nat) : (s.saw f pa n).Canonical := h.modFibre _ _

theorem State.Canonical.snapshot {s : State} (h : s.Canonical) (core : Nat) : (s.snapshot core).Canonical :=
  h.modCore core _ fun d m l n => h.lines d m l (List.mem_of_mem_filter n)

theorem State.Canonical.catchUp {s : State} (h : s.Canonical) (core : Nat) : (s.catchUp core).Canonical :=
  h.modCore core _ fun d m l n => h.lines d m l (List.mem_of_mem_filter n)

theorem State.Canonical.coreRead {s : State} (h : s.Canonical) (core : Nat) (v : VID) (seen : List (Nat × BitVec 64)) (pa n : Nat) : (s.coreRead core v seen pa n).1.Canonical := by
  unfold State.coreRead
  simp only
  split
  · exact h.catchUp core
  · exact h

theorem State.Canonical.foldl_specPut {ls : List Line} {s : State} (h : s.Canonical) (g : Line → GbarWait → Bool) (k : ∀ l ∈ ls, sorted l.cells = true) :
    (ls.foldl (fun (t : State) l => (t.specPut l.vid l.cells).clobber (g l)) s).Canonical := by
  induction ls generalizing s with
  | nil => exact h
  | cons l r ih => exact ih ((h.specPut l.vid (k l (by simp))).clobber _) fun x m => k x (by simp [m])

theorem State.Canonical.publishCore {s : State} (h : s.Canonical) (core : Nat) : (s.publishCore core).Canonical := by
  have h1 := h.foldl_specPut (ls := (s.core core).lines.filter fun l => !l.tensor && !s.isRoot l.vid) (fun l => s.overlapsWord l.vid l.cells) fun l m => h.core_lines core l (List.mem_of_mem_filter m)
  have h2 := h1.withFrames (FramesSorted.filter h1.frames fun f => !(decide (f.kind = .priv) && decide (f.core = core)))
  have h3 := h2.mapLines core (g := fun l => if l.tensor then l else { l with cells := [] }) fun l k => by
    split
    · exact k
    · rfl
  exact (h3.publishCells _ _).owns core _

theorem State.Canonical.dropTensors {s : State} (h : s.Canonical) : s.dropTensors.Canonical :=
  ⟨h.dram, h.ctl, h.frames, fun c m l n => by
    simp only [State.dropTensors, List.mem_map] at m
    obtain ⟨d, hd, rfl⟩ := m
    exact h.lines d hd l (List.mem_of_mem_filter n), h.pubs, h.pads⟩

theorem State.Canonical.writeNewest {s : State} (h : s.Canonical) (v : VID) {cs : Cells} (k : sorted cs = true) (gbar : Bool) : (s.writeNewest v cs gbar).Canonical := by
  unfold State.writeNewest
  split
  · exact h.publishCells cs gbar
  · split
    · exact h.specPut _ k
    · exact (h.specPut _ k).clobber _

theorem cellsAt_sorted (pa : Nat) (bs : List Byte) : sorted (cellsAt pa bs) = true := putN_sorted pa bs rfl

theorem State.Canonical.physWrite {s : State} (h : s.Canonical) (pa : Nat) (bs : List Byte) : (s.physWrite pa bs).Canonical := h.publishCells _ _

theorem State.Canonical.publishBytes {s : State} (h : s.Canonical) (core : Nat) (v : VID) (pa n : Nat) : (s.publishBytes core v pa n).Canonical := by
  have k : ∀ (b : Bool) (p : Host.Cell → Bool) (q : VID → Bool), sorted (overlay (if b then (s.privateCells core).filter p else []) ((s.dirtyCells core q).filter p)) = true := by
    intro b p q
    refine overlay_sorted _ ?_
    cases b
    · rfl
    · exact filter_sorted _ (s.privateCells_sorted core)
  have h1 := h.withFrames (FramesSorted.map h.frames (g := fun f => if s.isRoot v && decide (f.kind = .priv) && decide (f.core = core) then { f with cells := clear f.cells pa n } else f) fun f m => by
    split
    · exact clear_sorted _ _ (h.frames f m)
    · exact h.frames f m)
  have h2 := h1.modCore core (fun c => { c with lines := c.lines.map fun l => if !l.tensor && s.sameVersion l.vid v then { l with cells := clear l.cells pa n } else l }) fun d m l q => by
    obtain ⟨l0, hl, rfl⟩ := List.mem_map.1 q
    split
    · exact clear_sorted _ _ (h1.lines d m l0 hl)
    · exact h1.lines d m l0 hl
  have h3 := h2.writeNewest v (k (s.isRoot v) (fun x => decide (pa ≤ x.1) && decide (x.1 < pa + n)) fun u => s.sameVersion u v) false
  unfold State.publishBytes
  by_cases e : overlay (if s.isRoot v then (s.privateCells core).filter (fun x => decide (pa ≤ x.1) && decide (x.1 < pa + n)) else [])
      ((s.dirtyCells core fun u => s.sameVersion u v).filter fun x => decide (pa ≤ x.1) && decide (x.1 < pa + n)) = []
  · simp only [e, if_true]; exact h
  · simp only [e, if_false]
    by_cases r : s.isRoot v = true
    · simp only [r, if_true] at h3 ⊢; exact h3.owns core _
    · simp only [r] at h3 ⊢; exact h3

theorem State.Canonical.writeThrough {s : State} (h : s.Canonical) (line : Nat) : (s.writeThrough line).Canonical := by
  unfold State.writeThrough
  split
  · exact h
  · refine ⟨writeAll_wf _ h.dram, h.ctl, FramesSorted.map h.frames fun f m => ?_, h.lines, h.pubs, h.pads⟩
    split <;> exact h.frames f m

theorem State.Canonical.refetchHost {s : State} (h : s.Canonical) : s.refetchHost.Canonical :=
  h.withFrames (FramesSorted.filter (FramesSorted.map h.frames fun f m => by
    split
    · exact filter_sorted _ (h.frames f m)
    · exact h.frames f m) _)

/-! Scratchpads. -/

theorem State.Canonical.padWrite {s : State} (h : s.Canonical) (wg off : Nat) (bs : List Byte) (gbar : Bool) : (s.padWrite wg off bs gbar).Canonical := by
  have h1 := h.modWg wg (fun w => { w with scratch := writeN w.scratch off bs }) fun w m => ⟨writeN_wf off bs (h.pads w m).1, (h.pads w m).2⟩
  unfold State.padWrite
  cases gbar
  · simp only [Bool.false_eq_true, if_false]; exact h1.clobber _
  · simp only [if_true]; exact h1

theorem Workgroup.putTag_memories (w : Workgroup) (g : Nat) (r : TagRec) : (w.putTag g r).scratch = w.scratch ∧ (w.putTag g r).acc = w.acc := by
  unfold Workgroup.putTag
  simp only
  split <;> exact ⟨rfl, rfl⟩

theorem State.Canonical.putTag {s : State} (h : s.Canonical) (wg g : Nat) (r : TagRec) : (s.putTag wg g r).Canonical :=
  h.modWg wg _ fun w m => by
    rw [(w.putTag_memories g r).1, (w.putTag_memories g r).2]; exact h.pads w m

theorem State.Canonical.setTag {s : State} (h : s.Canonical) (wg g : Nat) (t : Tag) : (s.setTag wg g t).Canonical := h.putTag wg g _

theorem State.Canonical.consume {s : State} (h : s.Canonical) (wg g : Nat) : (s.consume wg g).Canonical := by
  unfold State.consume
  simp only
  split
  · exact h.putTag wg g _
  · exact h.setTag wg g _

theorem State.Canonical.landFull {s : State} (h : s.Canonical) (wg off : Nat) (bs : List Byte) (v : VID) : (s.landFull wg off bs v).Canonical := by
  unfold State.landFull
  simp only
  split
  · split
    · exact h.padWrite wg off bs _
    · split
      · exact h.padWrite wg off bs _
      · exact h.modWg wg _ fun w m => h.pads w m
  · exact h.padWrite wg off bs _
  · have h2 := fun r => (h.padWrite wg off bs false).putTag wg (off / 1024) r
    exact (h2 _).modWg wg _ fun w m => (h2 _).pads w m

/-! Loads and stores. -/

theorem State.Canonical.landStore {s : State} (h : s.Canonical) (core : Nat) (v : VID) (va pa : Nat) (bs : List Byte) (hint : Nat) : (s.landStore core v va pa bs hint).Canonical := by
  unfold State.landStore
  split
  · exact (h.cleanLine core _ _).privatePut core (cellsAt_sorted pa bs)
  · exact h.dirtyPut core v va pa bs

theorem State.Canonical.landPending {s : State} (h : s.Canonical) (p : PStore) : (s.landPending p).Canonical := by
  have h1 : ({ s with mem := { s.mem with stores := s.mem.stores.filter fun q => decide (q.n ≠ p.n) } } : State).Canonical := ⟨h.dram, h.ctl, h.frames, h.lines, h.pubs, h.pads⟩
  exact h1.landStore _ _ _ _ _ _

theorem State.Canonical.landSome {s : State} (h : s.Canonical) (f : FibreKey) (p : PStore → Bool) : (s.landSome f p).Canonical := foldl_keeps (P := State.Canonical) h fun _ _ h => h.landPending _

theorem State.Canonical.landAll {s : State} (h : s.Canonical) (f : FibreKey) : (s.landAll f).Canonical := h.landSome f _

theorem rising_run (g : Nat → Byte) (p : Nat → Bool) (n lo : Nat) : risingFrom lo ((((List.range n).map (lo + ·)).filter p).map fun a => (a, g a)) = true := by
  have k : ∀ (m lo0 lo : Nat), lo0 ≤ lo → risingFrom lo0 (((List.range' lo m).filter p).map fun a => (a, g a)) = true := by
    intro m
    induction m with
    | zero => intro _ _ _; rfl
    | succ m ih =>
      intro lo0 lo le
      rw [List.range'_succ, List.filter_cons]
      split
      · simp only [List.map_cons, risingFrom, Bool.and_eq_true, decide_eq_true_eq]; exact ⟨le, ih (lo + 1) (lo + 1) (Nat.le_refl _)⟩
      · exact ih lo0 (lo + 1) (by omega)
  have e : (List.range n).map (lo + ·) = List.range' lo n := by rw [List.range_eq_range', List.map_add_range']; simp
  rw [e]; exact k n lo lo (Nat.le_refl _)

theorem State.Canonical.fill {s : State} (h : s.Canonical) (line sector : Nat) : (s.fill line sector).Canonical := by
  unfold State.fill
  simp only
  split
  · have h0 := h.withFrames (s.trimFrames_sorted (s.retagLine_sorted h.frames line) line)
    split
    · split
      · exact h0
      · refine (h0.freeWay line).withFrames (FramesSorted.append (h0.freeWay line).frames fun f m => ?_)
        simp only [List.mem_singleton] at m
        subst m
        exact risingFrom_mono (Nat.zero_le _) (rising_run _ _ _ _)
    · refine h0.withFrames (FramesSorted.map h0.frames fun f m => ?_)
      split
      · exact overlay_sorted _ (h0.frames f m)
      · exact h0.frames f m
  · exact h

theorem State.Canonical.fillWhere {s : State} (h : s.Canonical) (p : Nat → Bool) (pa n : Nat) : (s.fillWhere p pa n).Canonical :=
  foldl_keeps (P := State.Canonical) h fun _ _ h => h.fill _ _

theorem State.Canonical.fillFor {s : State} (h : s.Canonical) (core : Nat) (v : VID) (seen : List (Nat × BitVec 64)) (pa n : Nat) : (s.fillFor core v seen pa n).Canonical :=
  h.fillWhere _ _ _

theorem State.Canonical.l2Use {s : State} (h : s.Canonical) (v : VID) (pa n : Nat) : (s.l2Use v pa n).Canonical := (h.useLine _).fillWhere _ _ _

/-! Releases and atomics. -/

theorem State.Canonical.observe {s : State} (h : s.Canonical) (obs : BitVec 5) : (s.observe obs).Canonical := by
  have g : ∀ {u : State}, u.Canonical → (u.hostDirty.foldl (fun (t : State) l => t.writeThrough l) u).Canonical := fun {u} hu =>
    foldl_keeps (P := State.Canonical) hu fun _ _ h => h.writeThrough _
  unfold State.observe
  simp only
  split <;> split
  · exact g h.dropTensors
  · exact g h
  · exact h.dropTensors
  · exact h

theorem State.Canonical.releaseObs {s : State} (h : s.Canonical) (core : Nat) (obs : BitVec 5) : (s.releaseObs core obs).Canonical := by
  unfold State.releaseObs
  split
  · exact (h.publishCore core).observe obs
  · exact h.observe obs

theorem State.Canonical.acquireSide {s : State} (h : s.Canonical) (core : Nat) (obs : BitVec 5) : (s.acquireSide core obs).Canonical := by
  unfold State.acquireSide
  simp only
  split
  · exact h
  · split
    · exact h.refetchHost.snapshot core
    · exact h.snapshot core

theorem State.Canonical.commitOwn {s : State} (h : s.Canonical) (taken : Bool) (v : VID) (pa : Nat) (bs : List Byte) (gbar : Bool) : (s.commitOwn taken v pa bs gbar).Canonical := by
  unfold State.commitOwn
  simp only
  split
  · split
    · exact h.commitCells _ _
    · exact (h.commitCells _ _).clobber _
  · exact h.writeNewest v (cellsAt_sorted pa bs) gbar

theorem State.Canonical.baseWrite {s : State} (h : s.Canonical) (pa : Nat) (bs : List Byte) : (s.baseWrite pa bs).Canonical := by
  have h1 : ({ s with mem := { s.mem with
      stamp := s.mem.stamp + 1, complete := s.mem.stamp + 1, dram := Memory.writeN s.mem.dram pa bs, lastPub := notePub s.mem.lastPub (s.mem.stamp + 1) [pa / 1024] } } : State).Canonical :=
    ⟨writeN_wf pa bs h.dram, h.ctl, h.frames, h.lines, h.pubs, h.pads⟩
  exact h1.clobber _

theorem State.Canonical.atomicHome {s : State} (h : s.Canonical) (v : VID) (pa : Nat) (op : AtomicOp) (wide taken : Bool) (b e : DWord) : (s.atomicHome v pa op wide taken b e).1.Canonical := by
  unfold State.atomicHome
  simp only
  split <;> split <;> simp only [] <;> first
    | exact h.drainPubs
    | exact h.drainPubs.l2Use _ _ _
    | exact h.drainPubs.baseWrite _ _
    | exact (h.drainPubs.l2Use _ _ _).commitOwn _ _ _ _ _

theorem State.Canonical.atomicAt {s : State} (h : s.Canonical) (core : Nat) (v : VID) (pa : Nat) (op : AtomicOp) (wide taken : Bool) (b e : DWord) (thru : Bool) :
    (s.atomicAt core v pa op wide taken b e thru).1.Canonical := by
  have k := (h.publishBytes core v pa (if wide then 8 else 4)).atomicHome v pa op wide taken b e
  unfold State.atomicAt
  simp only
  split
  · exact k.writeThrough _
  · exact k

end Sys2Proof.Machine
end

