-- ==== Sys2Proof/Laws/Encoding.lean ====
section
/-! SUPPORT. How the fields of a packed word read: each field of `pack` reads as its value, and bits that no field covers read as those of the fixed part. -/

namespace Sys2Proof.Laws

/-- A word's fields: the lowest bit, the width and the value of each. -/
abbrev Fields := List (Nat × Nat × Nat)

/-- Bits `lo` to `lo + k - 1` of a number. -/
abbrev part (n lo k : Nat) : Nat := n / 2 ^ lo % 2 ^ k

/-- Where fields stand: the lowest bit and the width of each. -/
def shape (fs : Fields) : List (Nat × Nat) := fs.map fun x => (x.1, x.2.1)

/-- Whether two runs of bits do not meet. -/
def apart (lo k : Nat) (x : Nat × Nat) : Bool := decide (lo + k ≤ x.1) || decide (x.1 + x.2 ≤ lo)

/-- Whether a run of bits of a word meets no field. -/
def free (lo k : Nat) (fs : List (Nat × Nat)) : Bool := decide (lo + k ≤ 32) && fs.all (apart lo k)

/-- Whether fields lie in a word, do not meet, and find zeros in the fixed part. -/
def fits (fixed : Nat) : List (Nat × Nat) → Bool
  | [] => true
  | x :: r => decide (part fixed x.1 x.2 = 0) && decide (x.1 + x.2 ≤ 32) && free x.1 x.2 r && fits fixed r

/-- The number that `pack` makes a word of. -/
def sumOf (fixed : Nat) (fs : Fields) : Nat := fs.foldl (fun n x => n + x.2.2 * 2 ^ x.1) fixed

/-- A field that is added where there are zeros leaves every run of bits apart from it as it was. -/
theorem part_add_apart {n lo k v l m : Nat} (z : part n lo k = 0) (hv : v < 2 ^ k) (h : l + m ≤ lo ∨ lo + k ≤ l) : part (n + v * 2 ^ lo) l m = part n l m := by
  rcases h with h | h
  · have e : v * 2 ^ lo = 2 ^ l * (2 ^ m * (v * 2 ^ (lo - (l + m)))) := by
      have : (2 : Nat) ^ lo = 2 ^ l * 2 ^ m * 2 ^ (lo - (l + m)) := by rw [← Nat.pow_add, ← Nat.pow_add]; congr 1; omega
      rw [this]; ac_rfl
    rw [part, e, Nat.add_mul_div_left _ _ (Nat.two_pow_pos l), Nat.add_mul_mod_self_left]
  · have e : (n + v * 2 ^ lo) / 2 ^ l = n / 2 ^ l := by
      have s : (2 : Nat) ^ l = 2 ^ lo * (2 ^ k * 2 ^ (l - (lo + k))) := by rw [← Nat.pow_add, ← Nat.pow_add]; congr 1; omega
      have t : (n / 2 ^ lo + v) / 2 ^ k = n / 2 ^ lo / 2 ^ k := by
        have q := Nat.div_add_mod (n / 2 ^ lo) (2 ^ k)
        rw [show n / 2 ^ lo % 2 ^ k = 0 from z, Nat.add_zero] at q
        rw [← q, Nat.mul_add_div (Nat.two_pow_pos k), Nat.div_eq_of_lt hv, Nat.mul_div_cancel_left _ (Nat.two_pow_pos k), Nat.add_zero]
      rw [s, ← Nat.div_div_eq_div_mul, Nat.mul_comm v, Nat.add_mul_div_left _ _ (Nat.two_pow_pos lo), ← Nat.div_div_eq_div_mul, t, Nat.div_div_eq_div_mul, Nat.div_div_eq_div_mul]
    rw [part, e]

/-- A field that is added where there are zeros reads as its value. -/
theorem part_add_self {n lo k v : Nat} (z : part n lo k = 0) (hv : v < 2 ^ k) : part (n + v * 2 ^ lo) lo k = v := by
  rw [part, Nat.mul_comm v, Nat.add_mul_div_left _ _ (Nat.two_pow_pos lo), Nat.add_mod, show n / 2 ^ lo % 2 ^ k = 0 from z, Nat.zero_add, Nat.mod_mod, Nat.mod_eq_of_lt hv]

theorem apart_iff (lo k : Nat) (x : Nat × Nat) : apart lo k x = true ↔ lo + k ≤ x.1 ∨ x.1 + x.2 ≤ lo := by simp [apart]

/-- The values of fields are within their widths. -/
def Within : Fields → Prop
  | [] => True
  | x :: r => x.2.2 < 2 ^ x.2.1 ∧ Within r

/-- Fields that fit still fit once one that is apart from them has been added. -/
theorem fits_add {sh : List (Nat × Nat)} {fixed lo k v : Nat} (z : part fixed lo k = 0) (hv : v < 2 ^ k) (a : free lo k sh = true) (f : fits fixed sh = true) :
    fits (fixed + v * 2 ^ lo) sh = true := by
  induction sh with
  | nil => rfl
  | cons y r ih =>
    simp only [fits, free, List.all_cons, Bool.and_eq_true, decide_eq_true_eq] at a f ⊢
    exact ⟨⟨⟨(part_add_apart z hv ((apart_iff _ _ _).1 a.2.1).symm).trans f.1.1.1, f.1.1.2⟩, f.1.2⟩, ih (by simp [free, a.1, a.2.2]) f.2⟩

/-- Bits that no field covers are those of the fixed part. -/
theorem part_sumOf_free {fs : Fields} {fixed lo k : Nat} (f : fits fixed (shape fs) = true) (hb : Within fs) (h : free lo k (shape fs) = true) :
    part (sumOf fixed fs) lo k = part fixed lo k := by
  induction fs generalizing fixed with
  | nil => rfl
  | cons x r ih =>
    simp only [shape, List.map_cons, fits, free, Bool.and_eq_true, decide_eq_true_eq, List.all_cons] at f h
    have := ih (fits_add f.1.1.1 hb.1 (by simp [free, shape, f.1.2.1, f.1.2.2]) f.2) hb.2 (by simp [free, shape, h.1, h.2.2])
    exact this.trans (part_add_apart f.1.1.1 hb.1 ((apart_iff _ _ _).1 h.2.1))

/-- Each field lies in the word, and reads as its value. -/
theorem part_sumOf_mem {fs : Fields} {fixed : Nat} {x : Nat × Nat × Nat} (f : fits fixed (shape fs) = true) (hb : Within fs) (h : x ∈ fs) :
    x.1 + x.2.1 ≤ 32 ∧ part (sumOf fixed fs) x.1 x.2.1 = x.2.2 := by
  induction fs generalizing fixed with
  | nil => cases h
  | cons y r ih =>
    have f' := f
    simp only [shape, List.map_cons, fits, Bool.and_eq_true, decide_eq_true_eq] at f'
    have g := fits_add f'.1.1.1 hb.1 f'.1.2 f'.2
    rcases List.mem_cons.1 h with rfl | h
    · exact ⟨f'.1.1.2, (part_sumOf_free g hb.2 f'.1.2).trans (part_add_self f'.1.1.1 hb.1)⟩
    · exact ih g hb.2 h

theorem fld_word (n lo k : Nat) (h : lo + k ≤ 32) : fld (word n) lo k = BitVec.ofNat k (part n lo k) := by
  apply BitVec.eq_of_toNat_eq
  simp only [fld, word, BitVec.extractLsb'_toNat, BitVec.toNat_ofNat, Nat.shiftRight_eq_div_pow, Nat.mod_mod]
  have : 2 ^ 32 = 2 ^ lo * 2 ^ (32 - lo) := by rw [← Nat.pow_add]; congr 1; omega
  rw [this, Nat.mod_mul_right_div_self, Nat.mod_mod_of_dvd]
  exact Nat.pow_dvd_pow 2 (by omega)

theorem bit_eq_fld (w : Word) (i : Nat) : bit w i = (fld w i 1).getLsbD 0 := by simp [bit, fld]

/-- What is known of a word that packs some fields. -/
structure Packs (w : Word) (fixed : Nat) (fs : Fields) : Prop where
  eq : w = word (sumOf fixed fs)
  fit : fits fixed (shape fs) = true
  low : Within fs

theorem packs {w : Word} {n fixed : Nat} {fs : Fields} (sh : List (Nat × Nat)) (e : some (word n) = some w) (s : n = sumOf fixed fs) (hs : shape fs = sh) (f : fits fixed sh = true) (h : Within fs) :
    Packs w fixed fs := ⟨(Option.some.inj e).symm.trans (congrArg word s), hs ▸ f, h⟩

/-- Bits that no field covers read as those of the fixed part. -/
theorem Packs.free {w : Word} {fixed : Nat} {fs : Fields} (p : Packs w fixed fs) (lo k v : Nat) (h : free lo k (shape fs) = true) (e : part fixed lo k = v) : fld w lo k = BitVec.ofNat k v := by
  rw [p.eq, fld_word _ _ _ (by simp [Laws.free] at h; exact h.1), part_sumOf_free p.fit p.low h, e]

/-- A field reads as its value. -/
theorem Packs.mem {w : Word} {fixed : Nat} {fs : Fields} (p : Packs w fixed fs) (lo k v : Nat) (h : (lo, k, v) ∈ fs) : fld w lo k = BitVec.ofNat k v := by
  have q := part_sumOf_mem p.fit p.low h
  rw [p.eq, fld_word _ _ _ q.1, q.2]

/-- A field that holds a bit vector reads as it. -/
theorem Packs.vec {w : Word} {fixed : Nat} {fs : Fields} (p : Packs w fixed fs) (lo : Nat) {k : Nat} (v : BitVec k) (h : (lo, k, v.toNat) ∈ fs) : fld w lo k = v := by
  rw [p.mem lo k _ h, BitVec.ofNat_toNat, BitVec.setWidth_eq]

/-- A field that holds a bit reads as it. -/
theorem Packs.bool {w : Word} {fixed : Nat} {fs : Fields} (p : Packs w fixed fs) (i : Nat) (b : Bool) (h : (i, 1, b.toNat) ∈ fs) : bit w i = b := by
  rw [bit_eq_fld, p.mem i 1 _ h]; cases b <;> rfl

/-- Two fields that hold the halves of a bit vector read as it. -/
theorem Packs.halves {w : Word} {fixed : Nat} {fs : Fields} (p : Packs w fixed fs) (lo lo' k m : Nat) (v : BitVec (k + m)) (h : (lo, k, v.toNat / 2 ^ m) ∈ fs) (h' : (lo', m, v.toNat % 2 ^ m) ∈ fs) :
    fld w lo k ++ fld w lo' m = v := by
  rw [p.mem _ _ _ h, p.mem _ _ _ h']
  apply BitVec.eq_of_toNat_eq
  have := v.isLt
  have q : v.toNat / 2 ^ m < 2 ^ k := by rw [Nat.div_lt_iff_lt_mul (Nat.two_pow_pos m), ← Nat.pow_add]; exact this
  rw [BitVec.toNat_append, BitVec.toNat_ofNat, BitVec.toNat_ofNat, Nat.mod_eq_of_lt q, Nat.mod_mod, ← Nat.shiftLeft_add_eq_or_of_lt (Nat.mod_lt _ (Nat.two_pow_pos m)), Nat.shiftLeft_eq, Nat.mul_comm]
  exact Nat.div_add_mod _ _

theorem toNat_lt_two_pow_one (b : Bool) : b.toNat < 2 ^ 1 := by cases b <;> decide

theorem half_lt {k m : Nat} (v : BitVec (k + m)) : v.toNat / 2 ^ m < 2 ^ k := by
  rw [Nat.div_lt_iff_lt_mul (Nat.two_pow_pos m), ← Nat.pow_add]; exact v.isLt

/-- The major of a word without bit 31. -/
theorem Packs.major {w : Word} {fixed : Nat} {fs : Fields} (p : Packs w fixed fs) (n : Nat) (h : Laws.free 24 8 (shape fs) = true) (e : part fixed 24 8 = n) (hn : n < 128) : decodeRaw w = decodeMajor n w := by
  have f := p.free 24 8 n h e
  have b : bit w 31 = false := by
    have : bit w 31 = (fld w 24 8).getLsbD 7 := by simp [bit, fld]
    rw [this, f, BitVec.getLsbD_ofNat, Nat.testBit_lt_two_pow (by omega), Bool.and_false]
  have m : (fld w 24 7).toNat = n := by
    have : fld w 24 7 = (fld w 24 8).setWidth 7 := by
      apply BitVec.eq_of_toNat_eq; simp [fld]
    rw [this, f]; simp; omega
  simp [decodeRaw, b, m]

/-- The OP of a queue program's word. -/
theorem Packs.op {w : Word} {fixed : Nat} {fs : Fields} (p : Packs w fixed fs) (n : Nat) (h : Laws.free 24 8 (shape fs) = true) (e : part fixed 24 8 = n) : decodeQ w = decodeQOp n w := by
  have f := p.free 24 8 n h e
  have : n < 256 := e ▸ Nat.mod_lt _ (by decide)
  simp [decodeQ, f, Nat.mod_eq_of_lt this]

/-- A word with bit 31 is a dictionary word. -/
theorem Packs.dictionary {w : Word} {fixed : Nat} {fs : Fields} {i : Instr} (p : Packs w fixed fs) (h : Laws.free 31 1 (shape fs) = true) (e : part fixed 31 1 = 1) (d : some (decodeDictionary w) = some i) : decodeRaw w = some i := by
  have f := p.free 31 1 1 h e
  rw [decodeRaw, bit_eq_fld, f]; exact d

/-- A field of a field is a field of the word. -/
theorem fld_fld (w : Word) (lo k j m : Nat) (h : j + m ≤ k) : (fld w lo k).extractLsb' j m = fld w (lo + j) m := by
  apply BitVec.eq_of_getLsbD_eq; intro x hx
  simp [fld, hx, show j + x < k by omega, Nat.add_assoc]

/-- A field does not read as two values. -/
theorem no {w : Word} {lo k : Nat} {a b : BitVec k} (f : fld w lo k = a) (h : fld w lo k = b) (n : a ≠ b := by decide) : False := n (f.symm.trans h)

/-- A field does not read as a value of which a part reads otherwise. -/
theorem noPart {w : Word} {lo k m : Nat} (j : Nat) {a : BitVec m} {b : BitVec k} (f : fld w (lo + j) m = a) (h : fld w lo k = b) (i : j + m ≤ k := by decide) (n : a ≠ b.extractLsb' j m := by decide) : False :=
  n (f.symm.trans ((fld_fld w lo k j m i).symm.trans (by rw [h])))

/-- Two neighbouring runs of bits make one. -/
theorem part_split (n lo k m : Nat) : part n lo (k + m) = part n lo k + part n (lo + k) m * 2 ^ k := by
  rw [part, part, part, Nat.pow_add, Nat.mod_mul, Nat.pow_add 2 lo k, Nat.div_div_eq_div_mul, Nat.mul_comm (2 ^ k)]

/-- A run of bits of a word, as a number. -/
theorem part_toNat (w : Word) (lo k : Nat) : part w.toNat lo k = (fld w lo k).toNat := by simp [part, fld, Nat.shiftRight_eq_div_pow]

end Sys2Proof.Laws
end

