-- ==== Sys2Proof/Laws/Issue.lean ====
section
/-! SUPPORT. What the three ways of issuing a word do: the members of an entry, a word for each fibre on its own, and words for a sole fibre. -/

namespace Sys2Proof.Machine

theorem mem_byHome (f g : Fibre) (l : List Fibre) : f ∈ byHome g l ↔ f = g ∨ f ∈ l := by
  induction l with
  | nil => simp [byHome]
  | cons x r ih =>
    simp only [byHome]
    split
    · simp
    · simp only [List.mem_cons, ih, or_left_comm]

theorem mem_foldr_byHome (f : Fibre) (l : List Fibre) : f ∈ l.foldr byHome [] ↔ f ∈ l := by
  induction l with
  | nil => simp
  | cons x r ih => simp [mem_byHome, ih]

/-- The members of an issue are the fibres of its entry. -/
theorem State.mem_members (s : State) (c : Issue) (f : Fibre) : f ∈ s.members c ↔ f ∈ s.fibres ∧ f.inEntry c = true := by
  simp [State.members, mem_foldr_byHome]

/-- A group that no flag is sent to is left as it is. -/
theorem Group.send_none (g : Group) (x : FlagDue) (h : x.flags = 0) : g.send x = g := by simp [Group.send, h]

/-- An issue in which no fibre faults takes no trap. -/
theorem State.laneTraps_nil (s : State) (c : Issue) (op : State → Issue → Fibre → Except Trap Lane)
    (ok : ∀ f ∈ s.fibres, f.inEntry c = true → ∃ r, op s c f = .ok r) : s.laneTraps c op = [] := by
  simp only [State.laneTraps, List.filterMap_eq_nil_iff]
  intro f hf
  obtain ⟨h1, h2⟩ := (s.mem_members c f).1 hf
  obtain ⟨r, hr⟩ := ok f h1 h2
  simp [hr]

/-- In an issue that faults in none, every fibre executes the word (R204). -/
theorem State.follows_ok (s : State) (c : Issue) (op : State → Issue → Fibre → Except Trap Lane) (f : Fibre)
    (ok : ∀ f ∈ s.fibres, f.inEntry c = true → ∃ r, op s c f = .ok r) : s.follows c op f = true := by
  simp [State.follows, s.laneTraps_nil c op ok]

/-- A word that issues for each fibre on its own and faults in none: every fibre takes its step, and every group gets its flags. -/
theorem State.issueLane_ok (s : State) (c : Issue) (op : State → Issue → Fibre → Except Trap Lane) (hc : s.cur = some c)
    (ok : ∀ f ∈ s.fibres, f.inEntry c = true → ∃ r, op s c f = .ok r) :
    s.issueLane op = { s with fibres := s.fibres.map (s.laneStep c op), groups := s.groups.map fun g => g.send (s.laneSend c op g) } := by
  simp [State.issueLane, hc, s.laneTraps_nil c op ok]

theorem foldl_or_zero {α : Type} (p : α → FFlags) (l : List α) (acc : FFlags) (h : ∀ x ∈ l, p x = 0) : l.foldl (fun a x => a ||| p x) acc = acc := by
  induction l generalizing acc with
  | nil => rfl
  | cons x r ih =>
    have : acc ||| p x = acc := by simp [h x (by simp)]
    rw [List.foldl_cons, this]
    exact ih acc fun y hy => h y (by simp [hy])

/-- The fold of a group's flags is 0 when no fibre of the entry raises one. -/
theorem State.laneFlags_zero (s : State) (c : Issue) (op : State → Issue → Fibre → Except Trap Lane) (g : Group)
    (ok : ∀ f ∈ s.fibres, f.inEntry c = true → ∃ r, op s c f = .ok r ∧ r.flags = 0) : s.laneFlags c op g = 0 := by
  unfold State.laneFlags
  generalize h0 : (0 : FFlags) = z
  have key : ∀ (l : List Fibre), (∀ f ∈ l, f ∈ s.fibres) → l.foldl (fun acc f =>
      if f.inEntry c && g.is f.wg f.grp && !(s.quiet f) then
        match op s c f with
        | .ok r => acc ||| r.flags
        | .error _ => acc
      else acc) z = z := by
    intro l
    induction l with
    | nil => intro _; rfl
    | cons x r ih =>
      intro hl
      have : (if x.inEntry c && g.is x.wg x.grp && !(s.quiet x) then
        match op s c x with
        | .ok r => z ||| r.flags
        | .error _ => z
      else z) = z := by
        split
        · rename_i hx
          obtain ⟨y, hy, hz⟩ := ok x (hl x (by simp)) (by simp_all)
          simp [hy, hz]
        · rfl
      rw [List.foldl_cons, this]
      exact ih fun f hf => hl f (by simp [hf])
  exact key s.fibres fun _ h => h

/-- A word that issues for each fibre on its own, faults in none and raises no flag changes its fibres alone. -/
theorem State.issueLane_moved (s : State) (c : Issue) (op : State → Issue → Fibre → Except Trap Lane) (F : Fibre → Fibre) (hc : s.cur = some c)
    (ok : ∀ f ∈ s.fibres, f.inEntry c = true → ∃ r, op s c f = .ok r ∧ r.f = F f ∧ r.flags = 0) : s.issueLane op = s.moved c F := by
  rw [s.issueLane_ok c op hc fun f h1 h2 => let ⟨r, h, _⟩ := ok f h1 h2; ⟨r, h⟩]
  have hg : (s.groups.map fun g => g.send (s.laneSend c op g)) = s.groups := by
    have : ∀ g ∈ s.groups, g.send (s.laneSend c op g) = id g := fun g _ =>
      Group.send_none g _ (s.laneFlags_zero c op g fun f h1 h2 => let ⟨r, h, _, hf⟩ := ok f h1 h2; ⟨r, h, hf⟩)
    rw [List.map_congr_left this, List.map_id]
  have hf : s.fibres.map (s.laneStep c op) = s.fibres.map fun f => if f.inEntry c then (F f).advance c else f := by
    apply List.map_congr_left
    intro f h1
    simp only [State.laneStep, s.follows_ok c op f fun f h1 h2 => let ⟨r, h, _⟩ := ok f h1 h2; ⟨r, h⟩, Bool.and_true]
    split
    · rename_i h2
      obtain ⟨r, h, hF, _⟩ := ok f h1 h2
      simp [h, hF]
    · rfl
  rw [hg, hf]; rfl

end Sys2Proof.Machine
end

