-- ==== Sys2Proof/Laws/PerInstr.lean ====
section
/-! SUPPORT. For each instruction: its word, if it has one, decodes to it. The decoder's arms and the encoder's are two readings of the same encodings, and each lemma holds them together for one instruction. -/

namespace Sys2Proof.Laws.RoundTrip

set_option Elab.async false

/-- A fibre's word of an instruction names it, before the checks of reserved values; a queue program's word decodes to it (R39 to R45, R493). -/
def Statement (i : Instr) : Prop := (∀ w, encode i = some w → decodeRaw w = some i) ∧ (∀ w, encodeQ i = some w → decodeQ w = some i)

theorem of_word {i : Instr} (q : encodeQ i = none) (r : ∀ w, encode i = some w → decodeRaw w = some i) : Statement i := ⟨r, fun w h => by rw [q] at h; cases h⟩

theorem of_queue {i : Instr} (q : encode i = none) (r : ∀ w, encodeQ i = some w → decodeQ w = some i) : Statement i := ⟨fun w h => (by rw [q] at h; cases h), r⟩

theorem of_none {i : Instr} (e : encode i = none) (q : encodeQ i = none) : Statement i := ⟨fun w h => (by rw [e] at h; cases h), fun w h => (by rw [q] at h; cases h)⟩

theorem add (h g m d a b) : Statement (.add h g m d a b) := by
  refine of_word rfl fun wd he => ?_
  have hp : Packs wd 0x01000000 [(23, 1, h.toNat), (22, 1, g.toNat), (21, 1, m.toNat), (14, 7, d.toNat), (7, 7, a.toNat), (0, 7, b.toNat)] := packs [(23, 1), (22, 1), (21, 1), (14, 7), (7, 7), (0, 7)] he rfl rfl (by decide) ⟨toNat_lt_two_pow_one _, toNat_lt_two_pow_one _, toNat_lt_two_pow_one _, d.isLt, a.isLt, b.isLt, trivial⟩
  exact (hp.major 1 rfl rfl (by decide)).trans ((by show some (Instr.add (bit wd 23) (bit wd 22) (bit wd 21) (fld wd 14 7) (fld wd 7 7) (fld wd 0 7)) = _; rw [hp.bool 23 h (.head _), hp.bool 22 g (.tail _ (.head _)), hp.bool 21 m (.tail _ (.tail _ (.head _))), hp.vec 14 d (.tail _ (.tail _ (.tail _ (.head _)))), hp.vec 7 a (.tail _ (.tail _ (.tail _ (.tail _ (.head _))))), hp.vec 0 b (.tail _ (.tail _ (.tail _ (.tail _ (.tail _ (.head _))))))]))
theorem sub (h g m d a b) : Statement (.sub h g m d a b) := by
  refine of_word rfl fun wd he => ?_
  have hp : Packs wd 0x02000000 [(23, 1, h.toNat), (22, 1, g.toNat), (21, 1, m.toNat), (14, 7, d.toNat), (7, 7, a.toNat), (0, 7, b.toNat)] := packs [(23, 1), (22, 1), (21, 1), (14, 7), (7, 7), (0, 7)] he rfl rfl (by decide) ⟨toNat_lt_two_pow_one _, toNat_lt_two_pow_one _, toNat_lt_two_pow_one _, d.isLt, a.isLt, b.isLt, trivial⟩
  exact (hp.major 2 rfl rfl (by decide)).trans ((by show some (Instr.sub (bit wd 23) (bit wd 22) (bit wd 21) (fld wd 14 7) (fld wd 7 7) (fld wd 0 7)) = _; rw [hp.bool 23 h (.head _), hp.bool 22 g (.tail _ (.head _)), hp.bool 21 m (.tail _ (.tail _ (.head _))), hp.vec 14 d (.tail _ (.tail _ (.tail _ (.head _)))), hp.vec 7 a (.tail _ (.tail _ (.tail _ (.tail _ (.head _))))), hp.vec 0 b (.tail _ (.tail _ (.tail _ (.tail _ (.tail _ (.head _))))))]))
theorem mul (h g d a b) : Statement (.mul h g d a b) := by
  refine of_word rfl fun wd he => ?_
  have hp : Packs wd 0x03000000 [(23, 1, h.toNat), (22, 1, g.toNat), (14, 7, d.toNat), (7, 7, a.toNat), (0, 7, b.toNat)] := packs [(23, 1), (22, 1), (14, 7), (7, 7), (0, 7)] he rfl rfl (by decide) ⟨toNat_lt_two_pow_one _, toNat_lt_two_pow_one _, d.isLt, a.isLt, b.isLt, trivial⟩
  have f0 := hp.free 21 1 0 rfl rfl
  exact (hp.major 3 rfl rfl (by decide)).trans ((if_pos f0).trans (by rw [hp.bool 23 h (.head _), hp.bool 22 g (.tail _ (.head _)), hp.vec 14 d (.tail _ (.tail _ (.head _))), hp.vec 7 a (.tail _ (.tail _ (.tail _ (.head _)))), hp.vec 0 b (.tail _ (.tail _ (.tail _ (.tail _ (.head _)))))]))
theorem mulh (h g m d a b) : Statement (.mulh h g m d a b) := by
  refine of_word rfl fun wd he => ?_
  have hp : Packs wd 0x04000000 [(23, 1, h.toNat), (22, 1, g.toNat), (21, 1, m.toNat), (14, 7, d.toNat), (7, 7, a.toNat), (0, 7, b.toNat)] := packs [(23, 1), (22, 1), (21, 1), (14, 7), (7, 7), (0, 7)] he rfl rfl (by decide) ⟨toNat_lt_two_pow_one _, toNat_lt_two_pow_one _, toNat_lt_two_pow_one _, d.isLt, a.isLt, b.isLt, trivial⟩
  exact (hp.major 4 rfl rfl (by decide)).trans ((by show some (Instr.mulh (bit wd 23) (bit wd 22) (bit wd 21) (fld wd 14 7) (fld wd 7 7) (fld wd 0 7)) = _; rw [hp.bool 23 h (.head _), hp.bool 22 g (.tail _ (.head _)), hp.bool 21 m (.tail _ (.tail _ (.head _))), hp.vec 14 d (.tail _ (.tail _ (.tail _ (.head _)))), hp.vec 7 a (.tail _ (.tail _ (.tail _ (.tail _ (.head _))))), hp.vec 0 b (.tail _ (.tail _ (.tail _ (.tail _ (.tail _ (.head _))))))]))
theorem imad (h g m d a b) : Statement (.imad h g m d a b) := by
  refine of_word rfl fun wd he => ?_
  have hp : Packs wd 0x05000000 [(23, 1, h.toNat), (22, 1, g.toNat), (21, 1, m.toNat), (14, 7, d.toNat), (7, 7, a.toNat), (0, 7, b.toNat)] := packs [(23, 1), (22, 1), (21, 1), (14, 7), (7, 7), (0, 7)] he rfl rfl (by decide) ⟨toNat_lt_two_pow_one _, toNat_lt_two_pow_one _, toNat_lt_two_pow_one _, d.isLt, a.isLt, b.isLt, trivial⟩
  exact (hp.major 5 rfl rfl (by decide)).trans ((by show some (Instr.imad (bit wd 23) (bit wd 22) (bit wd 21) (fld wd 14 7) (fld wd 7 7) (fld wd 0 7)) = _; rw [hp.bool 23 h (.head _), hp.bool 22 g (.tail _ (.head _)), hp.bool 21 m (.tail _ (.tail _ (.head _))), hp.vec 14 d (.tail _ (.tail _ (.tail _ (.head _)))), hp.vec 7 a (.tail _ (.tail _ (.tail _ (.tail _ (.head _))))), hp.vec 0 b (.tail _ (.tail _ (.tail _ (.tail _ (.tail _ (.head _))))))]))
theorem div (h g m d a b) : Statement (.div h g m d a b) := by
  refine of_word rfl fun wd he => ?_
  have hp : Packs wd 0x06000000 [(23, 1, h.toNat), (22, 1, g.toNat), (21, 1, m.toNat), (14, 7, d.toNat), (7, 7, a.toNat), (0, 7, b.toNat)] := packs [(23, 1), (22, 1), (21, 1), (14, 7), (7, 7), (0, 7)] he rfl rfl (by decide) ⟨toNat_lt_two_pow_one _, toNat_lt_two_pow_one _, toNat_lt_two_pow_one _, d.isLt, a.isLt, b.isLt, trivial⟩
  exact (hp.major 6 rfl rfl (by decide)).trans ((by show some (Instr.div (bit wd 23) (bit wd 22) (bit wd 21) (fld wd 14 7) (fld wd 7 7) (fld wd 0 7)) = _; rw [hp.bool 23 h (.head _), hp.bool 22 g (.tail _ (.head _)), hp.bool 21 m (.tail _ (.tail _ (.head _))), hp.vec 14 d (.tail _ (.tail _ (.tail _ (.head _)))), hp.vec 7 a (.tail _ (.tail _ (.tail _ (.tail _ (.head _))))), hp.vec 0 b (.tail _ (.tail _ (.tail _ (.tail _ (.tail _ (.head _))))))]))
theorem rem (h g m d a b) : Statement (.rem h g m d a b) := by
  refine of_word rfl fun wd he => ?_
  have hp : Packs wd 0x07000000 [(23, 1, h.toNat), (22, 1, g.toNat), (21, 1, m.toNat), (14, 7, d.toNat), (7, 7, a.toNat), (0, 7, b.toNat)] := packs [(23, 1), (22, 1), (21, 1), (14, 7), (7, 7), (0, 7)] he rfl rfl (by decide) ⟨toNat_lt_two_pow_one _, toNat_lt_two_pow_one _, toNat_lt_two_pow_one _, d.isLt, a.isLt, b.isLt, trivial⟩
  exact (hp.major 7 rfl rfl (by decide)).trans ((by show some (Instr.rem (bit wd 23) (bit wd 22) (bit wd 21) (fld wd 14 7) (fld wd 7 7) (fld wd 0 7)) = _; rw [hp.bool 23 h (.head _), hp.bool 22 g (.tail _ (.head _)), hp.bool 21 m (.tail _ (.tail _ (.head _))), hp.vec 14 d (.tail _ (.tail _ (.tail _ (.head _)))), hp.vec 7 a (.tail _ (.tail _ (.tail _ (.tail _ (.head _))))), hp.vec 0 b (.tail _ (.tail _ (.tail _ (.tail _ (.tail _ (.head _))))))]))
theorem and (h g m d a b) : Statement (.and h g m d a b) := by
  refine of_word rfl fun wd he => ?_
  have hp : Packs wd 0x08000000 [(23, 1, h.toNat), (22, 1, g.toNat), (21, 1, m.toNat), (14, 7, d.toNat), (7, 7, a.toNat), (0, 7, b.toNat)] := packs [(23, 1), (22, 1), (21, 1), (14, 7), (7, 7), (0, 7)] he rfl rfl (by decide) ⟨toNat_lt_two_pow_one _, toNat_lt_two_pow_one _, toNat_lt_two_pow_one _, d.isLt, a.isLt, b.isLt, trivial⟩
  exact (hp.major 8 rfl rfl (by decide)).trans ((by show some (Instr.and (bit wd 23) (bit wd 22) (bit wd 21) (fld wd 14 7) (fld wd 7 7) (fld wd 0 7)) = _; rw [hp.bool 23 h (.head _), hp.bool 22 g (.tail _ (.head _)), hp.bool 21 m (.tail _ (.tail _ (.head _))), hp.vec 14 d (.tail _ (.tail _ (.tail _ (.head _)))), hp.vec 7 a (.tail _ (.tail _ (.tail _ (.tail _ (.head _))))), hp.vec 0 b (.tail _ (.tail _ (.tail _ (.tail _ (.tail _ (.head _))))))]))
theorem or (h g m d a b) : Statement (.or h g m d a b) := by
  refine of_word rfl fun wd he => ?_
  have hp : Packs wd 0x09000000 [(23, 1, h.toNat), (22, 1, g.toNat), (21, 1, m.toNat), (14, 7, d.toNat), (7, 7, a.toNat), (0, 7, b.toNat)] := packs [(23, 1), (22, 1), (21, 1), (14, 7), (7, 7), (0, 7)] he rfl rfl (by decide) ⟨toNat_lt_two_pow_one _, toNat_lt_two_pow_one _, toNat_lt_two_pow_one _, d.isLt, a.isLt, b.isLt, trivial⟩
  exact (hp.major 9 rfl rfl (by decide)).trans ((by show some (Instr.or (bit wd 23) (bit wd 22) (bit wd 21) (fld wd 14 7) (fld wd 7 7) (fld wd 0 7)) = _; rw [hp.bool 23 h (.head _), hp.bool 22 g (.tail _ (.head _)), hp.bool 21 m (.tail _ (.tail _ (.head _))), hp.vec 14 d (.tail _ (.tail _ (.tail _ (.head _)))), hp.vec 7 a (.tail _ (.tail _ (.tail _ (.tail _ (.head _))))), hp.vec 0 b (.tail _ (.tail _ (.tail _ (.tail _ (.tail _ (.head _))))))]))
theorem xor (h g m d a b) : Statement (.xor h g m d a b) := by
  refine of_word rfl fun wd he => ?_
  have hp : Packs wd 0x0A000000 [(23, 1, h.toNat), (22, 1, g.toNat), (21, 1, m.toNat), (14, 7, d.toNat), (7, 7, a.toNat), (0, 7, b.toNat)] := packs [(23, 1), (22, 1), (21, 1), (14, 7), (7, 7), (0, 7)] he rfl rfl (by decide) ⟨toNat_lt_two_pow_one _, toNat_lt_two_pow_one _, toNat_lt_two_pow_one _, d.isLt, a.isLt, b.isLt, trivial⟩
  exact (hp.major 10 rfl rfl (by decide)).trans ((by show some (Instr.xor (bit wd 23) (bit wd 22) (bit wd 21) (fld wd 14 7) (fld wd 7 7) (fld wd 0 7)) = _; rw [hp.bool 23 h (.head _), hp.bool 22 g (.tail _ (.head _)), hp.bool 21 m (.tail _ (.tail _ (.head _))), hp.vec 14 d (.tail _ (.tail _ (.tail _ (.head _)))), hp.vec 7 a (.tail _ (.tail _ (.tail _ (.tail _ (.head _))))), hp.vec 0 b (.tail _ (.tail _ (.tail _ (.tail _ (.tail _ (.head _))))))]))
theorem shl (h g d a b) : Statement (.shl h g d a b) := by
  refine of_word rfl fun wd he => ?_
  have hp : Packs wd 0x0B000000 [(23, 1, h.toNat), (22, 1, g.toNat), (14, 7, d.toNat), (7, 7, a.toNat), (0, 7, b.toNat)] := packs [(23, 1), (22, 1), (14, 7), (7, 7), (0, 7)] he rfl rfl (by decide) ⟨toNat_lt_two_pow_one _, toNat_lt_two_pow_one _, d.isLt, a.isLt, b.isLt, trivial⟩
  have f0 := hp.free 21 1 0 rfl rfl
  exact (hp.major 11 rfl rfl (by decide)).trans ((if_pos f0).trans (by rw [hp.bool 23 h (.head _), hp.bool 22 g (.tail _ (.head _)), hp.vec 14 d (.tail _ (.tail _ (.head _))), hp.vec 7 a (.tail _ (.tail _ (.tail _ (.head _)))), hp.vec 0 b (.tail _ (.tail _ (.tail _ (.tail _ (.head _)))))]))
theorem shr (h g m d a b) : Statement (.shr h g m d a b) := by
  refine of_word rfl fun wd he => ?_
  have hp : Packs wd 0x0C000000 [(23, 1, h.toNat), (22, 1, g.toNat), (21, 1, m.toNat), (14, 7, d.toNat), (7, 7, a.toNat), (0, 7, b.toNat)] := packs [(23, 1), (22, 1), (21, 1), (14, 7), (7, 7), (0, 7)] he rfl rfl (by decide) ⟨toNat_lt_two_pow_one _, toNat_lt_two_pow_one _, toNat_lt_two_pow_one _, d.isLt, a.isLt, b.isLt, trivial⟩
  exact (hp.major 12 rfl rfl (by decide)).trans ((by show some (Instr.shr (bit wd 23) (bit wd 22) (bit wd 21) (fld wd 14 7) (fld wd 7 7) (fld wd 0 7)) = _; rw [hp.bool 23 h (.head _), hp.bool 22 g (.tail _ (.head _)), hp.bool 21 m (.tail _ (.tail _ (.head _))), hp.vec 14 d (.tail _ (.tail _ (.tail _ (.head _)))), hp.vec 7 a (.tail _ (.tail _ (.tail _ (.tail _ (.head _))))), hp.vec 0 b (.tail _ (.tail _ (.tail _ (.tail _ (.tail _ (.head _))))))]))
theorem min (h g m d a b) : Statement (.min h g m d a b) := by
  refine of_word rfl fun wd he => ?_
  have hp : Packs wd 0x0D000000 [(23, 1, h.toNat), (22, 1, g.toNat), (21, 1, m.toNat), (14, 7, d.toNat), (7, 7, a.toNat), (0, 7, b.toNat)] := packs [(23, 1), (22, 1), (21, 1), (14, 7), (7, 7), (0, 7)] he rfl rfl (by decide) ⟨toNat_lt_two_pow_one _, toNat_lt_two_pow_one _, toNat_lt_two_pow_one _, d.isLt, a.isLt, b.isLt, trivial⟩
  exact (hp.major 13 rfl rfl (by decide)).trans ((by show some (Instr.min (bit wd 23) (bit wd 22) (bit wd 21) (fld wd 14 7) (fld wd 7 7) (fld wd 0 7)) = _; rw [hp.bool 23 h (.head _), hp.bool 22 g (.tail _ (.head _)), hp.bool 21 m (.tail _ (.tail _ (.head _))), hp.vec 14 d (.tail _ (.tail _ (.tail _ (.head _)))), hp.vec 7 a (.tail _ (.tail _ (.tail _ (.tail _ (.head _))))), hp.vec 0 b (.tail _ (.tail _ (.tail _ (.tail _ (.tail _ (.head _))))))]))
theorem max (h g m d a b) : Statement (.max h g m d a b) := by
  refine of_word rfl fun wd he => ?_
  have hp : Packs wd 0x0E000000 [(23, 1, h.toNat), (22, 1, g.toNat), (21, 1, m.toNat), (14, 7, d.toNat), (7, 7, a.toNat), (0, 7, b.toNat)] := packs [(23, 1), (22, 1), (21, 1), (14, 7), (7, 7), (0, 7)] he rfl rfl (by decide) ⟨toNat_lt_two_pow_one _, toNat_lt_two_pow_one _, toNat_lt_two_pow_one _, d.isLt, a.isLt, b.isLt, trivial⟩
  exact (hp.major 14 rfl rfl (by decide)).trans ((by show some (Instr.max (bit wd 23) (bit wd 22) (bit wd 21) (fld wd 14 7) (fld wd 7 7) (fld wd 0 7)) = _; rw [hp.bool 23 h (.head _), hp.bool 22 g (.tail _ (.head _)), hp.bool 21 m (.tail _ (.tail _ (.head _))), hp.vec 14 d (.tail _ (.tail _ (.tail _ (.head _)))), hp.vec 7 a (.tail _ (.tail _ (.tail _ (.tail _ (.head _))))), hp.vec 0 b (.tail _ (.tail _ (.tail _ (.tail _ (.tail _ (.head _))))))]))
theorem iunMov (h m d a) : Statement (.iunMov h m d a) := by
  refine of_word rfl fun wd he => ?_
  have hp : Packs wd 0x0F000000 [(23, 1, h.toNat), (21, 1, m.toNat), (14, 7, d.toNat), (7, 7, a.toNat)] := packs [(23, 1), (21, 1), (14, 7), (7, 7)] he rfl rfl (by decide) ⟨toNat_lt_two_pow_one _, toNat_lt_two_pow_one _, d.isLt, a.isLt, trivial⟩
  have f0 := hp.free 0 7 0 rfl rfl
  have f1 := hp.free 22 1 0 rfl rfl
  exact (hp.major 15 rfl rfl (by decide)).trans ((if_pos ⟨f0, f1⟩).trans (by rw [hp.bool 23 h (.head _), hp.bool 21 m (.tail _ (.head _)), hp.vec 14 d (.tail _ (.tail _ (.head _))), hp.vec 7 a (.tail _ (.tail _ (.tail _ (.head _))))]))
theorem iunNot (h m d a) : Statement (.iunNot h m d a) := by
  refine of_word rfl fun wd he => ?_
  have hp : Packs wd 0x0F000001 [(23, 1, h.toNat), (21, 1, m.toNat), (14, 7, d.toNat), (7, 7, a.toNat)] := packs [(23, 1), (21, 1), (14, 7), (7, 7)] he rfl rfl (by decide) ⟨toNat_lt_two_pow_one _, toNat_lt_two_pow_one _, d.isLt, a.isLt, trivial⟩
  have f0 := hp.free 0 7 1 rfl rfl
  have f1 := hp.free 22 1 0 rfl rfl
  exact (hp.major 15 rfl rfl (by decide)).trans ((if_neg fun h => no f0 h.1).trans ((if_pos ⟨f0, f1⟩).trans (by rw [hp.bool 23 h (.head _), hp.bool 21 m (.tail _ (.head _)), hp.vec 14 d (.tail _ (.tail _ (.head _))), hp.vec 7 a (.tail _ (.tail _ (.tail _ (.head _))))])))
theorem iunNeg (h m d a) : Statement (.iunNeg h m d a) := by
  refine of_word rfl fun wd he => ?_
  have hp : Packs wd 0x0F000002 [(23, 1, h.toNat), (21, 1, m.toNat), (14, 7, d.toNat), (7, 7, a.toNat)] := packs [(23, 1), (21, 1), (14, 7), (7, 7)] he rfl rfl (by decide) ⟨toNat_lt_two_pow_one _, toNat_lt_two_pow_one _, d.isLt, a.isLt, trivial⟩
  have f0 := hp.free 0 7 2 rfl rfl
  have f1 := hp.free 22 1 0 rfl rfl
  exact (hp.major 15 rfl rfl (by decide)).trans ((if_neg fun h => no f0 h.1).trans ((if_neg fun h => no f0 h.1).trans ((if_pos ⟨f0, f1⟩).trans (by rw [hp.bool 23 h (.head _), hp.bool 21 m (.tail _ (.head _)), hp.vec 14 d (.tail _ (.tail _ (.head _))), hp.vec 7 a (.tail _ (.tail _ (.tail _ (.head _))))]))))
theorem iunAbs (h m d a) : Statement (.iunAbs h m d a) := by
  refine of_word rfl fun wd he => ?_
  have hp : Packs wd 0x0F000003 [(23, 1, h.toNat), (21, 1, m.toNat), (14, 7, d.toNat), (7, 7, a.toNat)] := packs [(23, 1), (21, 1), (14, 7), (7, 7)] he rfl rfl (by decide) ⟨toNat_lt_two_pow_one _, toNat_lt_two_pow_one _, d.isLt, a.isLt, trivial⟩
  have f0 := hp.free 0 7 3 rfl rfl
  have f1 := hp.free 22 1 0 rfl rfl
  exact (hp.major 15 rfl rfl (by decide)).trans ((if_neg fun h => no f0 h.1).trans ((if_neg fun h => no f0 h.1).trans ((if_neg fun h => no f0 h.1).trans ((if_pos ⟨f0, f1⟩).trans (by rw [hp.bool 23 h (.head _), hp.bool 21 m (.tail _ (.head _)), hp.vec 14 d (.tail _ (.tail _ (.head _))), hp.vec 7 a (.tail _ (.tail _ (.tail _ (.head _))))])))))
theorem iunClz (h m d a) : Statement (.iunClz h m d a) := by
  refine of_word rfl fun wd he => ?_
  have hp : Packs wd 0x0F000004 [(23, 1, h.toNat), (21, 1, m.toNat), (14, 7, d.toNat), (7, 7, a.toNat)] := packs [(23, 1), (21, 1), (14, 7), (7, 7)] he rfl rfl (by decide) ⟨toNat_lt_two_pow_one _, toNat_lt_two_pow_one _, d.isLt, a.isLt, trivial⟩
  have f0 := hp.free 0 7 4 rfl rfl
  have f1 := hp.free 22 1 0 rfl rfl
  exact (hp.major 15 rfl rfl (by decide)).trans ((if_neg fun h => no f0 h.1).trans ((if_neg fun h => no f0 h.1).trans ((if_neg fun h => no f0 h.1).trans ((if_neg fun h => no f0 h.1).trans ((if_pos ⟨f0, f1⟩).trans (by rw [hp.bool 23 h (.head _), hp.bool 21 m (.tail _ (.head _)), hp.vec 14 d (.tail _ (.tail _ (.head _))), hp.vec 7 a (.tail _ (.tail _ (.tail _ (.head _))))]))))))
theorem iunCtz (h m d a) : Statement (.iunCtz h m d a) := by
  refine of_word rfl fun wd he => ?_
  have hp : Packs wd 0x0F000005 [(23, 1, h.toNat), (21, 1, m.toNat), (14, 7, d.toNat), (7, 7, a.toNat)] := packs [(23, 1), (21, 1), (14, 7), (7, 7)] he rfl rfl (by decide) ⟨toNat_lt_two_pow_one _, toNat_lt_two_pow_one _, d.isLt, a.isLt, trivial⟩
  have f0 := hp.free 0 7 5 rfl rfl
  have f1 := hp.free 22 1 0 rfl rfl
  exact (hp.major 15 rfl rfl (by decide)).trans ((if_neg fun h => no f0 h.1).trans ((if_neg fun h => no f0 h.1).trans ((if_neg fun h => no f0 h.1).trans ((if_neg fun h => no f0 h.1).trans ((if_neg fun h => no f0 h.1).trans ((if_pos ⟨f0, f1⟩).trans (by rw [hp.bool 23 h (.head _), hp.bool 21 m (.tail _ (.head _)), hp.vec 14 d (.tail _ (.tail _ (.head _))), hp.vec 7 a (.tail _ (.tail _ (.tail _ (.head _))))])))))))
theorem iunPopc (h m d a) : Statement (.iunPopc h m d a) := by
  refine of_word rfl fun wd he => ?_
  have hp : Packs wd 0x0F000006 [(23, 1, h.toNat), (21, 1, m.toNat), (14, 7, d.toNat), (7, 7, a.toNat)] := packs [(23, 1), (21, 1), (14, 7), (7, 7)] he rfl rfl (by decide) ⟨toNat_lt_two_pow_one _, toNat_lt_two_pow_one _, d.isLt, a.isLt, trivial⟩
  have f0 := hp.free 0 7 6 rfl rfl
  have f1 := hp.free 22 1 0 rfl rfl
  exact (hp.major 15 rfl rfl (by decide)).trans ((if_neg fun h => no f0 h.1).trans ((if_neg fun h => no f0 h.1).trans ((if_neg fun h => no f0 h.1).trans ((if_neg fun h => no f0 h.1).trans ((if_neg fun h => no f0 h.1).trans ((if_neg fun h => no f0 h.1).trans ((if_pos ⟨f0, f1⟩).trans (by rw [hp.bool 23 h (.head _), hp.bool 21 m (.tail _ (.head _)), hp.vec 14 d (.tail _ (.tail _ (.head _))), hp.vec 7 a (.tail _ (.tail _ (.tail _ (.head _))))]))))))))
theorem iunBrev (h m d a) : Statement (.iunBrev h m d a) := by
  refine of_word rfl fun wd he => ?_
  have hp : Packs wd 0x0F000007 [(23, 1, h.toNat), (21, 1, m.toNat), (14, 7, d.toNat), (7, 7, a.toNat)] := packs [(23, 1), (21, 1), (14, 7), (7, 7)] he rfl rfl (by decide) ⟨toNat_lt_two_pow_one _, toNat_lt_two_pow_one _, d.isLt, a.isLt, trivial⟩
  have f0 := hp.free 0 7 7 rfl rfl
  have f1 := hp.free 22 1 0 rfl rfl
  exact (hp.major 15 rfl rfl (by decide)).trans ((if_neg fun h => no f0 h.1).trans ((if_neg fun h => no f0 h.1).trans ((if_neg fun h => no f0 h.1).trans ((if_neg fun h => no f0 h.1).trans ((if_neg fun h => no f0 h.1).trans ((if_neg fun h => no f0 h.1).trans ((if_neg fun h => no f0 h.1).trans ((if_pos ⟨f0, f1⟩).trans (by rw [hp.bool 23 h (.head _), hp.bool 21 m (.tail _ (.head _)), hp.vec 14 d (.tail _ (.tail _ (.head _))), hp.vec 7 a (.tail _ (.tail _ (.tail _ (.head _))))])))))))))
theorem iunBswap (h m d a) : Statement (.iunBswap h m d a) := by
  refine of_word rfl fun wd he => ?_
  have hp : Packs wd 0x0F000008 [(23, 1, h.toNat), (21, 1, m.toNat), (14, 7, d.toNat), (7, 7, a.toNat)] := packs [(23, 1), (21, 1), (14, 7), (7, 7)] he rfl rfl (by decide) ⟨toNat_lt_two_pow_one _, toNat_lt_two_pow_one _, d.isLt, a.isLt, trivial⟩
  have f0 := hp.free 0 7 8 rfl rfl
  have f1 := hp.free 22 1 0 rfl rfl
  exact (hp.major 15 rfl rfl (by decide)).trans ((if_neg fun h => no f0 h.1).trans ((if_neg fun h => no f0 h.1).trans ((if_neg fun h => no f0 h.1).trans ((if_neg fun h => no f0 h.1).trans ((if_neg fun h => no f0 h.1).trans ((if_neg fun h => no f0 h.1).trans ((if_neg fun h => no f0 h.1).trans ((if_neg fun h => no f0 h.1).trans ((if_pos ⟨f0, f1⟩).trans (by rw [hp.bool 23 h (.head _), hp.bool 21 m (.tail _ (.head _)), hp.vec 14 d (.tail _ (.tail _ (.head _))), hp.vec 7 a (.tail _ (.tail _ (.tail _ (.head _))))]))))))))))
theorem iunSextb (h d a) : Statement (.iunSextb h d a) := by
  refine of_word rfl fun wd he => ?_
  have hp : Packs wd 0x0F000009 [(23, 1, h.toNat), (14, 7, d.toNat), (7, 7, a.toNat)] := packs [(23, 1), (14, 7), (7, 7)] he rfl rfl (by decide) ⟨toNat_lt_two_pow_one _, d.isLt, a.isLt, trivial⟩
  have f0 := hp.free 0 7 9 rfl rfl
  have f1 := hp.free 21 2 0 rfl rfl
  exact (hp.major 15 rfl rfl (by decide)).trans ((if_neg fun h => no f0 h.1).trans ((if_neg fun h => no f0 h.1).trans ((if_neg fun h => no f0 h.1).trans ((if_neg fun h => no f0 h.1).trans ((if_neg fun h => no f0 h.1).trans ((if_neg fun h => no f0 h.1).trans ((if_neg fun h => no f0 h.1).trans ((if_neg fun h => no f0 h.1).trans ((if_neg fun h => no f0 h.1).trans ((if_pos ⟨f0, f1⟩).trans (by rw [hp.bool 23 h (.head _), hp.vec 14 d (.tail _ (.head _)), hp.vec 7 a (.tail _ (.tail _ (.head _)))])))))))))))
theorem iunSexth (h d a) : Statement (.iunSexth h d a) := by
  refine of_word rfl fun wd he => ?_
  have hp : Packs wd 0x0F00000A [(23, 1, h.toNat), (14, 7, d.toNat), (7, 7, a.toNat)] := packs [(23, 1), (14, 7), (7, 7)] he rfl rfl (by decide) ⟨toNat_lt_two_pow_one _, d.isLt, a.isLt, trivial⟩
  have f0 := hp.free 0 7 10 rfl rfl
  have f1 := hp.free 21 2 0 rfl rfl
  exact (hp.major 15 rfl rfl (by decide)).trans ((if_neg fun h => no f0 h.1).trans ((if_neg fun h => no f0 h.1).trans ((if_neg fun h => no f0 h.1).trans ((if_neg fun h => no f0 h.1).trans ((if_neg fun h => no f0 h.1).trans ((if_neg fun h => no f0 h.1).trans ((if_neg fun h => no f0 h.1).trans ((if_neg fun h => no f0 h.1).trans ((if_neg fun h => no f0 h.1).trans ((if_neg fun h => no f0 h.1).trans ((if_pos ⟨f0, f1⟩).trans (by rw [hp.bool 23 h (.head _), hp.vec 14 d (.tail _ (.head _)), hp.vec 7 a (.tail _ (.tail _ (.head _)))]))))))))))))
theorem iunZextb (h d a) : Statement (.iunZextb h d a) := by
  refine of_word rfl fun wd he => ?_
  have hp : Packs wd 0x0F00000B [(23, 1, h.toNat), (14, 7, d.toNat), (7, 7, a.toNat)] := packs [(23, 1), (14, 7), (7, 7)] he rfl rfl (by decide) ⟨toNat_lt_two_pow_one _, d.isLt, a.isLt, trivial⟩
  have f0 := hp.free 0 7 11 rfl rfl
  have f1 := hp.free 21 2 0 rfl rfl
  exact (hp.major 15 rfl rfl (by decide)).trans ((if_neg fun h => no f0 h.1).trans ((if_neg fun h => no f0 h.1).trans ((if_neg fun h => no f0 h.1).trans ((if_neg fun h => no f0 h.1).trans ((if_neg fun h => no f0 h.1).trans ((if_neg fun h => no f0 h.1).trans ((if_neg fun h => no f0 h.1).trans ((if_neg fun h => no f0 h.1).trans ((if_neg fun h => no f0 h.1).trans ((if_neg fun h => no f0 h.1).trans ((if_neg fun h => no f0 h.1).trans ((if_pos ⟨f0, f1⟩).trans (by rw [hp.bool 23 h (.head _), hp.vec 14 d (.tail _ (.head _)), hp.vec 7 a (.tail _ (.tail _ (.head _)))])))))))))))))
theorem iunZexth (h d a) : Statement (.iunZexth h d a) := by
  refine of_word rfl fun wd he => ?_
  have hp : Packs wd 0x0F00000C [(23, 1, h.toNat), (14, 7, d.toNat), (7, 7, a.toNat)] := packs [(23, 1), (14, 7), (7, 7)] he rfl rfl (by decide) ⟨toNat_lt_two_pow_one _, d.isLt, a.isLt, trivial⟩
  have f0 := hp.free 0 7 12 rfl rfl
  have f1 := hp.free 21 2 0 rfl rfl
  exact (hp.major 15 rfl rfl (by decide)).trans ((if_neg fun h => no f0 h.1).trans ((if_neg fun h => no f0 h.1).trans ((if_neg fun h => no f0 h.1).trans ((if_neg fun h => no f0 h.1).trans ((if_neg fun h => no f0 h.1).trans ((if_neg fun h => no f0 h.1).trans ((if_neg fun h => no f0 h.1).trans ((if_neg fun h => no f0 h.1).trans ((if_neg fun h => no f0 h.1).trans ((if_neg fun h => no f0 h.1).trans ((if_neg fun h => no f0 h.1).trans ((if_neg fun h => no f0 h.1).trans ((if_pos ⟨f0, f1⟩).trans (by rw [hp.bool 23 h (.head _), hp.vec 14 d (.tail _ (.head _)), hp.vec 7 a (.tail _ (.tail _ (.head _)))]))))))))))))))
theorem rot (h g m d a b) : Statement (.rot h g m d a b) := by
  refine of_word rfl fun wd he => ?_
  have hp : Packs wd 0x10000000 [(23, 1, h.toNat), (22, 1, g.toNat), (21, 1, m.toNat), (14, 7, d.toNat), (7, 7, a.toNat), (0, 7, b.toNat)] := packs [(23, 1), (22, 1), (21, 1), (14, 7), (7, 7), (0, 7)] he rfl rfl (by decide) ⟨toNat_lt_two_pow_one _, toNat_lt_two_pow_one _, toNat_lt_two_pow_one _, d.isLt, a.isLt, b.isLt, trivial⟩
  exact (hp.major 16 rfl rfl (by decide)).trans ((by show some (Instr.rot (bit wd 23) (bit wd 22) (bit wd 21) (fld wd 14 7) (fld wd 7 7) (fld wd 0 7)) = _; rw [hp.bool 23 h (.head _), hp.bool 22 g (.tail _ (.head _)), hp.bool 21 m (.tail _ (.tail _ (.head _))), hp.vec 14 d (.tail _ (.tail _ (.tail _ (.head _)))), hp.vec 7 a (.tail _ (.tail _ (.tail _ (.tail _ (.head _))))), hp.vec 0 b (.tail _ (.tail _ (.tail _ (.tail _ (.tail _ (.head _))))))]))
theorem bfx (h g m d a b) : Statement (.bfx h g m d a b) := by
  refine of_word rfl fun wd he => ?_
  have hp : Packs wd 0x11000000 [(23, 1, h.toNat), (22, 1, g.toNat), (21, 1, m.toNat), (14, 7, d.toNat), (7, 7, a.toNat), (0, 7, b.toNat)] := packs [(23, 1), (22, 1), (21, 1), (14, 7), (7, 7), (0, 7)] he rfl rfl (by decide) ⟨toNat_lt_two_pow_one _, toNat_lt_two_pow_one _, toNat_lt_two_pow_one _, d.isLt, a.isLt, b.isLt, trivial⟩
  exact (hp.major 17 rfl rfl (by decide)).trans ((by show some (Instr.bfx (bit wd 23) (bit wd 22) (bit wd 21) (fld wd 14 7) (fld wd 7 7) (fld wd 0 7)) = _; rw [hp.bool 23 h (.head _), hp.bool 22 g (.tail _ (.head _)), hp.bool 21 m (.tail _ (.tail _ (.head _))), hp.vec 14 d (.tail _ (.tail _ (.tail _ (.head _)))), hp.vec 7 a (.tail _ (.tail _ (.tail _ (.tail _ (.head _))))), hp.vec 0 b (.tail _ (.tail _ (.tail _ (.tail _ (.tail _ (.head _))))))]))
theorem bfi (h g d a b) : Statement (.bfi h g d a b) := by
  refine of_word rfl fun wd he => ?_
  have hp : Packs wd 0x12000000 [(23, 1, h.toNat), (22, 1, g.toNat), (14, 7, d.toNat), (7, 7, a.toNat), (0, 7, b.toNat)] := packs [(23, 1), (22, 1), (14, 7), (7, 7), (0, 7)] he rfl rfl (by decide) ⟨toNat_lt_two_pow_one _, toNat_lt_two_pow_one _, d.isLt, a.isLt, b.isLt, trivial⟩
  have f0 := hp.free 21 1 0 rfl rfl
  exact (hp.major 18 rfl rfl (by decide)).trans ((if_pos f0).trans (by rw [hp.bool 23 h (.head _), hp.bool 22 g (.tail _ (.head _)), hp.vec 14 d (.tail _ (.tail _ (.head _))), hp.vec 7 a (.tail _ (.tail _ (.tail _ (.head _)))), hp.vec 0 b (.tail _ (.tail _ (.tail _ (.tail _ (.head _)))))]))
theorem lea (h g m d a b) : Statement (.lea h g m d a b) := by
  refine of_word rfl fun wd he => ?_
  have hp : Packs wd 0x13000000 [(23, 1, h.toNat), (22, 1, g.toNat), (21, 1, m.toNat), (14, 7, d.toNat), (7, 7, a.toNat), (0, 7, b.toNat)] := packs [(23, 1), (22, 1), (21, 1), (14, 7), (7, 7), (0, 7)] he rfl rfl (by decide) ⟨toNat_lt_two_pow_one _, toNat_lt_two_pow_one _, toNat_lt_two_pow_one _, d.isLt, a.isLt, b.isLt, trivial⟩
  exact (hp.major 19 rfl rfl (by decide)).trans ((by show some (Instr.lea (bit wd 23) (bit wd 22) (bit wd 21) (fld wd 14 7) (fld wd 7 7) (fld wd 0 7)) = _; rw [hp.bool 23 h (.head _), hp.bool 22 g (.tail _ (.head _)), hp.bool 21 m (.tail _ (.tail _ (.head _))), hp.vec 14 d (.tail _ (.tail _ (.tail _ (.head _)))), hp.vec 7 a (.tail _ (.tail _ (.tail _ (.tail _ (.head _))))), hp.vec 0 b (.tail _ (.tail _ (.tail _ (.tail _ (.tail _ (.head _))))))]))
theorem leaw (h g m d a b) : Statement (.leaw h g m d a b) := by
  refine of_word rfl fun wd he => ?_
  have hp : Packs wd 0x14000000 [(23, 1, h.toNat), (22, 1, g.toNat), (21, 1, m.toNat), (14, 7, d.toNat), (7, 7, a.toNat), (0, 7, b.toNat)] := packs [(23, 1), (22, 1), (21, 1), (14, 7), (7, 7), (0, 7)] he rfl rfl (by decide) ⟨toNat_lt_two_pow_one _, toNat_lt_two_pow_one _, toNat_lt_two_pow_one _, d.isLt, a.isLt, b.isLt, trivial⟩
  exact (hp.major 20 rfl rfl (by decide)).trans ((by show some (Instr.leaw (bit wd 23) (bit wd 22) (bit wd 21) (fld wd 14 7) (fld wd 7 7) (fld wd 0 7)) = _; rw [hp.bool 23 h (.head _), hp.bool 22 g (.tail _ (.head _)), hp.bool 21 m (.tail _ (.tail _ (.head _))), hp.vec 14 d (.tail _ (.tail _ (.tail _ (.head _)))), hp.vec 7 a (.tail _ (.tail _ (.tail _ (.tail _ (.head _))))), hp.vec 0 b (.tail _ (.tail _ (.tail _ (.tail _ (.tail _ (.head _))))))]))
theorem addw (h g m d a b) : Statement (.addw h g m d a b) := by
  refine of_word rfl fun wd he => ?_
  have hp : Packs wd 0x15000000 [(23, 1, h.toNat), (22, 1, g.toNat), (21, 1, m.toNat), (14, 7, d.toNat), (7, 7, a.toNat), (0, 7, b.toNat)] := packs [(23, 1), (22, 1), (21, 1), (14, 7), (7, 7), (0, 7)] he rfl rfl (by decide) ⟨toNat_lt_two_pow_one _, toNat_lt_two_pow_one _, toNat_lt_two_pow_one _, d.isLt, a.isLt, b.isLt, trivial⟩
  exact (hp.major 21 rfl rfl (by decide)).trans ((by show some (Instr.addw (bit wd 23) (bit wd 22) (bit wd 21) (fld wd 14 7) (fld wd 7 7) (fld wd 0 7)) = _; rw [hp.bool 23 h (.head _), hp.bool 22 g (.tail _ (.head _)), hp.bool 21 m (.tail _ (.tail _ (.head _))), hp.vec 14 d (.tail _ (.tail _ (.tail _ (.head _)))), hp.vec 7 a (.tail _ (.tail _ (.tail _ (.tail _ (.head _))))), hp.vec 0 b (.tail _ (.tail _ (.tail _ (.tail _ (.tail _ (.head _))))))]))
theorem mulw (h g d a b) : Statement (.mulw h g d a b) := by
  refine of_word rfl fun wd he => ?_
  have hp : Packs wd 0x16000000 [(23, 1, h.toNat), (22, 1, g.toNat), (14, 7, d.toNat), (7, 7, a.toNat), (0, 7, b.toNat)] := packs [(23, 1), (22, 1), (14, 7), (7, 7), (0, 7)] he rfl rfl (by decide) ⟨toNat_lt_two_pow_one _, toNat_lt_two_pow_one _, d.isLt, a.isLt, b.isLt, trivial⟩
  have f0 := hp.free 21 1 0 rfl rfl
  exact (hp.major 22 rfl rfl (by decide)).trans ((if_pos f0).trans (by rw [hp.bool 23 h (.head _), hp.bool 22 g (.tail _ (.head _)), hp.vec 14 d (.tail _ (.tail _ (.head _))), hp.vec 7 a (.tail _ (.tail _ (.tail _ (.head _)))), hp.vec 0 b (.tail _ (.tail _ (.tail _ (.tail _ (.head _)))))]))
theorem shlw (h g d a b) : Statement (.shlw h g d a b) := by
  refine of_word rfl fun wd he => ?_
  have hp : Packs wd 0x17000000 [(23, 1, h.toNat), (22, 1, g.toNat), (14, 7, d.toNat), (7, 7, a.toNat), (0, 7, b.toNat)] := packs [(23, 1), (22, 1), (14, 7), (7, 7), (0, 7)] he rfl rfl (by decide) ⟨toNat_lt_two_pow_one _, toNat_lt_two_pow_one _, d.isLt, a.isLt, b.isLt, trivial⟩
  have f0 := hp.free 21 1 0 rfl rfl
  exact (hp.major 23 rfl rfl (by decide)).trans ((if_pos f0).trans (by rw [hp.bool 23 h (.head _), hp.bool 22 g (.tail _ (.head _)), hp.vec 14 d (.tail _ (.tail _ (.head _))), hp.vec 7 a (.tail _ (.tail _ (.tail _ (.head _)))), hp.vec 0 b (.tail _ (.tail _ (.tail _ (.tail _ (.head _)))))]))
theorem shrw (h g m d a b) : Statement (.shrw h g m d a b) := by
  refine of_word rfl fun wd he => ?_
  have hp : Packs wd 0x18000000 [(23, 1, h.toNat), (22, 1, g.toNat), (21, 1, m.toNat), (14, 7, d.toNat), (7, 7, a.toNat), (0, 7, b.toNat)] := packs [(23, 1), (22, 1), (21, 1), (14, 7), (7, 7), (0, 7)] he rfl rfl (by decide) ⟨toNat_lt_two_pow_one _, toNat_lt_two_pow_one _, toNat_lt_two_pow_one _, d.isLt, a.isLt, b.isLt, trivial⟩
  exact (hp.major 24 rfl rfl (by decide)).trans ((by show some (Instr.shrw (bit wd 23) (bit wd 22) (bit wd 21) (fld wd 14 7) (fld wd 7 7) (fld wd 0 7)) = _; rw [hp.bool 23 h (.head _), hp.bool 22 g (.tail _ (.head _)), hp.bool 21 m (.tail _ (.tail _ (.head _))), hp.vec 14 d (.tail _ (.tail _ (.tail _ (.head _)))), hp.vec 7 a (.tail _ (.tail _ (.tail _ (.tail _ (.head _))))), hp.vec 0 b (.tail _ (.tail _ (.tail _ (.tail _ (.tail _ (.head _))))))]))
theorem sel (p d a b) : Statement (.sel p d a b) := by
  refine of_word rfl fun wd he => ?_
  have hp : Packs wd 0x19000000 [(21, 3, p.toNat), (14, 7, d.toNat), (7, 7, a.toNat), (0, 7, b.toNat)] := packs [(21, 3), (14, 7), (7, 7), (0, 7)] he rfl rfl (by decide) ⟨p.isLt, d.isLt, a.isLt, b.isLt, trivial⟩
  exact (hp.major 25 rfl rfl (by decide)).trans ((by show some (Instr.sel (fld wd 21 3) (fld wd 14 7) (fld wd 7 7) (fld wd 0 7)) = _; rw [hp.vec 21 p (.head _), hp.vec 14 d (.tail _ (.head _)), hp.vec 7 a (.tail _ (.tail _ (.head _))), hp.vec 0 b (.tail _ (.tail _ (.tail _ (.head _))))]))
theorem addi (i d a) : Statement (.addi i d a) := by
  refine of_word rfl fun wd he => ?_
  have hp : Packs wd 0x1A000000 [(21, 3, i.toNat / 2 ^ 7), (0, 7, i.toNat % 2 ^ 7), (14, 7, d.toNat), (7, 7, a.toNat)] := packs [(21, 3), (0, 7), (14, 7), (7, 7)] he rfl rfl (by decide) ⟨half_lt (k := 3) (m := 7) i, Nat.mod_lt _ (by decide), d.isLt, a.isLt, trivial⟩
  exact (hp.major 26 rfl rfl (by decide)).trans ((by show some (Instr.addi (fld wd 21 3 ++ fld wd 0 7) (fld wd 14 7) (fld wd 7 7)) = _; rw [hp.halves 21 0 3 7 i (.head _) (.tail _ (.head _)), hp.vec 14 d (.tail _ (.tail _ (.head _))), hp.vec 7 a (.tail _ (.tail _ (.tail _ (.head _))))]))
theorem andi (i d a) : Statement (.andi i d a) := by
  refine of_word rfl fun wd he => ?_
  have hp : Packs wd 0x1B000000 [(21, 3, i.toNat / 2 ^ 7), (0, 7, i.toNat % 2 ^ 7), (14, 7, d.toNat), (7, 7, a.toNat)] := packs [(21, 3), (0, 7), (14, 7), (7, 7)] he rfl rfl (by decide) ⟨half_lt (k := 3) (m := 7) i, Nat.mod_lt _ (by decide), d.isLt, a.isLt, trivial⟩
  exact (hp.major 27 rfl rfl (by decide)).trans ((by show some (Instr.andi (fld wd 21 3 ++ fld wd 0 7) (fld wd 14 7) (fld wd 7 7)) = _; rw [hp.halves 21 0 3 7 i (.head _) (.tail _ (.head _)), hp.vec 14 d (.tail _ (.tail _ (.head _))), hp.vec 7 a (.tail _ (.tail _ (.tail _ (.head _))))]))
theorem ori (i d a) : Statement (.ori i d a) := by
  refine of_word rfl fun wd he => ?_
  have hp : Packs wd 0x1C000000 [(21, 3, i.toNat / 2 ^ 7), (0, 7, i.toNat % 2 ^ 7), (14, 7, d.toNat), (7, 7, a.toNat)] := packs [(21, 3), (0, 7), (14, 7), (7, 7)] he rfl rfl (by decide) ⟨half_lt (k := 3) (m := 7) i, Nat.mod_lt _ (by decide), d.isLt, a.isLt, trivial⟩
  exact (hp.major 28 rfl rfl (by decide)).trans ((by show some (Instr.ori (fld wd 21 3 ++ fld wd 0 7) (fld wd 14 7) (fld wd 7 7)) = _; rw [hp.halves 21 0 3 7 i (.head _) (.tail _ (.head _)), hp.vec 14 d (.tail _ (.tail _ (.head _))), hp.vec 7 a (.tail _ (.tail _ (.tail _ (.head _))))]))
theorem xori (i d a) : Statement (.xori i d a) := by
  refine of_word rfl fun wd he => ?_
  have hp : Packs wd 0x1D000000 [(21, 3, i.toNat / 2 ^ 7), (0, 7, i.toNat % 2 ^ 7), (14, 7, d.toNat), (7, 7, a.toNat)] := packs [(21, 3), (0, 7), (14, 7), (7, 7)] he rfl rfl (by decide) ⟨half_lt (k := 3) (m := 7) i, Nat.mod_lt _ (by decide), d.isLt, a.isLt, trivial⟩
  exact (hp.major 29 rfl rfl (by decide)).trans ((by show some (Instr.xori (fld wd 21 3 ++ fld wd 0 7) (fld wd 14 7) (fld wd 7 7)) = _; rw [hp.halves 21 0 3 7 i (.head _) (.tail _ (.head _)), hp.vec 14 d (.tail _ (.tail _ (.head _))), hp.vec 7 a (.tail _ (.tail _ (.tail _ (.head _))))]))
theorem shi (k d a n) : Statement (.shi k d a n) := by
  refine of_word rfl fun wd he => ?_
  have hp : Packs wd 0x1E000000 [(22, 2, k.toNat), (14, 7, d.toNat), (7, 7, a.toNat), (0, 5, n.toNat)] := packs [(22, 2), (14, 7), (7, 7), (0, 5)] he rfl rfl (by decide) ⟨k.isLt, d.isLt, a.isLt, n.isLt, trivial⟩
  have f0 := hp.free 5 2 0 rfl rfl
  have f1 := hp.free 21 1 0 rfl rfl
  exact (hp.major 30 rfl rfl (by decide)).trans ((if_pos ⟨f0, f1⟩).trans (by rw [hp.vec 22 k (.head _), hp.vec 14 d (.tail _ (.head _)), hp.vec 7 a (.tail _ (.tail _ (.head _))), hp.vec 0 n (.tail _ (.tail _ (.tail _ (.head _))))]))
theorem muli (i d a) : Statement (.muli i d a) := by
  refine of_word rfl fun wd he => ?_
  have hp : Packs wd 0x1F000000 [(21, 3, i.toNat / 2 ^ 7), (0, 7, i.toNat % 2 ^ 7), (14, 7, d.toNat), (7, 7, a.toNat)] := packs [(21, 3), (0, 7), (14, 7), (7, 7)] he rfl rfl (by decide) ⟨half_lt (k := 3) (m := 7) i, Nat.mod_lt _ (by decide), d.isLt, a.isLt, trivial⟩
  exact (hp.major 31 rfl rfl (by decide)).trans ((by show some (Instr.muli (fld wd 21 3 ++ fld wd 0 7) (fld wd 14 7) (fld wd 7 7)) = _; rw [hp.halves 21 0 3 7 i (.head _) (.tail _ (.head _)), hp.vec 14 d (.tail _ (.tail _ (.head _))), hp.vec 7 a (.tail _ (.tail _ (.tail _ (.head _))))]))
theorem li (i d) : Statement (.li i d) := by
  refine of_word rfl fun wd he => ?_
  have hp : Packs wd 0x20000000 [(21, 3, i.toNat / 2 ^ 14), (0, 14, i.toNat % 2 ^ 14), (14, 7, d.toNat)] := packs [(21, 3), (0, 14), (14, 7)] he rfl rfl (by decide) ⟨half_lt (k := 3) (m := 14) i, Nat.mod_lt _ (by decide), d.isLt, trivial⟩
  exact (hp.major 32 rfl rfl (by decide)).trans ((by show some (Instr.li (fld wd 21 3 ++ fld wd 0 14) (fld wd 14 7)) = _; rw [hp.halves 21 0 3 14 i (.head _) (.tail _ (.head _)), hp.vec 14 d (.tail _ (.tail _ (.head _)))]))
theorem lih (i d) : Statement (.lih i d) := by
  refine of_word rfl fun wd he => ?_
  have hp : Packs wd 0x21000000 [(21, 3, i.toNat / 2 ^ 14), (0, 14, i.toNat % 2 ^ 14), (14, 7, d.toNat)] := packs [(21, 3), (0, 14), (14, 7)] he rfl rfl (by decide) ⟨half_lt (k := 3) (m := 14) i, Nat.mod_lt _ (by decide), d.isLt, trivial⟩
  exact (hp.major 33 rfl rfl (by decide)).trans ((by show some (Instr.lih (fld wd 21 3 ++ fld wd 0 14) (fld wd 14 7)) = _; rw [hp.halves 21 0 3 14 i (.head _) (.tail _ (.head _)), hp.vec 14 d (.tail _ (.tail _ (.head _)))]))
theorem addiw (i d a) : Statement (.addiw i d a) := by
  refine of_word rfl fun wd he => ?_
  have hp : Packs wd 0x22000000 [(21, 3, i.toNat / 2 ^ 7), (0, 7, i.toNat % 2 ^ 7), (14, 7, d.toNat), (7, 7, a.toNat)] := packs [(21, 3), (0, 7), (14, 7), (7, 7)] he rfl rfl (by decide) ⟨half_lt (k := 3) (m := 7) i, Nat.mod_lt _ (by decide), d.isLt, a.isLt, trivial⟩
  exact (hp.major 34 rfl rfl (by decide)).trans ((by show some (Instr.addiw (fld wd 21 3 ++ fld wd 0 7) (fld wd 14 7) (fld wd 7 7)) = _; rw [hp.halves 21 0 3 7 i (.head _) (.tail _ (.head _)), hp.vec 14 d (.tail _ (.tail _ (.head _))), hp.vec 7 a (.tail _ (.tail _ (.tail _ (.head _))))]))
theorem icmp (c p e a b) : Statement (.icmp c p e a b) := by
  refine of_word rfl fun wd he => ?_
  have hp : Packs wd 0x23000000 [(20, 4, c.toNat), (16, 4, p.toNat), (14, 2, e.toNat), (7, 7, a.toNat), (0, 7, b.toNat)] := packs [(20, 4), (16, 4), (14, 2), (7, 7), (0, 7)] he rfl rfl (by decide) ⟨c.isLt, p.isLt, e.isLt, a.isLt, b.isLt, trivial⟩
  exact (hp.major 35 rfl rfl (by decide)).trans ((by show some (Instr.icmp (fld wd 20 4) (fld wd 16 4) (fld wd 14 2) (fld wd 7 7) (fld wd 0 7)) = _; rw [hp.vec 20 c (.head _), hp.vec 16 p (.tail _ (.head _)), hp.vec 14 e (.tail _ (.tail _ (.head _))), hp.vec 7 a (.tail _ (.tail _ (.tail _ (.head _)))), hp.vec 0 b (.tail _ (.tail _ (.tail _ (.tail _ (.head _)))))]))
theorem icmpi (c p e a i) : Statement (.icmpi c p e a i) := by
  refine of_word rfl fun wd he => ?_
  have hp : Packs wd 0x24000000 [(20, 4, c.toNat), (16, 4, p.toNat), (14, 2, e.toNat), (7, 7, a.toNat), (0, 7, i.toNat)] := packs [(20, 4), (16, 4), (14, 2), (7, 7), (0, 7)] he rfl rfl (by decide) ⟨c.isLt, p.isLt, e.isLt, a.isLt, i.isLt, trivial⟩
  exact (hp.major 36 rfl rfl (by decide)).trans ((by show some (Instr.icmpi (fld wd 20 4) (fld wd 16 4) (fld wd 14 2) (fld wd 7 7) (fld wd 0 7)) = _; rw [hp.vec 20 c (.head _), hp.vec 16 p (.tail _ (.head _)), hp.vec 14 e (.tail _ (.tail _ (.head _))), hp.vec 7 a (.tail _ (.tail _ (.tail _ (.head _)))), hp.vec 0 i (.tail _ (.tail _ (.tail _ (.tail _ (.head _)))))]))
theorem icmpw (c p e a b) : Statement (.icmpw c p e a b) := by
  refine of_word rfl fun wd he => ?_
  have hp : Packs wd 0x25000000 [(20, 4, c.toNat), (16, 4, p.toNat), (14, 2, e.toNat), (7, 7, a.toNat), (0, 7, b.toNat)] := packs [(20, 4), (16, 4), (14, 2), (7, 7), (0, 7)] he rfl rfl (by decide) ⟨c.isLt, p.isLt, e.isLt, a.isLt, b.isLt, trivial⟩
  exact (hp.major 37 rfl rfl (by decide)).trans ((by show some (Instr.icmpw (fld wd 20 4) (fld wd 16 4) (fld wd 14 2) (fld wd 7 7) (fld wd 0 7)) = _; rw [hp.vec 20 c (.head _), hp.vec 16 p (.tail _ (.head _)), hp.vec 14 e (.tail _ (.tail _ (.head _))), hp.vec 7 a (.tail _ (.tail _ (.tail _ (.head _)))), hp.vec 0 b (.tail _ (.tail _ (.tail _ (.tail _ (.head _)))))]))
theorem fcmp (c p e a b) : Statement (.fcmp c p e a b) := by
  refine of_word rfl fun wd he => ?_
  have hp : Packs wd 0x26000000 [(20, 4, c.toNat), (16, 4, p.toNat), (14, 2, e.toNat), (7, 7, a.toNat), (0, 7, b.toNat)] := packs [(20, 4), (16, 4), (14, 2), (7, 7), (0, 7)] he rfl rfl (by decide) ⟨c.isLt, p.isLt, e.isLt, a.isLt, b.isLt, trivial⟩
  exact (hp.major 38 rfl rfl (by decide)).trans ((by show some (Instr.fcmp (fld wd 20 4) (fld wd 16 4) (fld wd 14 2) (fld wd 7 7) (fld wd 0 7)) = _; rw [hp.vec 20 c (.head _), hp.vec 16 p (.tail _ (.head _)), hp.vec 14 e (.tail _ (.tail _ (.head _))), hp.vec 7 a (.tail _ (.tail _ (.tail _ (.head _)))), hp.vec 0 b (.tail _ (.tail _ (.tail _ (.tail _ (.head _)))))]))
theorem dcmp (c p e a b) : Statement (.dcmp c p e a b) := by
  refine of_word rfl fun wd he => ?_
  have hp : Packs wd 0x27000000 [(20, 4, c.toNat), (16, 4, p.toNat), (14, 2, e.toNat), (7, 7, a.toNat), (0, 7, b.toNat)] := packs [(20, 4), (16, 4), (14, 2), (7, 7), (0, 7)] he rfl rfl (by decide) ⟨c.isLt, p.isLt, e.isLt, a.isLt, b.isLt, trivial⟩
  exact (hp.major 39 rfl rfl (by decide)).trans ((by show some (Instr.dcmp (fld wd 20 4) (fld wd 16 4) (fld wd 14 2) (fld wd 7 7) (fld wd 0 7)) = _; rw [hp.vec 20 c (.head _), hp.vec 16 p (.tail _ (.head _)), hp.vec 14 e (.tail _ (.tail _ (.head _))), hp.vec 7 a (.tail _ (.tail _ (.tail _ (.head _)))), hp.vec 0 b (.tail _ (.tail _ (.tail _ (.tail _ (.head _)))))]))
theorem plog (t p x y) : Statement (.plog t p x y) := by
  refine of_word rfl fun wd he => ?_
  have hp : Packs wd 0x28000000 [(20, 4, t.toNat), (16, 4, p.toNat), (10, 4, x.toNat), (6, 4, y.toNat)] := packs [(20, 4), (16, 4), (10, 4), (6, 4)] he rfl rfl (by decide) ⟨t.isLt, p.isLt, x.isLt, y.isLt, trivial⟩
  have f0 := hp.free 0 6 0 rfl rfl
  have f1 := hp.free 14 2 0 rfl rfl
  exact (hp.major 40 rfl rfl (by decide)).trans ((if_pos ⟨f0, f1⟩).trans (by rw [hp.vec 20 t (.head _), hp.vec 16 p (.tail _ (.head _)), hp.vec 10 x (.tail _ (.tail _ (.head _))), hp.vec 6 y (.tail _ (.tail _ (.tail _ (.head _))))]))
theorem pmovToLane (h g d p) : Statement (.pmovToLane h g d p) := by
  refine of_word rfl fun wd he => ?_
  have hp : Packs wd 0x29000000 [(23, 1, h.toNat), (22, 1, g.toNat), (14, 7, d.toNat), (7, 4, p.toNat)] := packs [(23, 1), (22, 1), (14, 7), (7, 4)] he rfl rfl (by decide) ⟨toNat_lt_two_pow_one _, toNat_lt_two_pow_one _, d.isLt, p.isLt, trivial⟩
  have f0 := hp.free 0 7 0 rfl rfl
  have f1 := hp.free 11 3 0 rfl rfl
  have f2 := hp.free 21 1 0 rfl rfl
  exact (hp.major 41 rfl rfl (by decide)).trans ((if_pos ⟨f0, f1, f2⟩).trans (by rw [hp.bool 23 h (.head _), hp.bool 22 g (.tail _ (.head _)), hp.vec 14 d (.tail _ (.tail _ (.head _))), hp.vec 7 p (.tail _ (.tail _ (.tail _ (.head _))))]))
theorem pmovToPred (h g p a) : Statement (.pmovToPred h g p a) := by
  refine of_word rfl fun wd he => ?_
  have hp : Packs wd 0x29200000 [(23, 1, h.toNat), (22, 1, g.toNat), (14, 4, p.toNat), (7, 7, a.toNat)] := packs [(23, 1), (22, 1), (14, 4), (7, 7)] he rfl rfl (by decide) ⟨toNat_lt_two_pow_one _, toNat_lt_two_pow_one _, p.isLt, a.isLt, trivial⟩
  have f0 := hp.free 21 1 1 rfl rfl
  have f1 := hp.free 0 7 0 rfl rfl
  have f2 := hp.free 18 4 8 rfl rfl
  exact (hp.major 41 rfl rfl (by decide)).trans ((if_neg fun h => no f0 h.2.2).trans ((if_pos ⟨f1, f2⟩).trans (by rw [hp.bool 23 h (.head _), hp.bool 22 g (.tail _ (.head _)), hp.vec 14 p (.tail _ (.tail _ (.head _))), hp.vec 7 a (.tail _ (.tail _ (.tail _ (.head _))))])))
theorem kalu (o d a b) : Statement (.kalu o d a b) := by
  refine of_word rfl fun wd he => ?_
  have hp : Packs wd 0x2A000000 [(21, 3, o.toNat), (14, 7, d.toNat), (7, 7, a.toNat), (0, 7, b.toNat)] := packs [(21, 3), (14, 7), (7, 7), (0, 7)] he rfl rfl (by decide) ⟨o.isLt, d.isLt, a.isLt, b.isLt, trivial⟩
  exact (hp.major 42 rfl rfl (by decide)).trans ((by show some (Instr.kalu (fld wd 21 3) (fld wd 14 7) (fld wd 7 7) (fld wd 0 7)) = _; rw [hp.vec 21 o (.head _), hp.vec 14 d (.tail _ (.head _)), hp.vec 7 a (.tail _ (.tail _ (.head _))), hp.vec 0 b (.tail _ (.tail _ (.tail _ (.head _))))]))
theorem kaddi (i d a) : Statement (.kaddi i d a) := by
  refine of_word rfl fun wd he => ?_
  have hp : Packs wd 0x2B000000 [(21, 3, i.toNat / 2 ^ 7), (0, 7, i.toNat % 2 ^ 7), (14, 5, d.toNat), (7, 5, a.toNat)] := packs [(21, 3), (0, 7), (14, 5), (7, 5)] he rfl rfl (by decide) ⟨half_lt (k := 3) (m := 7) i, Nat.mod_lt _ (by decide), d.isLt, a.isLt, trivial⟩
  have f0 := hp.free 12 2 0 rfl rfl
  have f1 := hp.free 19 2 0 rfl rfl
  exact (hp.major 43 rfl rfl (by decide)).trans ((if_pos ⟨f0, f1⟩).trans (by rw [hp.halves 21 0 3 7 i (.head _) (.tail _ (.head _)), hp.vec 14 d (.tail _ (.tail _ (.head _))), hp.vec 7 a (.tail _ (.tail _ (.tail _ (.head _))))]))
theorem kmovToK (h d a) : Statement (.kmovToK h d a) := by
  refine of_word rfl fun wd he => ?_
  have hp : Packs wd 0x2C000000 [(23, 1, h.toNat), (14, 5, d.toNat), (7, 7, a.toNat)] := packs [(23, 1), (14, 5), (7, 7)] he rfl rfl (by decide) ⟨toNat_lt_two_pow_one _, d.isLt, a.isLt, trivial⟩
  have f0 := hp.free 0 7 0 rfl rfl
  have f1 := hp.free 19 4 0 rfl rfl
  exact (hp.major 44 rfl rfl (by decide)).trans ((if_pos ⟨f0, f1⟩).trans (by rw [hp.bool 23 h (.head _), hp.vec 14 d (.tail _ (.head _)), hp.vec 7 a (.tail _ (.tail _ (.head _)))]))
theorem kmovToLane (h d a) : Statement (.kmovToLane h d a) := by
  refine of_word rfl fun wd he => ?_
  have hp : Packs wd 0x2C200000 [(23, 1, h.toNat), (14, 7, d.toNat), (7, 5, a.toNat)] := packs [(23, 1), (14, 7), (7, 5)] he rfl rfl (by decide) ⟨toNat_lt_two_pow_one _, d.isLt, a.isLt, trivial⟩
  have f0 := hp.free 21 2 1 rfl rfl
  have f1 := hp.free 0 7 0 rfl rfl
  have f2 := hp.free 12 2 0 rfl rfl
  exact (hp.major 44 rfl rfl (by decide)).trans ((if_neg fun h => noPart 2 f0 h.2).trans ((if_pos ⟨f1, f2, f0⟩).trans (by rw [hp.bool 23 h (.head _), hp.vec 14 d (.tail _ (.head _)), hp.vec 7 a (.tail _ (.tail _ (.head _)))])))
theorem kld (h d a o) : Statement (.kld h d a o) := by
  refine of_word rfl fun wd he => ?_
  have hp : Packs wd 0x2D000000 [(22, 2, h.toNat), (14, 7, d.toNat), (7, 7, a.toNat), (0, 7, o.toNat)] := packs [(22, 2), (14, 7), (7, 7), (0, 7)] he rfl rfl (by decide) ⟨h.isLt, d.isLt, a.isLt, o.isLt, trivial⟩
  have f0 := hp.free 21 1 0 rfl rfl
  exact (hp.major 45 rfl rfl (by decide)).trans ((if_pos f0).trans (by rw [hp.vec 22 h (.head _), hp.vec 14 d (.tail _ (.head _)), hp.vec 7 a (.tail _ (.tail _ (.head _))), hp.vec 0 o (.tail _ (.tail _ (.tail _ (.head _))))]))
theorem kst (h d a o) : Statement (.kst h d a o) := by
  refine of_word rfl fun wd he => ?_
  have hp : Packs wd 0x2E000000 [(22, 2, h.toNat), (14, 7, d.toNat), (7, 7, a.toNat), (0, 7, o.toNat)] := packs [(22, 2), (14, 7), (7, 7), (0, 7)] he rfl rfl (by decide) ⟨h.isLt, d.isLt, a.isLt, o.isLt, trivial⟩
  have f0 := hp.free 21 1 0 rfl rfl
  exact (hp.major 46 rfl rfl (by decide)).trans ((if_pos f0).trans (by rw [hp.vec 22 h (.head _), hp.vec 14 d (.tail _ (.head _)), hp.vec 7 a (.tail _ (.tail _ (.head _))), hp.vec 0 o (.tail _ (.tail _ (.tail _ (.head _))))]))
theorem fadd (h g m d a b) : Statement (.fadd h g m d a b) := by
  refine of_word rfl fun wd he => ?_
  have hp : Packs wd 0x30000000 [(23, 1, h.toNat), (22, 1, g.toNat), (21, 1, m.toNat), (14, 7, d.toNat), (7, 7, a.toNat), (0, 7, b.toNat)] := packs [(23, 1), (22, 1), (21, 1), (14, 7), (7, 7), (0, 7)] he rfl rfl (by decide) ⟨toNat_lt_two_pow_one _, toNat_lt_two_pow_one _, toNat_lt_two_pow_one _, d.isLt, a.isLt, b.isLt, trivial⟩
  exact (hp.major 48 rfl rfl (by decide)).trans ((by show some (Instr.fadd (bit wd 23) (bit wd 22) (bit wd 21) (fld wd 14 7) (fld wd 7 7) (fld wd 0 7)) = _; rw [hp.bool 23 h (.head _), hp.bool 22 g (.tail _ (.head _)), hp.bool 21 m (.tail _ (.tail _ (.head _))), hp.vec 14 d (.tail _ (.tail _ (.tail _ (.head _)))), hp.vec 7 a (.tail _ (.tail _ (.tail _ (.tail _ (.head _))))), hp.vec 0 b (.tail _ (.tail _ (.tail _ (.tail _ (.tail _ (.head _))))))]))
theorem fmul (h g m d a b) : Statement (.fmul h g m d a b) := by
  refine of_word rfl fun wd he => ?_
  have hp : Packs wd 0x31000000 [(23, 1, h.toNat), (22, 1, g.toNat), (21, 1, m.toNat), (14, 7, d.toNat), (7, 7, a.toNat), (0, 7, b.toNat)] := packs [(23, 1), (22, 1), (21, 1), (14, 7), (7, 7), (0, 7)] he rfl rfl (by decide) ⟨toNat_lt_two_pow_one _, toNat_lt_two_pow_one _, toNat_lt_two_pow_one _, d.isLt, a.isLt, b.isLt, trivial⟩
  exact (hp.major 49 rfl rfl (by decide)).trans ((by show some (Instr.fmul (bit wd 23) (bit wd 22) (bit wd 21) (fld wd 14 7) (fld wd 7 7) (fld wd 0 7)) = _; rw [hp.bool 23 h (.head _), hp.bool 22 g (.tail _ (.head _)), hp.bool 21 m (.tail _ (.tail _ (.head _))), hp.vec 14 d (.tail _ (.tail _ (.tail _ (.head _)))), hp.vec 7 a (.tail _ (.tail _ (.tail _ (.tail _ (.head _))))), hp.vec 0 b (.tail _ (.tail _ (.tail _ (.tail _ (.tail _ (.head _))))))]))
theorem ffma (h g m d a b) : Statement (.ffma h g m d a b) := by
  refine of_word rfl fun wd he => ?_
  have hp : Packs wd 0x32000000 [(23, 1, h.toNat), (22, 1, g.toNat), (21, 1, m.toNat), (14, 7, d.toNat), (7, 7, a.toNat), (0, 7, b.toNat)] := packs [(23, 1), (22, 1), (21, 1), (14, 7), (7, 7), (0, 7)] he rfl rfl (by decide) ⟨toNat_lt_two_pow_one _, toNat_lt_two_pow_one _, toNat_lt_two_pow_one _, d.isLt, a.isLt, b.isLt, trivial⟩
  exact (hp.major 50 rfl rfl (by decide)).trans ((by show some (Instr.ffma (bit wd 23) (bit wd 22) (bit wd 21) (fld wd 14 7) (fld wd 7 7) (fld wd 0 7)) = _; rw [hp.bool 23 h (.head _), hp.bool 22 g (.tail _ (.head _)), hp.bool 21 m (.tail _ (.tail _ (.head _))), hp.vec 14 d (.tail _ (.tail _ (.tail _ (.head _)))), hp.vec 7 a (.tail _ (.tail _ (.tail _ (.tail _ (.head _))))), hp.vec 0 b (.tail _ (.tail _ (.tail _ (.tail _ (.tail _ (.head _))))))]))
theorem fmin (h g m d a b) : Statement (.fmin h g m d a b) := by
  refine of_word rfl fun wd he => ?_
  have hp : Packs wd 0x33000000 [(23, 1, h.toNat), (22, 1, g.toNat), (21, 1, m.toNat), (14, 7, d.toNat), (7, 7, a.toNat), (0, 7, b.toNat)] := packs [(23, 1), (22, 1), (21, 1), (14, 7), (7, 7), (0, 7)] he rfl rfl (by decide) ⟨toNat_lt_two_pow_one _, toNat_lt_two_pow_one _, toNat_lt_two_pow_one _, d.isLt, a.isLt, b.isLt, trivial⟩
  exact (hp.major 51 rfl rfl (by decide)).trans ((by show some (Instr.fmin (bit wd 23) (bit wd 22) (bit wd 21) (fld wd 14 7) (fld wd 7 7) (fld wd 0 7)) = _; rw [hp.bool 23 h (.head _), hp.bool 22 g (.tail _ (.head _)), hp.bool 21 m (.tail _ (.tail _ (.head _))), hp.vec 14 d (.tail _ (.tail _ (.tail _ (.head _)))), hp.vec 7 a (.tail _ (.tail _ (.tail _ (.tail _ (.head _))))), hp.vec 0 b (.tail _ (.tail _ (.tail _ (.tail _ (.tail _ (.head _))))))]))
theorem funSqrt (h d a) : Statement (.funSqrt h d a) := by
  refine of_word rfl fun wd he => ?_
  have hp : Packs wd 0x34000000 [(23, 1, h.toNat), (14, 7, d.toNat), (7, 7, a.toNat)] := packs [(23, 1), (14, 7), (7, 7)] he rfl rfl (by decide) ⟨toNat_lt_two_pow_one _, d.isLt, a.isLt, trivial⟩
  have f0 := hp.free 0 7 0 rfl rfl
  have f1 := hp.free 21 2 0 rfl rfl
  exact (hp.major 52 rfl rfl (by decide)).trans ((if_pos ⟨f0, f1⟩).trans (by rw [hp.bool 23 h (.head _), hp.vec 14 d (.tail _ (.head _)), hp.vec 7 a (.tail _ (.tail _ (.head _)))]))
theorem funRsqrt (h d a) : Statement (.funRsqrt h d a) := by
  refine of_word rfl fun wd he => ?_
  have hp : Packs wd 0x34000001 [(23, 1, h.toNat), (14, 7, d.toNat), (7, 7, a.toNat)] := packs [(23, 1), (14, 7), (7, 7)] he rfl rfl (by decide) ⟨toNat_lt_two_pow_one _, d.isLt, a.isLt, trivial⟩
  have f0 := hp.free 0 7 1 rfl rfl
  have f1 := hp.free 21 2 0 rfl rfl
  exact (hp.major 52 rfl rfl (by decide)).trans ((if_neg fun h => no f0 h.1).trans ((if_pos ⟨f0, f1⟩).trans (by rw [hp.bool 23 h (.head _), hp.vec 14 d (.tail _ (.head _)), hp.vec 7 a (.tail _ (.tail _ (.head _)))])))
theorem funRcp (h d a) : Statement (.funRcp h d a) := by
  refine of_word rfl fun wd he => ?_
  have hp : Packs wd 0x34000002 [(23, 1, h.toNat), (14, 7, d.toNat), (7, 7, a.toNat)] := packs [(23, 1), (14, 7), (7, 7)] he rfl rfl (by decide) ⟨toNat_lt_two_pow_one _, d.isLt, a.isLt, trivial⟩
  have f0 := hp.free 0 7 2 rfl rfl
  have f1 := hp.free 21 2 0 rfl rfl
  exact (hp.major 52 rfl rfl (by decide)).trans ((if_neg fun h => no f0 h.1).trans ((if_neg fun h => no f0 h.1).trans ((if_pos ⟨f0, f1⟩).trans (by rw [hp.bool 23 h (.head _), hp.vec 14 d (.tail _ (.head _)), hp.vec 7 a (.tail _ (.tail _ (.head _)))]))))
theorem funExp2 (h d a) : Statement (.funExp2 h d a) := by
  refine of_word rfl fun wd he => ?_
  have hp : Packs wd 0x34000003 [(23, 1, h.toNat), (14, 7, d.toNat), (7, 7, a.toNat)] := packs [(23, 1), (14, 7), (7, 7)] he rfl rfl (by decide) ⟨toNat_lt_two_pow_one _, d.isLt, a.isLt, trivial⟩
  have f0 := hp.free 0 7 3 rfl rfl
  have f1 := hp.free 21 2 0 rfl rfl
  exact (hp.major 52 rfl rfl (by decide)).trans ((if_neg fun h => no f0 h.1).trans ((if_neg fun h => no f0 h.1).trans ((if_neg fun h => no f0 h.1).trans ((if_pos ⟨f0, f1⟩).trans (by rw [hp.bool 23 h (.head _), hp.vec 14 d (.tail _ (.head _)), hp.vec 7 a (.tail _ (.tail _ (.head _)))])))))
theorem funLog2 (h d a) : Statement (.funLog2 h d a) := by
  refine of_word rfl fun wd he => ?_
  have hp : Packs wd 0x34000004 [(23, 1, h.toNat), (14, 7, d.toNat), (7, 7, a.toNat)] := packs [(23, 1), (14, 7), (7, 7)] he rfl rfl (by decide) ⟨toNat_lt_two_pow_one _, d.isLt, a.isLt, trivial⟩
  have f0 := hp.free 0 7 4 rfl rfl
  have f1 := hp.free 21 2 0 rfl rfl
  exact (hp.major 52 rfl rfl (by decide)).trans ((if_neg fun h => no f0 h.1).trans ((if_neg fun h => no f0 h.1).trans ((if_neg fun h => no f0 h.1).trans ((if_neg fun h => no f0 h.1).trans ((if_pos ⟨f0, f1⟩).trans (by rw [hp.bool 23 h (.head _), hp.vec 14 d (.tail _ (.head _)), hp.vec 7 a (.tail _ (.tail _ (.head _)))]))))))
theorem funSin (h d a) : Statement (.funSin h d a) := by
  refine of_word rfl fun wd he => ?_
  have hp : Packs wd 0x34000005 [(23, 1, h.toNat), (14, 7, d.toNat), (7, 7, a.toNat)] := packs [(23, 1), (14, 7), (7, 7)] he rfl rfl (by decide) ⟨toNat_lt_two_pow_one _, d.isLt, a.isLt, trivial⟩
  have f0 := hp.free 0 7 5 rfl rfl
  have f1 := hp.free 21 2 0 rfl rfl
  exact (hp.major 52 rfl rfl (by decide)).trans ((if_neg fun h => no f0 h.1).trans ((if_neg fun h => no f0 h.1).trans ((if_neg fun h => no f0 h.1).trans ((if_neg fun h => no f0 h.1).trans ((if_neg fun h => no f0 h.1).trans ((if_pos ⟨f0, f1⟩).trans (by rw [hp.bool 23 h (.head _), hp.vec 14 d (.tail _ (.head _)), hp.vec 7 a (.tail _ (.tail _ (.head _)))])))))))
theorem funCos (h d a) : Statement (.funCos h d a) := by
  refine of_word rfl fun wd he => ?_
  have hp : Packs wd 0x34000006 [(23, 1, h.toNat), (14, 7, d.toNat), (7, 7, a.toNat)] := packs [(23, 1), (14, 7), (7, 7)] he rfl rfl (by decide) ⟨toNat_lt_two_pow_one _, d.isLt, a.isLt, trivial⟩
  have f0 := hp.free 0 7 6 rfl rfl
  have f1 := hp.free 21 2 0 rfl rfl
  exact (hp.major 52 rfl rfl (by decide)).trans ((if_neg fun h => no f0 h.1).trans ((if_neg fun h => no f0 h.1).trans ((if_neg fun h => no f0 h.1).trans ((if_neg fun h => no f0 h.1).trans ((if_neg fun h => no f0 h.1).trans ((if_neg fun h => no f0 h.1).trans ((if_pos ⟨f0, f1⟩).trans (by rw [hp.bool 23 h (.head _), hp.vec 14 d (.tail _ (.head _)), hp.vec 7 a (.tail _ (.tail _ (.head _)))]))))))))
theorem funTanh (h d a) : Statement (.funTanh h d a) := by
  refine of_word rfl fun wd he => ?_
  have hp : Packs wd 0x34000007 [(23, 1, h.toNat), (14, 7, d.toNat), (7, 7, a.toNat)] := packs [(23, 1), (14, 7), (7, 7)] he rfl rfl (by decide) ⟨toNat_lt_two_pow_one _, d.isLt, a.isLt, trivial⟩
  have f0 := hp.free 0 7 7 rfl rfl
  have f1 := hp.free 21 2 0 rfl rfl
  exact (hp.major 52 rfl rfl (by decide)).trans ((if_neg fun h => no f0 h.1).trans ((if_neg fun h => no f0 h.1).trans ((if_neg fun h => no f0 h.1).trans ((if_neg fun h => no f0 h.1).trans ((if_neg fun h => no f0 h.1).trans ((if_neg fun h => no f0 h.1).trans ((if_neg fun h => no f0 h.1).trans ((if_pos ⟨f0, f1⟩).trans (by rw [hp.bool 23 h (.head _), hp.vec 14 d (.tail _ (.head _)), hp.vec 7 a (.tail _ (.tail _ (.head _)))])))))))))
theorem funAbs (h d a) : Statement (.funAbs h d a) := by
  refine of_word rfl fun wd he => ?_
  have hp : Packs wd 0x34000008 [(23, 1, h.toNat), (14, 7, d.toNat), (7, 7, a.toNat)] := packs [(23, 1), (14, 7), (7, 7)] he rfl rfl (by decide) ⟨toNat_lt_two_pow_one _, d.isLt, a.isLt, trivial⟩
  have f0 := hp.free 0 7 8 rfl rfl
  have f1 := hp.free 21 2 0 rfl rfl
  exact (hp.major 52 rfl rfl (by decide)).trans ((if_neg fun h => no f0 h.1).trans ((if_neg fun h => no f0 h.1).trans ((if_neg fun h => no f0 h.1).trans ((if_neg fun h => no f0 h.1).trans ((if_neg fun h => no f0 h.1).trans ((if_neg fun h => no f0 h.1).trans ((if_neg fun h => no f0 h.1).trans ((if_neg fun h => no f0 h.1).trans ((if_pos ⟨f0, f1⟩).trans (by rw [hp.bool 23 h (.head _), hp.vec 14 d (.tail _ (.head _)), hp.vec 7 a (.tail _ (.tail _ (.head _)))]))))))))))
theorem funNeg (h d a) : Statement (.funNeg h d a) := by
  refine of_word rfl fun wd he => ?_
  have hp : Packs wd 0x34000009 [(23, 1, h.toNat), (14, 7, d.toNat), (7, 7, a.toNat)] := packs [(23, 1), (14, 7), (7, 7)] he rfl rfl (by decide) ⟨toNat_lt_two_pow_one _, d.isLt, a.isLt, trivial⟩
  have f0 := hp.free 0 7 9 rfl rfl
  have f1 := hp.free 21 2 0 rfl rfl
  exact (hp.major 52 rfl rfl (by decide)).trans ((if_neg fun h => no f0 h.1).trans ((if_neg fun h => no f0 h.1).trans ((if_neg fun h => no f0 h.1).trans ((if_neg fun h => no f0 h.1).trans ((if_neg fun h => no f0 h.1).trans ((if_neg fun h => no f0 h.1).trans ((if_neg fun h => no f0 h.1).trans ((if_neg fun h => no f0 h.1).trans ((if_neg fun h => no f0 h.1).trans ((if_pos ⟨f0, f1⟩).trans (by rw [hp.bool 23 h (.head _), hp.vec 14 d (.tail _ (.head _)), hp.vec 7 a (.tail _ (.tail _ (.head _)))])))))))))))
theorem funFloor (h d a) : Statement (.funFloor h d a) := by
  refine of_word rfl fun wd he => ?_
  have hp : Packs wd 0x3400000A [(23, 1, h.toNat), (14, 7, d.toNat), (7, 7, a.toNat)] := packs [(23, 1), (14, 7), (7, 7)] he rfl rfl (by decide) ⟨toNat_lt_two_pow_one _, d.isLt, a.isLt, trivial⟩
  have f0 := hp.free 0 7 10 rfl rfl
  have f1 := hp.free 21 2 0 rfl rfl
  exact (hp.major 52 rfl rfl (by decide)).trans ((if_neg fun h => no f0 h.1).trans ((if_neg fun h => no f0 h.1).trans ((if_neg fun h => no f0 h.1).trans ((if_neg fun h => no f0 h.1).trans ((if_neg fun h => no f0 h.1).trans ((if_neg fun h => no f0 h.1).trans ((if_neg fun h => no f0 h.1).trans ((if_neg fun h => no f0 h.1).trans ((if_neg fun h => no f0 h.1).trans ((if_neg fun h => no f0 h.1).trans ((if_pos ⟨f0, f1⟩).trans (by rw [hp.bool 23 h (.head _), hp.vec 14 d (.tail _ (.head _)), hp.vec 7 a (.tail _ (.tail _ (.head _)))]))))))))))))
theorem funCeil (h d a) : Statement (.funCeil h d a) := by
  refine of_word rfl fun wd he => ?_
  have hp : Packs wd 0x3400000B [(23, 1, h.toNat), (14, 7, d.toNat), (7, 7, a.toNat)] := packs [(23, 1), (14, 7), (7, 7)] he rfl rfl (by decide) ⟨toNat_lt_two_pow_one _, d.isLt, a.isLt, trivial⟩
  have f0 := hp.free 0 7 11 rfl rfl
  have f1 := hp.free 21 2 0 rfl rfl
  exact (hp.major 52 rfl rfl (by decide)).trans ((if_neg fun h => no f0 h.1).trans ((if_neg fun h => no f0 h.1).trans ((if_neg fun h => no f0 h.1).trans ((if_neg fun h => no f0 h.1).trans ((if_neg fun h => no f0 h.1).trans ((if_neg fun h => no f0 h.1).trans ((if_neg fun h => no f0 h.1).trans ((if_neg fun h => no f0 h.1).trans ((if_neg fun h => no f0 h.1).trans ((if_neg fun h => no f0 h.1).trans ((if_neg fun h => no f0 h.1).trans ((if_pos ⟨f0, f1⟩).trans (by rw [hp.bool 23 h (.head _), hp.vec 14 d (.tail _ (.head _)), hp.vec 7 a (.tail _ (.tail _ (.head _)))])))))))))))))
theorem funTrunc (h d a) : Statement (.funTrunc h d a) := by
  refine of_word rfl fun wd he => ?_
  have hp : Packs wd 0x3400000C [(23, 1, h.toNat), (14, 7, d.toNat), (7, 7, a.toNat)] := packs [(23, 1), (14, 7), (7, 7)] he rfl rfl (by decide) ⟨toNat_lt_two_pow_one _, d.isLt, a.isLt, trivial⟩
  have f0 := hp.free 0 7 12 rfl rfl
  have f1 := hp.free 21 2 0 rfl rfl
  exact (hp.major 52 rfl rfl (by decide)).trans ((if_neg fun h => no f0 h.1).trans ((if_neg fun h => no f0 h.1).trans ((if_neg fun h => no f0 h.1).trans ((if_neg fun h => no f0 h.1).trans ((if_neg fun h => no f0 h.1).trans ((if_neg fun h => no f0 h.1).trans ((if_neg fun h => no f0 h.1).trans ((if_neg fun h => no f0 h.1).trans ((if_neg fun h => no f0 h.1).trans ((if_neg fun h => no f0 h.1).trans ((if_neg fun h => no f0 h.1).trans ((if_neg fun h => no f0 h.1).trans ((if_pos ⟨f0, f1⟩).trans (by rw [hp.bool 23 h (.head _), hp.vec 14 d (.tail _ (.head _)), hp.vec 7 a (.tail _ (.tail _ (.head _)))]))))))))))))))
theorem funRint (h d a) : Statement (.funRint h d a) := by
  refine of_word rfl fun wd he => ?_
  have hp : Packs wd 0x3400000D [(23, 1, h.toNat), (14, 7, d.toNat), (7, 7, a.toNat)] := packs [(23, 1), (14, 7), (7, 7)] he rfl rfl (by decide) ⟨toNat_lt_two_pow_one _, d.isLt, a.isLt, trivial⟩
  have f0 := hp.free 0 7 13 rfl rfl
  have f1 := hp.free 21 2 0 rfl rfl
  exact (hp.major 52 rfl rfl (by decide)).trans ((if_neg fun h => no f0 h.1).trans ((if_neg fun h => no f0 h.1).trans ((if_neg fun h => no f0 h.1).trans ((if_neg fun h => no f0 h.1).trans ((if_neg fun h => no f0 h.1).trans ((if_neg fun h => no f0 h.1).trans ((if_neg fun h => no f0 h.1).trans ((if_neg fun h => no f0 h.1).trans ((if_neg fun h => no f0 h.1).trans ((if_neg fun h => no f0 h.1).trans ((if_neg fun h => no f0 h.1).trans ((if_neg fun h => no f0 h.1).trans ((if_neg fun h => no f0 h.1).trans ((if_pos ⟨f0, f1⟩).trans (by rw [hp.bool 23 h (.head _), hp.vec 14 d (.tail _ (.head _)), hp.vec 7 a (.tail _ (.tail _ (.head _)))])))))))))))))))
theorem funClass (h d a) : Statement (.funClass h d a) := by
  refine of_word rfl fun wd he => ?_
  have hp : Packs wd 0x3400000E [(23, 1, h.toNat), (14, 7, d.toNat), (7, 7, a.toNat)] := packs [(23, 1), (14, 7), (7, 7)] he rfl rfl (by decide) ⟨toNat_lt_two_pow_one _, d.isLt, a.isLt, trivial⟩
  have f0 := hp.free 0 7 14 rfl rfl
  have f1 := hp.free 21 2 0 rfl rfl
  exact (hp.major 52 rfl rfl (by decide)).trans ((if_neg fun h => no f0 h.1).trans ((if_neg fun h => no f0 h.1).trans ((if_neg fun h => no f0 h.1).trans ((if_neg fun h => no f0 h.1).trans ((if_neg fun h => no f0 h.1).trans ((if_neg fun h => no f0 h.1).trans ((if_neg fun h => no f0 h.1).trans ((if_neg fun h => no f0 h.1).trans ((if_neg fun h => no f0 h.1).trans ((if_neg fun h => no f0 h.1).trans ((if_neg fun h => no f0 h.1).trans ((if_neg fun h => no f0 h.1).trans ((if_neg fun h => no f0 h.1).trans ((if_neg fun h => no f0 h.1).trans ((if_pos ⟨f0, f1⟩).trans (by rw [hp.bool 23 h (.head _), hp.vec 14 d (.tail _ (.head _)), hp.vec 7 a (.tail _ (.tail _ (.head _)))]))))))))))))))))
theorem fdiv (h g d a b) : Statement (.fdiv h g d a b) := by
  refine of_word rfl fun wd he => ?_
  have hp : Packs wd 0x35000000 [(23, 1, h.toNat), (22, 1, g.toNat), (14, 7, d.toNat), (7, 7, a.toNat), (0, 7, b.toNat)] := packs [(23, 1), (22, 1), (14, 7), (7, 7), (0, 7)] he rfl rfl (by decide) ⟨toNat_lt_two_pow_one _, toNat_lt_two_pow_one _, d.isLt, a.isLt, b.isLt, trivial⟩
  have f0 := hp.free 21 1 0 rfl rfl
  exact (hp.major 53 rfl rfl (by decide)).trans ((if_pos f0).trans (by rw [hp.bool 23 h (.head _), hp.bool 22 g (.tail _ (.head _)), hp.vec 14 d (.tail _ (.tail _ (.head _))), hp.vec 7 a (.tail _ (.tail _ (.tail _ (.head _)))), hp.vec 0 b (.tail _ (.tail _ (.tail _ (.tail _ (.head _)))))]))
theorem hadd2 (h g m d a b) : Statement (.hadd2 h g m d a b) := by
  refine of_word rfl fun wd he => ?_
  have hp : Packs wd 0x36000000 [(23, 1, h.toNat), (22, 1, g.toNat), (21, 1, m.toNat), (14, 7, d.toNat), (7, 7, a.toNat), (0, 7, b.toNat)] := packs [(23, 1), (22, 1), (21, 1), (14, 7), (7, 7), (0, 7)] he rfl rfl (by decide) ⟨toNat_lt_two_pow_one _, toNat_lt_two_pow_one _, toNat_lt_two_pow_one _, d.isLt, a.isLt, b.isLt, trivial⟩
  exact (hp.major 54 rfl rfl (by decide)).trans ((by show some (Instr.hadd2 (bit wd 23) (bit wd 22) (bit wd 21) (fld wd 14 7) (fld wd 7 7) (fld wd 0 7)) = _; rw [hp.bool 23 h (.head _), hp.bool 22 g (.tail _ (.head _)), hp.bool 21 m (.tail _ (.tail _ (.head _))), hp.vec 14 d (.tail _ (.tail _ (.tail _ (.head _)))), hp.vec 7 a (.tail _ (.tail _ (.tail _ (.tail _ (.head _))))), hp.vec 0 b (.tail _ (.tail _ (.tail _ (.tail _ (.tail _ (.head _))))))]))
theorem hmul2 (h g m d a b) : Statement (.hmul2 h g m d a b) := by
  refine of_word rfl fun wd he => ?_
  have hp : Packs wd 0x37000000 [(23, 1, h.toNat), (22, 1, g.toNat), (21, 1, m.toNat), (14, 7, d.toNat), (7, 7, a.toNat), (0, 7, b.toNat)] := packs [(23, 1), (22, 1), (21, 1), (14, 7), (7, 7), (0, 7)] he rfl rfl (by decide) ⟨toNat_lt_two_pow_one _, toNat_lt_two_pow_one _, toNat_lt_two_pow_one _, d.isLt, a.isLt, b.isLt, trivial⟩
  exact (hp.major 55 rfl rfl (by decide)).trans ((by show some (Instr.hmul2 (bit wd 23) (bit wd 22) (bit wd 21) (fld wd 14 7) (fld wd 7 7) (fld wd 0 7)) = _; rw [hp.bool 23 h (.head _), hp.bool 22 g (.tail _ (.head _)), hp.bool 21 m (.tail _ (.tail _ (.head _))), hp.vec 14 d (.tail _ (.tail _ (.tail _ (.head _)))), hp.vec 7 a (.tail _ (.tail _ (.tail _ (.tail _ (.head _))))), hp.vec 0 b (.tail _ (.tail _ (.tail _ (.tail _ (.tail _ (.head _))))))]))
theorem hfma2 (h g m d a b) : Statement (.hfma2 h g m d a b) := by
  refine of_word rfl fun wd he => ?_
  have hp : Packs wd 0x38000000 [(23, 1, h.toNat), (22, 1, g.toNat), (21, 1, m.toNat), (14, 7, d.toNat), (7, 7, a.toNat), (0, 7, b.toNat)] := packs [(23, 1), (22, 1), (21, 1), (14, 7), (7, 7), (0, 7)] he rfl rfl (by decide) ⟨toNat_lt_two_pow_one _, toNat_lt_two_pow_one _, toNat_lt_two_pow_one _, d.isLt, a.isLt, b.isLt, trivial⟩
  exact (hp.major 56 rfl rfl (by decide)).trans ((by show some (Instr.hfma2 (bit wd 23) (bit wd 22) (bit wd 21) (fld wd 14 7) (fld wd 7 7) (fld wd 0 7)) = _; rw [hp.bool 23 h (.head _), hp.bool 22 g (.tail _ (.head _)), hp.bool 21 m (.tail _ (.tail _ (.head _))), hp.vec 14 d (.tail _ (.tail _ (.tail _ (.head _)))), hp.vec 7 a (.tail _ (.tail _ (.tail _ (.tail _ (.head _))))), hp.vec 0 b (.tail _ (.tail _ (.tail _ (.tail _ (.tail _ (.head _))))))]))
theorem dadd (h g m d a b) : Statement (.dadd h g m d a b) := by
  refine of_word rfl fun wd he => ?_
  have hp : Packs wd 0x39000000 [(23, 1, h.toNat), (22, 1, g.toNat), (21, 1, m.toNat), (14, 7, d.toNat), (7, 7, a.toNat), (0, 7, b.toNat)] := packs [(23, 1), (22, 1), (21, 1), (14, 7), (7, 7), (0, 7)] he rfl rfl (by decide) ⟨toNat_lt_two_pow_one _, toNat_lt_two_pow_one _, toNat_lt_two_pow_one _, d.isLt, a.isLt, b.isLt, trivial⟩
  exact (hp.major 57 rfl rfl (by decide)).trans ((by show some (Instr.dadd (bit wd 23) (bit wd 22) (bit wd 21) (fld wd 14 7) (fld wd 7 7) (fld wd 0 7)) = _; rw [hp.bool 23 h (.head _), hp.bool 22 g (.tail _ (.head _)), hp.bool 21 m (.tail _ (.tail _ (.head _))), hp.vec 14 d (.tail _ (.tail _ (.tail _ (.head _)))), hp.vec 7 a (.tail _ (.tail _ (.tail _ (.tail _ (.head _))))), hp.vec 0 b (.tail _ (.tail _ (.tail _ (.tail _ (.tail _ (.head _))))))]))
theorem dmul (h g m d a b) : Statement (.dmul h g m d a b) := by
  refine of_word rfl fun wd he => ?_
  have hp : Packs wd 0x3A000000 [(23, 1, h.toNat), (22, 1, g.toNat), (21, 1, m.toNat), (14, 7, d.toNat), (7, 7, a.toNat), (0, 7, b.toNat)] := packs [(23, 1), (22, 1), (21, 1), (14, 7), (7, 7), (0, 7)] he rfl rfl (by decide) ⟨toNat_lt_two_pow_one _, toNat_lt_two_pow_one _, toNat_lt_two_pow_one _, d.isLt, a.isLt, b.isLt, trivial⟩
  exact (hp.major 58 rfl rfl (by decide)).trans ((by show some (Instr.dmul (bit wd 23) (bit wd 22) (bit wd 21) (fld wd 14 7) (fld wd 7 7) (fld wd 0 7)) = _; rw [hp.bool 23 h (.head _), hp.bool 22 g (.tail _ (.head _)), hp.bool 21 m (.tail _ (.tail _ (.head _))), hp.vec 14 d (.tail _ (.tail _ (.tail _ (.head _)))), hp.vec 7 a (.tail _ (.tail _ (.tail _ (.tail _ (.head _))))), hp.vec 0 b (.tail _ (.tail _ (.tail _ (.tail _ (.tail _ (.head _))))))]))
theorem dfma (h g m d a b) : Statement (.dfma h g m d a b) := by
  refine of_word rfl fun wd he => ?_
  have hp : Packs wd 0x3B000000 [(23, 1, h.toNat), (22, 1, g.toNat), (21, 1, m.toNat), (14, 7, d.toNat), (7, 7, a.toNat), (0, 7, b.toNat)] := packs [(23, 1), (22, 1), (21, 1), (14, 7), (7, 7), (0, 7)] he rfl rfl (by decide) ⟨toNat_lt_two_pow_one _, toNat_lt_two_pow_one _, toNat_lt_two_pow_one _, d.isLt, a.isLt, b.isLt, trivial⟩
  exact (hp.major 59 rfl rfl (by decide)).trans ((by show some (Instr.dfma (bit wd 23) (bit wd 22) (bit wd 21) (fld wd 14 7) (fld wd 7 7) (fld wd 0 7)) = _; rw [hp.bool 23 h (.head _), hp.bool 22 g (.tail _ (.head _)), hp.bool 21 m (.tail _ (.tail _ (.head _))), hp.vec 14 d (.tail _ (.tail _ (.tail _ (.head _)))), hp.vec 7 a (.tail _ (.tail _ (.tail _ (.tail _ (.head _))))), hp.vec 0 b (.tail _ (.tail _ (.tail _ (.tail _ (.tail _ (.head _))))))]))
theorem dunSqrt (h d a) : Statement (.dunSqrt h d a) := by
  refine of_word rfl fun wd he => ?_
  have hp : Packs wd 0x3C000000 [(23, 1, h.toNat), (14, 7, d.toNat), (7, 7, a.toNat)] := packs [(23, 1), (14, 7), (7, 7)] he rfl rfl (by decide) ⟨toNat_lt_two_pow_one _, d.isLt, a.isLt, trivial⟩
  have f0 := hp.free 0 7 0 rfl rfl
  have f1 := hp.free 21 2 0 rfl rfl
  exact (hp.major 60 rfl rfl (by decide)).trans ((if_pos ⟨f0, f1⟩).trans (by rw [hp.bool 23 h (.head _), hp.vec 14 d (.tail _ (.head _)), hp.vec 7 a (.tail _ (.tail _ (.head _)))]))
theorem dunRsqrt (h d a) : Statement (.dunRsqrt h d a) := by
  refine of_word rfl fun wd he => ?_
  have hp : Packs wd 0x3C000001 [(23, 1, h.toNat), (14, 7, d.toNat), (7, 7, a.toNat)] := packs [(23, 1), (14, 7), (7, 7)] he rfl rfl (by decide) ⟨toNat_lt_two_pow_one _, d.isLt, a.isLt, trivial⟩
  have f0 := hp.free 0 7 1 rfl rfl
  have f1 := hp.free 21 2 0 rfl rfl
  exact (hp.major 60 rfl rfl (by decide)).trans ((if_neg fun h => no f0 h.1).trans ((if_pos ⟨f0, f1⟩).trans (by rw [hp.bool 23 h (.head _), hp.vec 14 d (.tail _ (.head _)), hp.vec 7 a (.tail _ (.tail _ (.head _)))])))
theorem dunRcp (h d a) : Statement (.dunRcp h d a) := by
  refine of_word rfl fun wd he => ?_
  have hp : Packs wd 0x3C000002 [(23, 1, h.toNat), (14, 7, d.toNat), (7, 7, a.toNat)] := packs [(23, 1), (14, 7), (7, 7)] he rfl rfl (by decide) ⟨toNat_lt_two_pow_one _, d.isLt, a.isLt, trivial⟩
  have f0 := hp.free 0 7 2 rfl rfl
  have f1 := hp.free 21 2 0 rfl rfl
  exact (hp.major 60 rfl rfl (by decide)).trans ((if_neg fun h => no f0 h.1).trans ((if_neg fun h => no f0 h.1).trans ((if_pos ⟨f0, f1⟩).trans (by rw [hp.bool 23 h (.head _), hp.vec 14 d (.tail _ (.head _)), hp.vec 7 a (.tail _ (.tail _ (.head _)))]))))
theorem dunAbs (h d a) : Statement (.dunAbs h d a) := by
  refine of_word rfl fun wd he => ?_
  have hp : Packs wd 0x3C000008 [(23, 1, h.toNat), (14, 7, d.toNat), (7, 7, a.toNat)] := packs [(23, 1), (14, 7), (7, 7)] he rfl rfl (by decide) ⟨toNat_lt_two_pow_one _, d.isLt, a.isLt, trivial⟩
  have f0 := hp.free 0 7 8 rfl rfl
  have f1 := hp.free 21 2 0 rfl rfl
  exact (hp.major 60 rfl rfl (by decide)).trans ((if_neg fun h => no f0 h.1).trans ((if_neg fun h => no f0 h.1).trans ((if_neg fun h => no f0 h.1).trans ((if_pos ⟨f0, f1⟩).trans (by rw [hp.bool 23 h (.head _), hp.vec 14 d (.tail _ (.head _)), hp.vec 7 a (.tail _ (.tail _ (.head _)))])))))
theorem dunNeg (h d a) : Statement (.dunNeg h d a) := by
  refine of_word rfl fun wd he => ?_
  have hp : Packs wd 0x3C000009 [(23, 1, h.toNat), (14, 7, d.toNat), (7, 7, a.toNat)] := packs [(23, 1), (14, 7), (7, 7)] he rfl rfl (by decide) ⟨toNat_lt_two_pow_one _, d.isLt, a.isLt, trivial⟩
  have f0 := hp.free 0 7 9 rfl rfl
  have f1 := hp.free 21 2 0 rfl rfl
  exact (hp.major 60 rfl rfl (by decide)).trans ((if_neg fun h => no f0 h.1).trans ((if_neg fun h => no f0 h.1).trans ((if_neg fun h => no f0 h.1).trans ((if_neg fun h => no f0 h.1).trans ((if_pos ⟨f0, f1⟩).trans (by rw [hp.bool 23 h (.head _), hp.vec 14 d (.tail _ (.head _)), hp.vec 7 a (.tail _ (.tail _ (.head _)))]))))))
theorem dunFloor (h d a) : Statement (.dunFloor h d a) := by
  refine of_word rfl fun wd he => ?_
  have hp : Packs wd 0x3C00000A [(23, 1, h.toNat), (14, 7, d.toNat), (7, 7, a.toNat)] := packs [(23, 1), (14, 7), (7, 7)] he rfl rfl (by decide) ⟨toNat_lt_two_pow_one _, d.isLt, a.isLt, trivial⟩
  have f0 := hp.free 0 7 10 rfl rfl
  have f1 := hp.free 21 2 0 rfl rfl
  exact (hp.major 60 rfl rfl (by decide)).trans ((if_neg fun h => no f0 h.1).trans ((if_neg fun h => no f0 h.1).trans ((if_neg fun h => no f0 h.1).trans ((if_neg fun h => no f0 h.1).trans ((if_neg fun h => no f0 h.1).trans ((if_pos ⟨f0, f1⟩).trans (by rw [hp.bool 23 h (.head _), hp.vec 14 d (.tail _ (.head _)), hp.vec 7 a (.tail _ (.tail _ (.head _)))])))))))
theorem dunCeil (h d a) : Statement (.dunCeil h d a) := by
  refine of_word rfl fun wd he => ?_
  have hp : Packs wd 0x3C00000B [(23, 1, h.toNat), (14, 7, d.toNat), (7, 7, a.toNat)] := packs [(23, 1), (14, 7), (7, 7)] he rfl rfl (by decide) ⟨toNat_lt_two_pow_one _, d.isLt, a.isLt, trivial⟩
  have f0 := hp.free 0 7 11 rfl rfl
  have f1 := hp.free 21 2 0 rfl rfl
  exact (hp.major 60 rfl rfl (by decide)).trans ((if_neg fun h => no f0 h.1).trans ((if_neg fun h => no f0 h.1).trans ((if_neg fun h => no f0 h.1).trans ((if_neg fun h => no f0 h.1).trans ((if_neg fun h => no f0 h.1).trans ((if_neg fun h => no f0 h.1).trans ((if_pos ⟨f0, f1⟩).trans (by rw [hp.bool 23 h (.head _), hp.vec 14 d (.tail _ (.head _)), hp.vec 7 a (.tail _ (.tail _ (.head _)))]))))))))
theorem dunTrunc (h d a) : Statement (.dunTrunc h d a) := by
  refine of_word rfl fun wd he => ?_
  have hp : Packs wd 0x3C00000C [(23, 1, h.toNat), (14, 7, d.toNat), (7, 7, a.toNat)] := packs [(23, 1), (14, 7), (7, 7)] he rfl rfl (by decide) ⟨toNat_lt_two_pow_one _, d.isLt, a.isLt, trivial⟩
  have f0 := hp.free 0 7 12 rfl rfl
  have f1 := hp.free 21 2 0 rfl rfl
  exact (hp.major 60 rfl rfl (by decide)).trans ((if_neg fun h => no f0 h.1).trans ((if_neg fun h => no f0 h.1).trans ((if_neg fun h => no f0 h.1).trans ((if_neg fun h => no f0 h.1).trans ((if_neg fun h => no f0 h.1).trans ((if_neg fun h => no f0 h.1).trans ((if_neg fun h => no f0 h.1).trans ((if_pos ⟨f0, f1⟩).trans (by rw [hp.bool 23 h (.head _), hp.vec 14 d (.tail _ (.head _)), hp.vec 7 a (.tail _ (.tail _ (.head _)))])))))))))
theorem dunRint (h d a) : Statement (.dunRint h d a) := by
  refine of_word rfl fun wd he => ?_
  have hp : Packs wd 0x3C00000D [(23, 1, h.toNat), (14, 7, d.toNat), (7, 7, a.toNat)] := packs [(23, 1), (14, 7), (7, 7)] he rfl rfl (by decide) ⟨toNat_lt_two_pow_one _, d.isLt, a.isLt, trivial⟩
  have f0 := hp.free 0 7 13 rfl rfl
  have f1 := hp.free 21 2 0 rfl rfl
  exact (hp.major 60 rfl rfl (by decide)).trans ((if_neg fun h => no f0 h.1).trans ((if_neg fun h => no f0 h.1).trans ((if_neg fun h => no f0 h.1).trans ((if_neg fun h => no f0 h.1).trans ((if_neg fun h => no f0 h.1).trans ((if_neg fun h => no f0 h.1).trans ((if_neg fun h => no f0 h.1).trans ((if_neg fun h => no f0 h.1).trans ((if_pos ⟨f0, f1⟩).trans (by rw [hp.bool 23 h (.head _), hp.vec 14 d (.tail _ (.head _)), hp.vec 7 a (.tail _ (.tail _ (.head _)))]))))))))))
theorem dunClass (h d a) : Statement (.dunClass h d a) := by
  refine of_word rfl fun wd he => ?_
  have hp : Packs wd 0x3C00000E [(23, 1, h.toNat), (14, 7, d.toNat), (7, 7, a.toNat)] := packs [(23, 1), (14, 7), (7, 7)] he rfl rfl (by decide) ⟨toNat_lt_two_pow_one _, d.isLt, a.isLt, trivial⟩
  have f0 := hp.free 0 7 14 rfl rfl
  have f1 := hp.free 21 2 0 rfl rfl
  exact (hp.major 60 rfl rfl (by decide)).trans ((if_neg fun h => no f0 h.1).trans ((if_neg fun h => no f0 h.1).trans ((if_neg fun h => no f0 h.1).trans ((if_neg fun h => no f0 h.1).trans ((if_neg fun h => no f0 h.1).trans ((if_neg fun h => no f0 h.1).trans ((if_neg fun h => no f0 h.1).trans ((if_neg fun h => no f0 h.1).trans ((if_neg fun h => no f0 h.1).trans ((if_pos ⟨f0, f1⟩).trans (by rw [hp.bool 23 h (.head _), hp.vec 14 d (.tail _ (.head _)), hp.vec 7 a (.tail _ (.tail _ (.head _)))])))))))))))
theorem ddiv (h g d a b) : Statement (.ddiv h g d a b) := by
  refine of_word rfl fun wd he => ?_
  have hp : Packs wd 0x3D000000 [(23, 1, h.toNat), (22, 1, g.toNat), (14, 7, d.toNat), (7, 7, a.toNat), (0, 7, b.toNat)] := packs [(23, 1), (22, 1), (14, 7), (7, 7), (0, 7)] he rfl rfl (by decide) ⟨toNat_lt_two_pow_one _, toNat_lt_two_pow_one _, d.isLt, a.isLt, b.isLt, trivial⟩
  have f0 := hp.free 21 1 0 rfl rfl
  exact (hp.major 61 rfl rfl (by decide)).trans ((if_pos f0).trans (by rw [hp.bool 23 h (.head _), hp.bool 22 g (.tail _ (.head _)), hp.vec 14 d (.tail _ (.tail _ (.head _))), hp.vec 7 a (.tail _ (.tail _ (.tail _ (.head _)))), hp.vec 0 b (.tail _ (.tail _ (.tail _ (.tail _ (.head _)))))]))
theorem dmin (h g m d a b) : Statement (.dmin h g m d a b) := by
  refine of_word rfl fun wd he => ?_
  have hp : Packs wd 0x3E000000 [(23, 1, h.toNat), (22, 1, g.toNat), (21, 1, m.toNat), (14, 7, d.toNat), (7, 7, a.toNat), (0, 7, b.toNat)] := packs [(23, 1), (22, 1), (21, 1), (14, 7), (7, 7), (0, 7)] he rfl rfl (by decide) ⟨toNat_lt_two_pow_one _, toNat_lt_two_pow_one _, toNat_lt_two_pow_one _, d.isLt, a.isLt, b.isLt, trivial⟩
  exact (hp.major 62 rfl rfl (by decide)).trans ((by show some (Instr.dmin (bit wd 23) (bit wd 22) (bit wd 21) (fld wd 14 7) (fld wd 7 7) (fld wd 0 7)) = _; rw [hp.bool 23 h (.head _), hp.bool 22 g (.tail _ (.head _)), hp.bool 21 m (.tail _ (.tail _ (.head _))), hp.vec 14 d (.tail _ (.tail _ (.tail _ (.head _)))), hp.vec 7 a (.tail _ (.tail _ (.tail _ (.tail _ (.head _))))), hp.vec 0 b (.tail _ (.tail _ (.tail _ (.tail _ (.tail _ (.head _))))))]))
theorem cvtF32F64 (h d a r) : Statement (.cvtF32F64 h d a r) := by
  refine of_word rfl fun wd he => ?_
  have hp : Packs wd 0x3F000000 [(23, 1, h.toNat), (14, 7, d.toNat), (7, 7, a.toNat), (0, 2, r.toNat)] := packs [(23, 1), (14, 7), (7, 7), (0, 2)] he rfl rfl (by decide) ⟨toNat_lt_two_pow_one _, d.isLt, a.isLt, r.isLt, trivial⟩
  have f0 := hp.free 2 5 0 rfl rfl
  have f1 := hp.free 21 2 0 rfl rfl
  exact (hp.major 63 rfl rfl (by decide)).trans ((if_pos ⟨f0, f1⟩).trans (by rw [hp.bool 23 h (.head _), hp.vec 14 d (.tail _ (.head _)), hp.vec 7 a (.tail _ (.tail _ (.head _))), hp.vec 0 r (.tail _ (.tail _ (.tail _ (.head _))))]))
theorem cvtF64F32 (h d a) : Statement (.cvtF64F32 h d a) := by
  refine of_word rfl fun wd he => ?_
  have hp : Packs wd 0x3F000004 [(23, 1, h.toNat), (14, 7, d.toNat), (7, 7, a.toNat)] := packs [(23, 1), (14, 7), (7, 7)] he rfl rfl (by decide) ⟨toNat_lt_two_pow_one _, d.isLt, a.isLt, trivial⟩
  have f0 := hp.free 2 5 1 rfl rfl
  have f1 := hp.free 0 7 4 rfl rfl
  have f2 := hp.free 21 2 0 rfl rfl
  exact (hp.major 63 rfl rfl (by decide)).trans ((if_neg fun h => no f0 h.1).trans ((if_pos ⟨f1, f2⟩).trans (by rw [hp.bool 23 h (.head _), hp.vec 14 d (.tail _ (.head _)), hp.vec 7 a (.tail _ (.tail _ (.head _)))])))
theorem cvtF16F32 (h x d a r) : Statement (.cvtF16F32 h x d a r) := by
  refine of_word rfl fun wd he => ?_
  have hp : Packs wd 0x3F000008 [(23, 1, h.toNat), (21, 1, x.toNat), (14, 7, d.toNat), (7, 7, a.toNat), (0, 2, r.toNat)] := packs [(23, 1), (21, 1), (14, 7), (7, 7), (0, 2)] he rfl rfl (by decide) ⟨toNat_lt_two_pow_one _, toNat_lt_two_pow_one _, d.isLt, a.isLt, r.isLt, trivial⟩
  have f0 := hp.free 2 5 2 rfl rfl
  have f1 := hp.free 22 1 0 rfl rfl
  exact (hp.major 63 rfl rfl (by decide)).trans ((if_neg fun h => no f0 h.1).trans ((if_neg fun h => noPart 2 f0 h.1).trans ((if_pos ⟨f0, f1⟩).trans (by rw [hp.bool 23 h (.head _), hp.bool 21 x (.tail _ (.head _)), hp.vec 14 d (.tail _ (.tail _ (.head _))), hp.vec 7 a (.tail _ (.tail _ (.tail _ (.head _)))), hp.vec 0 r (.tail _ (.tail _ (.tail _ (.tail _ (.head _)))))]))))
theorem cvtF32F16 (h x d a) : Statement (.cvtF32F16 h x d a) := by
  refine of_word rfl fun wd he => ?_
  have hp : Packs wd 0x3F00000C [(23, 1, h.toNat), (21, 1, x.toNat), (14, 7, d.toNat), (7, 7, a.toNat)] := packs [(23, 1), (21, 1), (14, 7), (7, 7)] he rfl rfl (by decide) ⟨toNat_lt_two_pow_one _, toNat_lt_two_pow_one _, d.isLt, a.isLt, trivial⟩
  have f0 := hp.free 2 5 3 rfl rfl
  have f1 := hp.free 0 7 12 rfl rfl
  have f2 := hp.free 22 1 0 rfl rfl
  exact (hp.major 63 rfl rfl (by decide)).trans ((if_neg fun h => no f0 h.1).trans ((if_neg fun h => no f1 h.1).trans ((if_neg fun h => no f0 h.1).trans ((if_pos ⟨f1, f2⟩).trans (by rw [hp.bool 23 h (.head _), hp.bool 21 x (.tail _ (.head _)), hp.vec 14 d (.tail _ (.tail _ (.head _))), hp.vec 7 a (.tail _ (.tail _ (.tail _ (.head _))))])))))
theorem cvtBf16F32 (h x d a r) : Statement (.cvtBf16F32 h x d a r) := by
  refine of_word rfl fun wd he => ?_
  have hp : Packs wd 0x3F000010 [(23, 1, h.toNat), (21, 1, x.toNat), (14, 7, d.toNat), (7, 7, a.toNat), (0, 2, r.toNat)] := packs [(23, 1), (21, 1), (14, 7), (7, 7), (0, 2)] he rfl rfl (by decide) ⟨toNat_lt_two_pow_one _, toNat_lt_two_pow_one _, d.isLt, a.isLt, r.isLt, trivial⟩
  have f0 := hp.free 2 5 4 rfl rfl
  have f1 := hp.free 22 1 0 rfl rfl
  exact (hp.major 63 rfl rfl (by decide)).trans ((if_neg fun h => no f0 h.1).trans ((if_neg fun h => noPart 2 f0 h.1).trans ((if_neg fun h => no f0 h.1).trans ((if_neg fun h => noPart 2 f0 h.1).trans ((if_pos ⟨f0, f1⟩).trans (by rw [hp.bool 23 h (.head _), hp.bool 21 x (.tail _ (.head _)), hp.vec 14 d (.tail _ (.tail _ (.head _))), hp.vec 7 a (.tail _ (.tail _ (.tail _ (.head _)))), hp.vec 0 r (.tail _ (.tail _ (.tail _ (.tail _ (.head _)))))]))))))
theorem cvtF32Bf16 (h x d a) : Statement (.cvtF32Bf16 h x d a) := by
  refine of_word rfl fun wd he => ?_
  have hp : Packs wd 0x3F000014 [(23, 1, h.toNat), (21, 1, x.toNat), (14, 7, d.toNat), (7, 7, a.toNat)] := packs [(23, 1), (21, 1), (14, 7), (7, 7)] he rfl rfl (by decide) ⟨toNat_lt_two_pow_one _, toNat_lt_two_pow_one _, d.isLt, a.isLt, trivial⟩
  have f0 := hp.free 2 5 5 rfl rfl
  have f1 := hp.free 0 7 20 rfl rfl
  have f2 := hp.free 22 1 0 rfl rfl
  exact (hp.major 63 rfl rfl (by decide)).trans ((if_neg fun h => no f0 h.1).trans ((if_neg fun h => no f1 h.1).trans ((if_neg fun h => no f0 h.1).trans ((if_neg fun h => no f1 h.1).trans ((if_neg fun h => no f0 h.1).trans ((if_pos ⟨f1, f2⟩).trans (by rw [hp.bool 23 h (.head _), hp.bool 21 x (.tail _ (.head _)), hp.vec 14 d (.tail _ (.tail _ (.head _))), hp.vec 7 a (.tail _ (.tail _ (.tail _ (.head _))))])))))))
theorem cvtS32F32 (h d a r) : Statement (.cvtS32F32 h d a r) := by
  refine of_word rfl fun wd he => ?_
  have hp : Packs wd 0x3F000018 [(23, 1, h.toNat), (14, 7, d.toNat), (7, 7, a.toNat), (0, 2, r.toNat)] := packs [(23, 1), (14, 7), (7, 7), (0, 2)] he rfl rfl (by decide) ⟨toNat_lt_two_pow_one _, d.isLt, a.isLt, r.isLt, trivial⟩
  have f0 := hp.free 2 5 6 rfl rfl
  have f1 := hp.free 21 2 0 rfl rfl
  exact (hp.major 63 rfl rfl (by decide)).trans ((if_neg fun h => no f0 h.1).trans ((if_neg fun h => noPart 2 f0 h.1).trans ((if_neg fun h => no f0 h.1).trans ((if_neg fun h => noPart 2 f0 h.1).trans ((if_neg fun h => no f0 h.1).trans ((if_neg fun h => noPart 2 f0 h.1).trans ((if_pos ⟨f0, f1⟩).trans (by rw [hp.bool 23 h (.head _), hp.vec 14 d (.tail _ (.head _)), hp.vec 7 a (.tail _ (.tail _ (.head _))), hp.vec 0 r (.tail _ (.tail _ (.tail _ (.head _))))]))))))))
theorem cvtU32F32 (h d a r) : Statement (.cvtU32F32 h d a r) := by
  refine of_word rfl fun wd he => ?_
  have hp : Packs wd 0x3F00001C [(23, 1, h.toNat), (14, 7, d.toNat), (7, 7, a.toNat), (0, 2, r.toNat)] := packs [(23, 1), (14, 7), (7, 7), (0, 2)] he rfl rfl (by decide) ⟨toNat_lt_two_pow_one _, d.isLt, a.isLt, r.isLt, trivial⟩
  have f0 := hp.free 2 5 7 rfl rfl
  have f1 := hp.free 21 2 0 rfl rfl
  exact (hp.major 63 rfl rfl (by decide)).trans ((if_neg fun h => no f0 h.1).trans ((if_neg fun h => noPart 2 f0 h.1).trans ((if_neg fun h => no f0 h.1).trans ((if_neg fun h => noPart 2 f0 h.1).trans ((if_neg fun h => no f0 h.1).trans ((if_neg fun h => noPart 2 f0 h.1).trans ((if_neg fun h => no f0 h.1).trans ((if_pos ⟨f0, f1⟩).trans (by rw [hp.bool 23 h (.head _), hp.vec 14 d (.tail _ (.head _)), hp.vec 7 a (.tail _ (.tail _ (.head _))), hp.vec 0 r (.tail _ (.tail _ (.tail _ (.head _))))])))))))))
theorem cvtF32S32 (h d a r) : Statement (.cvtF32S32 h d a r) := by
  refine of_word rfl fun wd he => ?_
  have hp : Packs wd 0x3F000020 [(23, 1, h.toNat), (14, 7, d.toNat), (7, 7, a.toNat), (0, 2, r.toNat)] := packs [(23, 1), (14, 7), (7, 7), (0, 2)] he rfl rfl (by decide) ⟨toNat_lt_two_pow_one _, d.isLt, a.isLt, r.isLt, trivial⟩
  have f0 := hp.free 2 5 8 rfl rfl
  have f1 := hp.free 21 2 0 rfl rfl
  exact (hp.major 63 rfl rfl (by decide)).trans ((if_neg fun h => no f0 h.1).trans ((if_neg fun h => noPart 2 f0 h.1).trans ((if_neg fun h => no f0 h.1).trans ((if_neg fun h => noPart 2 f0 h.1).trans ((if_neg fun h => no f0 h.1).trans ((if_neg fun h => noPart 2 f0 h.1).trans ((if_neg fun h => no f0 h.1).trans ((if_neg fun h => no f0 h.1).trans ((if_pos ⟨f0, f1⟩).trans (by rw [hp.bool 23 h (.head _), hp.vec 14 d (.tail _ (.head _)), hp.vec 7 a (.tail _ (.tail _ (.head _))), hp.vec 0 r (.tail _ (.tail _ (.tail _ (.head _))))]))))))))))
theorem cvtF32U32 (h d a r) : Statement (.cvtF32U32 h d a r) := by
  refine of_word rfl fun wd he => ?_
  have hp : Packs wd 0x3F000024 [(23, 1, h.toNat), (14, 7, d.toNat), (7, 7, a.toNat), (0, 2, r.toNat)] := packs [(23, 1), (14, 7), (7, 7), (0, 2)] he rfl rfl (by decide) ⟨toNat_lt_two_pow_one _, d.isLt, a.isLt, r.isLt, trivial⟩
  have f0 := hp.free 2 5 9 rfl rfl
  have f1 := hp.free 21 2 0 rfl rfl
  exact (hp.major 63 rfl rfl (by decide)).trans ((if_neg fun h => no f0 h.1).trans ((if_neg fun h => noPart 2 f0 h.1).trans ((if_neg fun h => no f0 h.1).trans ((if_neg fun h => noPart 2 f0 h.1).trans ((if_neg fun h => no f0 h.1).trans ((if_neg fun h => noPart 2 f0 h.1).trans ((if_neg fun h => no f0 h.1).trans ((if_neg fun h => no f0 h.1).trans ((if_neg fun h => no f0 h.1).trans ((if_pos ⟨f0, f1⟩).trans (by rw [hp.bool 23 h (.head _), hp.vec 14 d (.tail _ (.head _)), hp.vec 7 a (.tail _ (.tail _ (.head _))), hp.vec 0 r (.tail _ (.tail _ (.tail _ (.head _))))])))))))))))
theorem cvtS32F64 (h d a r) : Statement (.cvtS32F64 h d a r) := by
  refine of_word rfl fun wd he => ?_
  have hp : Packs wd 0x3F000028 [(23, 1, h.toNat), (14, 7, d.toNat), (7, 7, a.toNat), (0, 2, r.toNat)] := packs [(23, 1), (14, 7), (7, 7), (0, 2)] he rfl rfl (by decide) ⟨toNat_lt_two_pow_one _, d.isLt, a.isLt, r.isLt, trivial⟩
  have f0 := hp.free 2 5 10 rfl rfl
  have f1 := hp.free 21 2 0 rfl rfl
  exact (hp.major 63 rfl rfl (by decide)).trans ((if_neg fun h => no f0 h.1).trans ((if_neg fun h => noPart 2 f0 h.1).trans ((if_neg fun h => no f0 h.1).trans ((if_neg fun h => noPart 2 f0 h.1).trans ((if_neg fun h => no f0 h.1).trans ((if_neg fun h => noPart 2 f0 h.1).trans ((if_neg fun h => no f0 h.1).trans ((if_neg fun h => no f0 h.1).trans ((if_neg fun h => no f0 h.1).trans ((if_neg fun h => no f0 h.1).trans ((if_pos ⟨f0, f1⟩).trans (by rw [hp.bool 23 h (.head _), hp.vec 14 d (.tail _ (.head _)), hp.vec 7 a (.tail _ (.tail _ (.head _))), hp.vec 0 r (.tail _ (.tail _ (.tail _ (.head _))))]))))))))))))
theorem cvtU32F64 (h d a r) : Statement (.cvtU32F64 h d a r) := by
  refine of_word rfl fun wd he => ?_
  have hp : Packs wd 0x3F00002C [(23, 1, h.toNat), (14, 7, d.toNat), (7, 7, a.toNat), (0, 2, r.toNat)] := packs [(23, 1), (14, 7), (7, 7), (0, 2)] he rfl rfl (by decide) ⟨toNat_lt_two_pow_one _, d.isLt, a.isLt, r.isLt, trivial⟩
  have f0 := hp.free 2 5 11 rfl rfl
  have f1 := hp.free 21 2 0 rfl rfl
  exact (hp.major 63 rfl rfl (by decide)).trans ((if_neg fun h => no f0 h.1).trans ((if_neg fun h => noPart 2 f0 h.1).trans ((if_neg fun h => no f0 h.1).trans ((if_neg fun h => noPart 2 f0 h.1).trans ((if_neg fun h => no f0 h.1).trans ((if_neg fun h => noPart 2 f0 h.1).trans ((if_neg fun h => no f0 h.1).trans ((if_neg fun h => no f0 h.1).trans ((if_neg fun h => no f0 h.1).trans ((if_neg fun h => no f0 h.1).trans ((if_neg fun h => no f0 h.1).trans ((if_pos ⟨f0, f1⟩).trans (by rw [hp.bool 23 h (.head _), hp.vec 14 d (.tail _ (.head _)), hp.vec 7 a (.tail _ (.tail _ (.head _))), hp.vec 0 r (.tail _ (.tail _ (.tail _ (.head _))))])))))))))))))
theorem cvtF64S32 (h d a) : Statement (.cvtF64S32 h d a) := by
  refine of_word rfl fun wd he => ?_
  have hp : Packs wd 0x3F000030 [(23, 1, h.toNat), (14, 7, d.toNat), (7, 7, a.toNat)] := packs [(23, 1), (14, 7), (7, 7)] he rfl rfl (by decide) ⟨toNat_lt_two_pow_one _, d.isLt, a.isLt, trivial⟩
  have f0 := hp.free 2 5 12 rfl rfl
  have f1 := hp.free 0 7 48 rfl rfl
  have f2 := hp.free 21 2 0 rfl rfl
  exact (hp.major 63 rfl rfl (by decide)).trans ((if_neg fun h => no f0 h.1).trans ((if_neg fun h => no f1 h.1).trans ((if_neg fun h => no f0 h.1).trans ((if_neg fun h => no f1 h.1).trans ((if_neg fun h => no f0 h.1).trans ((if_neg fun h => no f1 h.1).trans ((if_neg fun h => no f0 h.1).trans ((if_neg fun h => no f0 h.1).trans ((if_neg fun h => no f0 h.1).trans ((if_neg fun h => no f0 h.1).trans ((if_neg fun h => no f0 h.1).trans ((if_neg fun h => no f0 h.1).trans ((if_pos ⟨f1, f2⟩).trans (by rw [hp.bool 23 h (.head _), hp.vec 14 d (.tail _ (.head _)), hp.vec 7 a (.tail _ (.tail _ (.head _)))]))))))))))))))
theorem cvtF64U32 (h d a) : Statement (.cvtF64U32 h d a) := by
  refine of_word rfl fun wd he => ?_
  have hp : Packs wd 0x3F000034 [(23, 1, h.toNat), (14, 7, d.toNat), (7, 7, a.toNat)] := packs [(23, 1), (14, 7), (7, 7)] he rfl rfl (by decide) ⟨toNat_lt_two_pow_one _, d.isLt, a.isLt, trivial⟩
  have f0 := hp.free 2 5 13 rfl rfl
  have f1 := hp.free 0 7 52 rfl rfl
  have f2 := hp.free 21 2 0 rfl rfl
  exact (hp.major 63 rfl rfl (by decide)).trans ((if_neg fun h => no f0 h.1).trans ((if_neg fun h => no f1 h.1).trans ((if_neg fun h => no f0 h.1).trans ((if_neg fun h => no f1 h.1).trans ((if_neg fun h => no f0 h.1).trans ((if_neg fun h => no f1 h.1).trans ((if_neg fun h => no f0 h.1).trans ((if_neg fun h => no f0 h.1).trans ((if_neg fun h => no f0 h.1).trans ((if_neg fun h => no f0 h.1).trans ((if_neg fun h => no f0 h.1).trans ((if_neg fun h => no f0 h.1).trans ((if_neg fun h => no f1 h.1).trans ((if_pos ⟨f1, f2⟩).trans (by rw [hp.bool 23 h (.head _), hp.vec 14 d (.tail _ (.head _)), hp.vec 7 a (.tail _ (.tail _ (.head _)))])))))))))))))))
theorem cvtS64F64 (h d a r) : Statement (.cvtS64F64 h d a r) := by
  refine of_word rfl fun wd he => ?_
  have hp : Packs wd 0x3F000038 [(23, 1, h.toNat), (14, 7, d.toNat), (7, 7, a.toNat), (0, 2, r.toNat)] := packs [(23, 1), (14, 7), (7, 7), (0, 2)] he rfl rfl (by decide) ⟨toNat_lt_two_pow_one _, d.isLt, a.isLt, r.isLt, trivial⟩
  have f0 := hp.free 2 5 14 rfl rfl
  have f1 := hp.free 21 2 0 rfl rfl
  exact (hp.major 63 rfl rfl (by decide)).trans ((if_neg fun h => no f0 h.1).trans ((if_neg fun h => noPart 2 f0 h.1).trans ((if_neg fun h => no f0 h.1).trans ((if_neg fun h => noPart 2 f0 h.1).trans ((if_neg fun h => no f0 h.1).trans ((if_neg fun h => noPart 2 f0 h.1).trans ((if_neg fun h => no f0 h.1).trans ((if_neg fun h => no f0 h.1).trans ((if_neg fun h => no f0 h.1).trans ((if_neg fun h => no f0 h.1).trans ((if_neg fun h => no f0 h.1).trans ((if_neg fun h => no f0 h.1).trans ((if_neg fun h => noPart 2 f0 h.1).trans ((if_neg fun h => noPart 2 f0 h.1).trans ((if_pos ⟨f0, f1⟩).trans (by rw [hp.bool 23 h (.head _), hp.vec 14 d (.tail _ (.head _)), hp.vec 7 a (.tail _ (.tail _ (.head _))), hp.vec 0 r (.tail _ (.tail _ (.tail _ (.head _))))]))))))))))))))))
theorem cvtF64S64 (h d a r) : Statement (.cvtF64S64 h d a r) := by
  refine of_word rfl fun wd he => ?_
  have hp : Packs wd 0x3F00003C [(23, 1, h.toNat), (14, 7, d.toNat), (7, 7, a.toNat), (0, 2, r.toNat)] := packs [(23, 1), (14, 7), (7, 7), (0, 2)] he rfl rfl (by decide) ⟨toNat_lt_two_pow_one _, d.isLt, a.isLt, r.isLt, trivial⟩
  have f0 := hp.free 2 5 15 rfl rfl
  have f1 := hp.free 21 2 0 rfl rfl
  exact (hp.major 63 rfl rfl (by decide)).trans ((if_neg fun h => no f0 h.1).trans ((if_neg fun h => noPart 2 f0 h.1).trans ((if_neg fun h => no f0 h.1).trans ((if_neg fun h => noPart 2 f0 h.1).trans ((if_neg fun h => no f0 h.1).trans ((if_neg fun h => noPart 2 f0 h.1).trans ((if_neg fun h => no f0 h.1).trans ((if_neg fun h => no f0 h.1).trans ((if_neg fun h => no f0 h.1).trans ((if_neg fun h => no f0 h.1).trans ((if_neg fun h => no f0 h.1).trans ((if_neg fun h => no f0 h.1).trans ((if_neg fun h => noPart 2 f0 h.1).trans ((if_neg fun h => noPart 2 f0 h.1).trans ((if_neg fun h => no f0 h.1).trans ((if_pos ⟨f0, f1⟩).trans (by rw [hp.bool 23 h (.head _), hp.vec 14 d (.tail _ (.head _)), hp.vec 7 a (.tail _ (.tail _ (.head _))), hp.vec 0 r (.tail _ (.tail _ (.tail _ (.head _))))])))))))))))))))))
theorem cvtn (s d a b) : Statement (.cvtn s d a b) := by
  refine of_word rfl fun wd he => ?_
  have hp : Packs wd 0x40000000 [(21, 3, s.toNat), (14, 7, d.toNat), (7, 7, a.toNat), (0, 7, b.toNat)] := packs [(21, 3), (14, 7), (7, 7), (0, 7)] he rfl rfl (by decide) ⟨s.isLt, d.isLt, a.isLt, b.isLt, trivial⟩
  exact (hp.major 64 rfl rfl (by decide)).trans ((by show some (Instr.cvtn (fld wd 21 3) (fld wd 14 7) (fld wd 7 7) (fld wd 0 7)) = _; rw [hp.vec 21 s (.head _), hp.vec 14 d (.tail _ (.head _)), hp.vec 7 a (.tail _ (.tail _ (.head _))), hp.vec 0 b (.tail _ (.tail _ (.tail _ (.head _))))]))
theorem cvtw (s d a b) : Statement (.cvtw s d a b) := by
  refine of_word rfl fun wd he => ?_
  have hp : Packs wd 0x41000000 [(21, 3, s.toNat), (14, 7, d.toNat), (7, 7, a.toNat), (0, 7, b.toNat)] := packs [(21, 3), (14, 7), (7, 7), (0, 7)] he rfl rfl (by decide) ⟨s.isLt, d.isLt, a.isLt, b.isLt, trivial⟩
  exact (hp.major 65 rfl rfl (by decide)).trans ((by show some (Instr.cvtw (fld wd 21 3) (fld wd 14 7) (fld wd 7 7) (fld wd 0 7)) = _; rw [hp.vec 21 s (.head _), hp.vec 14 d (.tail _ (.head _)), hp.vec 7 a (.tail _ (.tail _ (.head _))), hp.vec 0 b (.tail _ (.tail _ (.tail _ (.head _))))]))
theorem rand (m d) : Statement (.rand m d) := by
  refine of_word rfl fun wd he => ?_
  have hp : Packs wd 0x42000000 [(21, 1, m.toNat), (14, 7, d.toNat)] := packs [(21, 1), (14, 7)] he rfl rfl (by decide) ⟨toNat_lt_two_pow_one _, d.isLt, trivial⟩
  have f0 := hp.free 0 14 0 rfl rfl
  have f1 := hp.free 22 2 0 rfl rfl
  exact (hp.major 66 rfl rfl (by decide)).trans ((if_pos ⟨f0, f1⟩).trans (by rw [hp.bool 21 m (.head _), hp.vec 14 d (.tail _ (.head _))]))
theorem rseed (a b) : Statement (.rseed a b) := by
  refine of_word rfl fun wd he => ?_
  have hp : Packs wd 0x43000000 [(7, 7, a.toNat), (0, 7, b.toNat)] := packs [(7, 7), (0, 7)] he rfl rfl (by decide) ⟨a.isLt, b.isLt, trivial⟩
  have f0 := hp.free 14 10 0 rfl rfl
  exact (hp.major 67 rfl rfl (by decide)).trans ((if_pos f0).trans (by rw [hp.vec 7 a (.head _), hp.vec 0 b (.tail _ (.head _))]))
theorem bra (s p o) : Statement (.bra s p o) := by
  refine of_word rfl fun wd he => ?_
  have hp : Packs wd 0x44000000 [(23, 1, s.toNat), (19, 4, p.toNat), (0, 19, o.toNat)] := packs [(23, 1), (19, 4), (0, 19)] he rfl rfl (by decide) ⟨toNat_lt_two_pow_one _, p.isLt, o.isLt, trivial⟩
  exact (hp.major 68 rfl rfl (by decide)).trans ((by show some (Instr.bra (bit wd 23) (fld wd 19 4) (fld wd 0 19)) = _; rw [hp.bool 23 s (.head _), hp.vec 19 p (.tail _ (.head _)), hp.vec 0 o (.tail _ (.tail _ (.head _)))]))
theorem brx (h g a) : Statement (.brx h g a) := by
  refine of_word rfl fun wd he => ?_
  have hp : Packs wd 0x45000000 [(23, 1, h.toNat), (22, 1, g.toNat), (7, 7, a.toNat)] := packs [(23, 1), (22, 1), (7, 7)] he rfl rfl (by decide) ⟨toNat_lt_two_pow_one _, toNat_lt_two_pow_one _, a.isLt, trivial⟩
  have f0 := hp.free 0 7 0 rfl rfl
  have f1 := hp.free 14 8 0 rfl rfl
  exact (hp.major 69 rfl rfl (by decide)).trans ((if_pos ⟨f0, f1⟩).trans (by rw [hp.bool 23 h (.head _), hp.bool 22 g (.tail _ (.head _)), hp.vec 7 a (.tail _ (.tail _ (.head _)))]))
theorem call (s o) : Statement (.call s o) := by
  refine of_word rfl fun wd he => ?_
  have hp : Packs wd 0x46000000 [(20, 4, s.toNat), (0, 20, o.toNat)] := packs [(20, 4), (0, 20)] he rfl rfl (by decide) ⟨s.isLt, o.isLt, trivial⟩
  exact (hp.major 70 rfl rfl (by decide)).trans ((by show some (Instr.call (fld wd 20 4) (fld wd 0 20)) = _; rw [hp.vec 20 s (.head _), hp.vec 0 o (.tail _ (.head _))]))
theorem calli (s a) : Statement (.calli s a) := by
  refine of_word rfl fun wd he => ?_
  have hp : Packs wd 0x47000000 [(20, 4, s.toNat), (7, 7, a.toNat)] := packs [(20, 4), (7, 7)] he rfl rfl (by decide) ⟨s.isLt, a.isLt, trivial⟩
  have f0 := hp.free 0 7 0 rfl rfl
  have f1 := hp.free 14 6 0 rfl rfl
  exact (hp.major 71 rfl rfl (by decide)).trans ((if_pos ⟨f0, f1⟩).trans (by rw [hp.vec 20 s (.head _), hp.vec 7 a (.tail _ (.head _))]))
theorem ret : Statement .ret := by
  refine of_word rfl fun wd he => ?_
  have hp : Packs wd 0x48000000 [] := packs [] he rfl rfl (by decide) trivial
  have f0 := hp.free 0 24 0 rfl rfl
  exact (hp.major 72 rfl rfl (by decide)).trans ((if_pos f0).trans rfl)
theorem wbase (h m a) : Statement (.wbase h m a) := by
  refine of_word rfl fun wd he => ?_
  have hp : Packs wd 0x49000000 [(23, 1, h.toNat), (21, 1, m.toNat), (7, 7, a.toNat)] := packs [(23, 1), (21, 1), (7, 7)] he rfl rfl (by decide) ⟨toNat_lt_two_pow_one _, toNat_lt_two_pow_one _, a.isLt, trivial⟩
  have f0 := hp.free 0 7 0 rfl rfl
  have f1 := hp.free 14 7 0 rfl rfl
  have f2 := hp.free 22 1 0 rfl rfl
  exact (hp.major 73 rfl rfl (by decide)).trans ((if_pos ⟨f0, f1, f2⟩).trans (by rw [hp.bool 23 h (.head _), hp.bool 21 m (.tail _ (.head _)), hp.vec 7 a (.tail _ (.tail _ (.head _)))]))
theorem rep (c x y z) : Statement (.rep c x y z) := by
  refine of_word rfl fun wd he => ?_
  have hp : Packs wd 0x4A000000 [(18, 6, c.toNat), (15, 3, x.toNat), (12, 3, y.toNat), (9, 3, z.toNat)] := packs [(18, 6), (15, 3), (12, 3), (9, 3)] he rfl rfl (by decide) ⟨c.isLt, x.isLt, y.isLt, z.isLt, trivial⟩
  have f0 := hp.free 0 9 0 rfl rfl
  exact (hp.major 74 rfl rfl (by decide)).trans ((if_pos f0).trans (by rw [hp.vec 18 c (.head _), hp.vec 15 x (.tail _ (.head _)), hp.vec 12 y (.tail _ (.tail _ (.head _))), hp.vec 9 z (.tail _ (.tail _ (.tail _ (.head _))))]))
theorem trap (c) : Statement (.trap c) := by
  refine of_word rfl fun wd he => ?_
  have hp : Packs wd 0x4B000000 [(0, 8, c.toNat)] := packs [(0, 8)] he rfl rfl (by decide) ⟨c.isLt, trivial⟩
  have f0 := hp.free 8 16 0 rfl rfl
  exact (hp.major 75 rfl rfl (by decide)).trans ((if_pos f0).trans (by rw [hp.vec 0 c (.head _)]))
theorem rettResume : Statement .rettResume := by
  refine of_word rfl fun wd he => ?_
  have hp : Packs wd 0x4C000000 [] := packs [] he rfl rfl (by decide) trivial
  have f0 := hp.free 0 24 0 rfl rfl
  exact (hp.major 76 rfl rfl (by decide)).trans ((if_pos f0).trans rfl)
theorem rettSkip : Statement .rettSkip := by
  refine of_word rfl fun wd he => ?_
  have hp : Packs wd 0x4C200000 [] := packs [] he rfl rfl (by decide) trivial
  have f0 := hp.free 0 24 2097152 rfl rfl
  exact (hp.major 76 rfl rfl (by decide)).trans ((if_neg fun h => no f0 h).trans ((if_pos f0).trans rfl))
theorem rettKillfibre : Statement .rettKillfibre := by
  refine of_word rfl fun wd he => ?_
  have hp : Packs wd 0x4C400000 [] := packs [] he rfl rfl (by decide) trivial
  have f0 := hp.free 0 24 4194304 rfl rfl
  exact (hp.major 76 rfl rfl (by decide)).trans ((if_neg fun h => no f0 h).trans ((if_neg fun h => no f0 h).trans ((if_pos f0).trans rfl)))
theorem rettTaskretry : Statement .rettTaskretry := by
  refine of_word rfl fun wd he => ?_
  have hp : Packs wd 0x4C600000 [] := packs [] he rfl rfl (by decide) trivial
  have f0 := hp.free 0 24 6291456 rfl rfl
  exact (hp.major 76 rfl rfl (by decide)).trans ((if_neg fun h => no f0 h).trans ((if_neg fun h => no f0 h).trans ((if_neg fun h => no f0 h).trans ((if_pos f0).trans rfl))))
theorem rettTaskskip : Statement .rettTaskskip := by
  refine of_word rfl fun wd he => ?_
  have hp : Packs wd 0x4C800000 [] := packs [] he rfl rfl (by decide) trivial
  have f0 := hp.free 0 24 8388608 rfl rfl
  exact (hp.major 76 rfl rfl (by decide)).trans ((if_neg fun h => no f0 h).trans ((if_neg fun h => no f0 h).trans ((if_neg fun h => no f0 h).trans ((if_neg fun h => no f0 h).trans ((if_pos f0).trans rfl)))))
theorem rettTaskkill : Statement .rettTaskkill := by
  refine of_word rfl fun wd he => ?_
  have hp : Packs wd 0x4CA00000 [] := packs [] he rfl rfl (by decide) trivial
  have f0 := hp.free 0 24 10485760 rfl rfl
  exact (hp.major 76 rfl rfl (by decide)).trans ((if_neg fun h => no f0 h).trans ((if_neg fun h => no f0 h).trans ((if_neg fun h => no f0 h).trans ((if_neg fun h => no f0 h).trans ((if_neg fun h => no f0 h).trans ((if_pos f0).trans rfl))))))
theorem fend : Statement .fend := by
  refine of_word rfl fun wd he => ?_
  have hp : Packs wd 0x4D000000 [] := packs [] he rfl rfl (by decide) trivial
  have f0 := hp.free 0 24 0 rfl rfl
  exact (hp.major 77 rfl rfl (by decide)).trans ((if_pos f0).trans rfl)
theorem srd (g d n) : Statement (.srd g d n) := by
  refine of_word rfl fun wd he => ?_
  have hp : Packs wd 0x4E000000 [(22, 1, g.toNat), (14, 7, d.toNat), (0, 7, n.toNat)] := packs [(22, 1), (14, 7), (0, 7)] he rfl rfl (by decide) ⟨toNat_lt_two_pow_one _, d.isLt, n.isLt, trivial⟩
  have f0 := hp.free 7 7 0 rfl rfl
  have f1 := hp.free 21 1 0 rfl rfl
  have f2 := hp.free 23 1 0 rfl rfl
  exact (hp.major 78 rfl rfl (by decide)).trans ((if_pos ⟨f0, f1, f2⟩).trans (by rw [hp.bool 22 g (.head _), hp.vec 14 d (.tail _ (.head _)), hp.vec 0 n (.tail _ (.tail _ (.head _)))]))
theorem swr (h g a n) : Statement (.swr h g a n) := by
  refine of_word rfl fun wd he => ?_
  have hp : Packs wd 0x4F000000 [(23, 1, h.toNat), (22, 1, g.toNat), (7, 7, a.toNat), (0, 7, n.toNat)] := packs [(23, 1), (22, 1), (7, 7), (0, 7)] he rfl rfl (by decide) ⟨toNat_lt_two_pow_one _, toNat_lt_two_pow_one _, a.isLt, n.isLt, trivial⟩
  have f0 := hp.free 14 8 0 rfl rfl
  exact (hp.major 79 rfl rfl (by decide)).trans ((if_pos f0).trans (by rw [hp.bool 23 h (.head _), hp.bool 22 g (.tail _ (.head _)), hp.vec 7 a (.tail _ (.tail _ (.head _))), hp.vec 0 n (.tail _ (.tail _ (.tail _ (.head _))))]))
theorem ldb (h m d a o) : Statement (.ldb h m d a o) := by
  refine of_word rfl fun wd he => ?_
  have hp : Packs wd 0x50000000 [(22, 2, h.toNat), (21, 1, m.toNat), (14, 7, d.toNat), (7, 7, a.toNat), (0, 7, o.toNat)] := packs [(22, 2), (21, 1), (14, 7), (7, 7), (0, 7)] he rfl rfl (by decide) ⟨h.isLt, toNat_lt_two_pow_one _, d.isLt, a.isLt, o.isLt, trivial⟩
  exact (hp.major 80 rfl rfl (by decide)).trans ((by show some (Instr.ldb (fld wd 22 2) (bit wd 21) (fld wd 14 7) (fld wd 7 7) (fld wd 0 7)) = _; rw [hp.vec 22 h (.head _), hp.bool 21 m (.tail _ (.head _)), hp.vec 14 d (.tail _ (.tail _ (.head _))), hp.vec 7 a (.tail _ (.tail _ (.tail _ (.head _)))), hp.vec 0 o (.tail _ (.tail _ (.tail _ (.tail _ (.head _)))))]))
theorem ldh (h m d a o) : Statement (.ldh h m d a o) := by
  refine of_word rfl fun wd he => ?_
  have hp : Packs wd 0x51000000 [(22, 2, h.toNat), (21, 1, m.toNat), (14, 7, d.toNat), (7, 7, a.toNat), (0, 7, o.toNat)] := packs [(22, 2), (21, 1), (14, 7), (7, 7), (0, 7)] he rfl rfl (by decide) ⟨h.isLt, toNat_lt_two_pow_one _, d.isLt, a.isLt, o.isLt, trivial⟩
  exact (hp.major 81 rfl rfl (by decide)).trans ((by show some (Instr.ldh (fld wd 22 2) (bit wd 21) (fld wd 14 7) (fld wd 7 7) (fld wd 0 7)) = _; rw [hp.vec 22 h (.head _), hp.bool 21 m (.tail _ (.head _)), hp.vec 14 d (.tail _ (.tail _ (.head _))), hp.vec 7 a (.tail _ (.tail _ (.tail _ (.head _)))), hp.vec 0 o (.tail _ (.tail _ (.tail _ (.tail _ (.head _)))))]))
theorem ldw (h m d a o) : Statement (.ldw h m d a o) := by
  refine of_word rfl fun wd he => ?_
  have hp : Packs wd 0x52000000 [(22, 2, h.toNat), (21, 1, m.toNat), (14, 7, d.toNat), (7, 7, a.toNat), (0, 7, o.toNat)] := packs [(22, 2), (21, 1), (14, 7), (7, 7), (0, 7)] he rfl rfl (by decide) ⟨h.isLt, toNat_lt_two_pow_one _, d.isLt, a.isLt, o.isLt, trivial⟩
  exact (hp.major 82 rfl rfl (by decide)).trans ((by show some (Instr.ldw (fld wd 22 2) (bit wd 21) (fld wd 14 7) (fld wd 7 7) (fld wd 0 7)) = _; rw [hp.vec 22 h (.head _), hp.bool 21 m (.tail _ (.head _)), hp.vec 14 d (.tail _ (.tail _ (.head _))), hp.vec 7 a (.tail _ (.tail _ (.tail _ (.head _)))), hp.vec 0 o (.tail _ (.tail _ (.tail _ (.tail _ (.head _)))))]))
theorem ldd (h m d a o) : Statement (.ldd h m d a o) := by
  refine of_word rfl fun wd he => ?_
  have hp : Packs wd 0x53000000 [(22, 2, h.toNat), (21, 1, m.toNat), (14, 7, d.toNat), (7, 7, a.toNat), (0, 7, o.toNat)] := packs [(22, 2), (21, 1), (14, 7), (7, 7), (0, 7)] he rfl rfl (by decide) ⟨h.isLt, toNat_lt_two_pow_one _, d.isLt, a.isLt, o.isLt, trivial⟩
  exact (hp.major 83 rfl rfl (by decide)).trans ((by show some (Instr.ldd (fld wd 22 2) (bit wd 21) (fld wd 14 7) (fld wd 7 7) (fld wd 0 7)) = _; rw [hp.vec 22 h (.head _), hp.bool 21 m (.tail _ (.head _)), hp.vec 14 d (.tail _ (.tail _ (.head _))), hp.vec 7 a (.tail _ (.tail _ (.tail _ (.head _)))), hp.vec 0 o (.tail _ (.tail _ (.tail _ (.tail _ (.head _)))))]))
theorem ldq (h m d a o) : Statement (.ldq h m d a o) := by
  refine of_word rfl fun wd he => ?_
  have hp : Packs wd 0x54000000 [(22, 2, h.toNat), (21, 1, m.toNat), (14, 7, d.toNat), (7, 7, a.toNat), (0, 7, o.toNat)] := packs [(22, 2), (21, 1), (14, 7), (7, 7), (0, 7)] he rfl rfl (by decide) ⟨h.isLt, toNat_lt_two_pow_one _, d.isLt, a.isLt, o.isLt, trivial⟩
  exact (hp.major 84 rfl rfl (by decide)).trans ((by show some (Instr.ldq (fld wd 22 2) (bit wd 21) (fld wd 14 7) (fld wd 7 7) (fld wd 0 7)) = _; rw [hp.vec 22 h (.head _), hp.bool 21 m (.tail _ (.head _)), hp.vec 14 d (.tail _ (.tail _ (.head _))), hp.vec 7 a (.tail _ (.tail _ (.tail _ (.head _)))), hp.vec 0 o (.tail _ (.tail _ (.tail _ (.tail _ (.head _)))))]))
theorem stb (h m d a o) : Statement (.stb h m d a o) := by
  refine of_word rfl fun wd he => ?_
  have hp : Packs wd 0x55000000 [(22, 2, h.toNat), (21, 1, m.toNat), (14, 7, d.toNat), (7, 7, a.toNat), (0, 7, o.toNat)] := packs [(22, 2), (21, 1), (14, 7), (7, 7), (0, 7)] he rfl rfl (by decide) ⟨h.isLt, toNat_lt_two_pow_one _, d.isLt, a.isLt, o.isLt, trivial⟩
  exact (hp.major 85 rfl rfl (by decide)).trans ((by show some (Instr.stb (fld wd 22 2) (bit wd 21) (fld wd 14 7) (fld wd 7 7) (fld wd 0 7)) = _; rw [hp.vec 22 h (.head _), hp.bool 21 m (.tail _ (.head _)), hp.vec 14 d (.tail _ (.tail _ (.head _))), hp.vec 7 a (.tail _ (.tail _ (.tail _ (.head _)))), hp.vec 0 o (.tail _ (.tail _ (.tail _ (.tail _ (.head _)))))]))
theorem sth (h m d a o) : Statement (.sth h m d a o) := by
  refine of_word rfl fun wd he => ?_
  have hp : Packs wd 0x56000000 [(22, 2, h.toNat), (21, 1, m.toNat), (14, 7, d.toNat), (7, 7, a.toNat), (0, 7, o.toNat)] := packs [(22, 2), (21, 1), (14, 7), (7, 7), (0, 7)] he rfl rfl (by decide) ⟨h.isLt, toNat_lt_two_pow_one _, d.isLt, a.isLt, o.isLt, trivial⟩
  exact (hp.major 86 rfl rfl (by decide)).trans ((by show some (Instr.sth (fld wd 22 2) (bit wd 21) (fld wd 14 7) (fld wd 7 7) (fld wd 0 7)) = _; rw [hp.vec 22 h (.head _), hp.bool 21 m (.tail _ (.head _)), hp.vec 14 d (.tail _ (.tail _ (.head _))), hp.vec 7 a (.tail _ (.tail _ (.tail _ (.head _)))), hp.vec 0 o (.tail _ (.tail _ (.tail _ (.tail _ (.head _)))))]))
theorem stw (h m d a o) : Statement (.stw h m d a o) := by
  refine of_word rfl fun wd he => ?_
  have hp : Packs wd 0x57000000 [(22, 2, h.toNat), (21, 1, m.toNat), (14, 7, d.toNat), (7, 7, a.toNat), (0, 7, o.toNat)] := packs [(22, 2), (21, 1), (14, 7), (7, 7), (0, 7)] he rfl rfl (by decide) ⟨h.isLt, toNat_lt_two_pow_one _, d.isLt, a.isLt, o.isLt, trivial⟩
  exact (hp.major 87 rfl rfl (by decide)).trans ((by show some (Instr.stw (fld wd 22 2) (bit wd 21) (fld wd 14 7) (fld wd 7 7) (fld wd 0 7)) = _; rw [hp.vec 22 h (.head _), hp.bool 21 m (.tail _ (.head _)), hp.vec 14 d (.tail _ (.tail _ (.head _))), hp.vec 7 a (.tail _ (.tail _ (.tail _ (.head _)))), hp.vec 0 o (.tail _ (.tail _ (.tail _ (.tail _ (.head _)))))]))
theorem std (h m d a o) : Statement (.std h m d a o) := by
  refine of_word rfl fun wd he => ?_
  have hp : Packs wd 0x58000000 [(22, 2, h.toNat), (21, 1, m.toNat), (14, 7, d.toNat), (7, 7, a.toNat), (0, 7, o.toNat)] := packs [(22, 2), (21, 1), (14, 7), (7, 7), (0, 7)] he rfl rfl (by decide) ⟨h.isLt, toNat_lt_two_pow_one _, d.isLt, a.isLt, o.isLt, trivial⟩
  exact (hp.major 88 rfl rfl (by decide)).trans ((by show some (Instr.std (fld wd 22 2) (bit wd 21) (fld wd 14 7) (fld wd 7 7) (fld wd 0 7)) = _; rw [hp.vec 22 h (.head _), hp.bool 21 m (.tail _ (.head _)), hp.vec 14 d (.tail _ (.tail _ (.head _))), hp.vec 7 a (.tail _ (.tail _ (.tail _ (.head _)))), hp.vec 0 o (.tail _ (.tail _ (.tail _ (.tail _ (.head _)))))]))
theorem stq (h m d a o) : Statement (.stq h m d a o) := by
  refine of_word rfl fun wd he => ?_
  have hp : Packs wd 0x59000000 [(22, 2, h.toNat), (21, 1, m.toNat), (14, 7, d.toNat), (7, 7, a.toNat), (0, 7, o.toNat)] := packs [(22, 2), (21, 1), (14, 7), (7, 7), (0, 7)] he rfl rfl (by decide) ⟨h.isLt, toNat_lt_two_pow_one _, d.isLt, a.isLt, o.isLt, trivial⟩
  exact (hp.major 89 rfl rfl (by decide)).trans ((by show some (Instr.stq (fld wd 22 2) (bit wd 21) (fld wd 14 7) (fld wd 7 7) (fld wd 0 7)) = _; rw [hp.vec 22 h (.head _), hp.bool 21 m (.tail _ (.head _)), hp.vec 14 d (.tail _ (.tail _ (.head _))), hp.vec 7 a (.tail _ (.tail _ (.tail _ (.head _)))), hp.vec 0 o (.tail _ (.tail _ (.tail _ (.tail _ (.head _)))))]))
theorem pfetch (h a o) : Statement (.pfetch h a o) := by
  refine of_word rfl fun wd he => ?_
  have hp : Packs wd 0x5A000000 [(22, 2, h.toNat), (7, 7, a.toNat), (0, 7, o.toNat)] := packs [(22, 2), (7, 7), (0, 7)] he rfl rfl (by decide) ⟨h.isLt, a.isLt, o.isLt, trivial⟩
  have f0 := hp.free 14 8 0 rfl rfl
  exact (hp.major 90 rfl rfl (by decide)).trans ((if_pos f0).trans (by rw [hp.vec 22 h (.head _), hp.vec 7 a (.tail _ (.head _)), hp.vec 0 o (.tail _ (.tail _ (.head _)))]))
theorem cline (m a o) : Statement (.cline m a o) := by
  refine of_word rfl fun wd he => ?_
  have hp : Packs wd 0x5B000000 [(21, 1, m.toNat), (7, 7, a.toNat), (0, 7, o.toNat)] := packs [(21, 1), (7, 7), (0, 7)] he rfl rfl (by decide) ⟨toNat_lt_two_pow_one _, a.isLt, o.isLt, trivial⟩
  have f0 := hp.free 14 7 0 rfl rfl
  have f1 := hp.free 22 2 0 rfl rfl
  exact (hp.major 91 rfl rfl (by decide)).trans ((if_pos ⟨f0, f1⟩).trans (by rw [hp.bool 21 m (.head _), hp.vec 7 a (.tail _ (.head _)), hp.vec 0 o (.tail _ (.tail _ (.head _)))]))
theorem yield : Statement .yield := by
  refine of_word rfl fun wd he => ?_
  have hp : Packs wd 0x5C000000 [] := packs [] he rfl rfl (by decide) trivial
  have f0 := hp.free 0 24 0 rfl rfl
  exact (hp.major 92 rfl rfl (by decide)).trans ((if_pos f0).trans rfl)
theorem sleep (i) : Statement (.sleep i) := by
  refine of_word rfl fun wd he => ?_
  have hp : Packs wd 0x5D000000 [(21, 3, i.toNat / 2 ^ 14), (0, 14, i.toNat % 2 ^ 14)] := packs [(21, 3), (0, 14)] he rfl rfl (by decide) ⟨half_lt (k := 3) (m := 14) i, Nat.mod_lt _ (by decide), trivial⟩
  have f0 := hp.free 14 7 0 rfl rfl
  exact (hp.major 93 rfl rfl (by decide)).trans ((if_pos f0).trans (by rw [hp.halves 21 0 3 14 i (.head _) (.tail _ (.head _))]))
theorem brk (c) : Statement (.brk c) := by
  refine of_word rfl fun wd he => ?_
  have hp : Packs wd 0x5E000000 [(0, 8, c.toNat)] := packs [(0, 8)] he rfl rfl (by decide) ⟨c.isLt, trivial⟩
  have f0 := hp.free 8 16 0 rfl rfl
  exact (hp.major 94 rfl rfl (by decide)).trans ((if_pos f0).trans (by rw [hp.vec 0 c (.head _)]))
theorem nop : Statement .nop := by
  refine of_word rfl fun wd he => ?_
  have hp : Packs wd 0x5F000000 [] := packs [] he rfl rfl (by decide) trivial
  have f0 := hp.free 0 24 0 rfl rfl
  exact (hp.major 95 rfl rfl (by decide)).trans ((if_pos f0).trans rfl)
theorem aadd (s d a w b) : Statement (.aadd s d a w b) := by
  refine of_word rfl fun wd he => ?_
  have hp : Packs wd 0x60000000 [(21, 3, s.toNat), (14, 7, d.toNat), (8, 6, a.toNat), (7, 1, w.toNat), (0, 7, b.toNat)] := packs [(21, 3), (14, 7), (8, 6), (7, 1), (0, 7)] he rfl rfl (by decide) ⟨s.isLt, d.isLt, a.isLt, toNat_lt_two_pow_one _, b.isLt, trivial⟩
  exact (hp.major 96 rfl rfl (by decide)).trans ((by show some (Instr.aadd (fld wd 21 3) (fld wd 14 7) (fld wd 8 6) (bit wd 7) (fld wd 0 7)) = _; rw [hp.vec 21 s (.head _), hp.vec 14 d (.tail _ (.head _)), hp.vec 8 a (.tail _ (.tail _ (.head _))), hp.bool 7 w (.tail _ (.tail _ (.tail _ (.head _)))), hp.vec 0 b (.tail _ (.tail _ (.tail _ (.tail _ (.head _)))))]))
theorem aand (s d a w b) : Statement (.aand s d a w b) := by
  refine of_word rfl fun wd he => ?_
  have hp : Packs wd 0x61000000 [(21, 3, s.toNat), (14, 7, d.toNat), (8, 6, a.toNat), (7, 1, w.toNat), (0, 7, b.toNat)] := packs [(21, 3), (14, 7), (8, 6), (7, 1), (0, 7)] he rfl rfl (by decide) ⟨s.isLt, d.isLt, a.isLt, toNat_lt_two_pow_one _, b.isLt, trivial⟩
  exact (hp.major 97 rfl rfl (by decide)).trans ((by show some (Instr.aand (fld wd 21 3) (fld wd 14 7) (fld wd 8 6) (bit wd 7) (fld wd 0 7)) = _; rw [hp.vec 21 s (.head _), hp.vec 14 d (.tail _ (.head _)), hp.vec 8 a (.tail _ (.tail _ (.head _))), hp.bool 7 w (.tail _ (.tail _ (.tail _ (.head _)))), hp.vec 0 b (.tail _ (.tail _ (.tail _ (.tail _ (.head _)))))]))
theorem aor (s d a w b) : Statement (.aor s d a w b) := by
  refine of_word rfl fun wd he => ?_
  have hp : Packs wd 0x62000000 [(21, 3, s.toNat), (14, 7, d.toNat), (8, 6, a.toNat), (7, 1, w.toNat), (0, 7, b.toNat)] := packs [(21, 3), (14, 7), (8, 6), (7, 1), (0, 7)] he rfl rfl (by decide) ⟨s.isLt, d.isLt, a.isLt, toNat_lt_two_pow_one _, b.isLt, trivial⟩
  exact (hp.major 98 rfl rfl (by decide)).trans ((by show some (Instr.aor (fld wd 21 3) (fld wd 14 7) (fld wd 8 6) (bit wd 7) (fld wd 0 7)) = _; rw [hp.vec 21 s (.head _), hp.vec 14 d (.tail _ (.head _)), hp.vec 8 a (.tail _ (.tail _ (.head _))), hp.bool 7 w (.tail _ (.tail _ (.tail _ (.head _)))), hp.vec 0 b (.tail _ (.tail _ (.tail _ (.tail _ (.head _)))))]))
theorem axor (s d a w b) : Statement (.axor s d a w b) := by
  refine of_word rfl fun wd he => ?_
  have hp : Packs wd 0x63000000 [(21, 3, s.toNat), (14, 7, d.toNat), (8, 6, a.toNat), (7, 1, w.toNat), (0, 7, b.toNat)] := packs [(21, 3), (14, 7), (8, 6), (7, 1), (0, 7)] he rfl rfl (by decide) ⟨s.isLt, d.isLt, a.isLt, toNat_lt_two_pow_one _, b.isLt, trivial⟩
  exact (hp.major 99 rfl rfl (by decide)).trans ((by show some (Instr.axor (fld wd 21 3) (fld wd 14 7) (fld wd 8 6) (bit wd 7) (fld wd 0 7)) = _; rw [hp.vec 21 s (.head _), hp.vec 14 d (.tail _ (.head _)), hp.vec 8 a (.tail _ (.tail _ (.head _))), hp.bool 7 w (.tail _ (.tail _ (.tail _ (.head _)))), hp.vec 0 b (.tail _ (.tail _ (.tail _ (.tail _ (.head _)))))]))
theorem amin (s d a w b) : Statement (.amin s d a w b) := by
  refine of_word rfl fun wd he => ?_
  have hp : Packs wd 0x64000000 [(21, 3, s.toNat), (14, 7, d.toNat), (8, 6, a.toNat), (7, 1, w.toNat), (0, 7, b.toNat)] := packs [(21, 3), (14, 7), (8, 6), (7, 1), (0, 7)] he rfl rfl (by decide) ⟨s.isLt, d.isLt, a.isLt, toNat_lt_two_pow_one _, b.isLt, trivial⟩
  exact (hp.major 100 rfl rfl (by decide)).trans ((by show some (Instr.amin (fld wd 21 3) (fld wd 14 7) (fld wd 8 6) (bit wd 7) (fld wd 0 7)) = _; rw [hp.vec 21 s (.head _), hp.vec 14 d (.tail _ (.head _)), hp.vec 8 a (.tail _ (.tail _ (.head _))), hp.bool 7 w (.tail _ (.tail _ (.tail _ (.head _)))), hp.vec 0 b (.tail _ (.tail _ (.tail _ (.tail _ (.head _)))))]))
theorem amax (s d a w b) : Statement (.amax s d a w b) := by
  refine of_word rfl fun wd he => ?_
  have hp : Packs wd 0x65000000 [(21, 3, s.toNat), (14, 7, d.toNat), (8, 6, a.toNat), (7, 1, w.toNat), (0, 7, b.toNat)] := packs [(21, 3), (14, 7), (8, 6), (7, 1), (0, 7)] he rfl rfl (by decide) ⟨s.isLt, d.isLt, a.isLt, toNat_lt_two_pow_one _, b.isLt, trivial⟩
  exact (hp.major 101 rfl rfl (by decide)).trans ((by show some (Instr.amax (fld wd 21 3) (fld wd 14 7) (fld wd 8 6) (bit wd 7) (fld wd 0 7)) = _; rw [hp.vec 21 s (.head _), hp.vec 14 d (.tail _ (.head _)), hp.vec 8 a (.tail _ (.tail _ (.head _))), hp.bool 7 w (.tail _ (.tail _ (.tail _ (.head _)))), hp.vec 0 b (.tail _ (.tail _ (.tail _ (.tail _ (.head _)))))]))
theorem axch (s d a w b) : Statement (.axch s d a w b) := by
  refine of_word rfl fun wd he => ?_
  have hp : Packs wd 0x66000000 [(21, 3, s.toNat), (14, 7, d.toNat), (8, 6, a.toNat), (7, 1, w.toNat), (0, 7, b.toNat)] := packs [(21, 3), (14, 7), (8, 6), (7, 1), (0, 7)] he rfl rfl (by decide) ⟨s.isLt, d.isLt, a.isLt, toNat_lt_two_pow_one _, b.isLt, trivial⟩
  exact (hp.major 102 rfl rfl (by decide)).trans ((by show some (Instr.axch (fld wd 21 3) (fld wd 14 7) (fld wd 8 6) (bit wd 7) (fld wd 0 7)) = _; rw [hp.vec 21 s (.head _), hp.vec 14 d (.tail _ (.head _)), hp.vec 8 a (.tail _ (.tail _ (.head _))), hp.bool 7 w (.tail _ (.tail _ (.tail _ (.head _)))), hp.vec 0 b (.tail _ (.tail _ (.tail _ (.tail _ (.head _)))))]))
theorem acas (s d a w b) : Statement (.acas s d a w b) := by
  refine of_word rfl fun wd he => ?_
  have hp : Packs wd 0x67000000 [(21, 3, s.toNat), (14, 7, d.toNat), (8, 6, a.toNat), (7, 1, w.toNat), (0, 7, b.toNat)] := packs [(21, 3), (14, 7), (8, 6), (7, 1), (0, 7)] he rfl rfl (by decide) ⟨s.isLt, d.isLt, a.isLt, toNat_lt_two_pow_one _, b.isLt, trivial⟩
  exact (hp.major 103 rfl rfl (by decide)).trans ((by show some (Instr.acas (fld wd 21 3) (fld wd 14 7) (fld wd 8 6) (bit wd 7) (fld wd 0 7)) = _; rw [hp.vec 21 s (.head _), hp.vec 14 d (.tail _ (.head _)), hp.vec 8 a (.tail _ (.tail _ (.head _))), hp.bool 7 w (.tail _ (.tail _ (.tail _ (.head _)))), hp.vec 0 b (.tail _ (.tail _ (.tail _ (.tail _ (.head _)))))]))
theorem afadd (s d a w b) : Statement (.afadd s d a w b) := by
  refine of_word rfl fun wd he => ?_
  have hp : Packs wd 0x68000000 [(21, 3, s.toNat), (14, 7, d.toNat), (8, 6, a.toNat), (7, 1, w.toNat), (0, 7, b.toNat)] := packs [(21, 3), (14, 7), (8, 6), (7, 1), (0, 7)] he rfl rfl (by decide) ⟨s.isLt, d.isLt, a.isLt, toNat_lt_two_pow_one _, b.isLt, trivial⟩
  exact (hp.major 104 rfl rfl (by decide)).trans ((by show some (Instr.afadd (fld wd 21 3) (fld wd 14 7) (fld wd 8 6) (bit wd 7) (fld wd 0 7)) = _; rw [hp.vec 21 s (.head _), hp.vec 14 d (.tail _ (.head _)), hp.vec 8 a (.tail _ (.tail _ (.head _))), hp.bool 7 w (.tail _ (.tail _ (.tail _ (.head _)))), hp.vec 0 b (.tail _ (.tail _ (.tail _ (.tail _ (.head _)))))]))
theorem ald (s d a w) : Statement (.ald s d a w) := by
  refine of_word rfl fun wd he => ?_
  have hp : Packs wd 0x69000000 [(21, 3, s.toNat), (14, 7, d.toNat), (8, 6, a.toNat), (7, 1, w.toNat)] := packs [(21, 3), (14, 7), (8, 6), (7, 1)] he rfl rfl (by decide) ⟨s.isLt, d.isLt, a.isLt, toNat_lt_two_pow_one _, trivial⟩
  have f0 := hp.free 0 7 0 rfl rfl
  exact (hp.major 105 rfl rfl (by decide)).trans ((if_pos f0).trans (by rw [hp.vec 21 s (.head _), hp.vec 14 d (.tail _ (.head _)), hp.vec 8 a (.tail _ (.tail _ (.head _))), hp.bool 7 w (.tail _ (.tail _ (.tail _ (.head _))))]))
theorem ast (s a w b) : Statement (.ast s a w b) := by
  refine of_word rfl fun wd he => ?_
  have hp : Packs wd 0x6A000000 [(21, 3, s.toNat), (8, 6, a.toNat), (7, 1, w.toNat), (0, 7, b.toNat)] := packs [(21, 3), (8, 6), (7, 1), (0, 7)] he rfl rfl (by decide) ⟨s.isLt, a.isLt, toNat_lt_two_pow_one _, b.isLt, trivial⟩
  have f0 := hp.free 14 7 0 rfl rfl
  exact (hp.major 106 rfl rfl (by decide)).trans ((if_pos f0).trans (by rw [hp.vec 21 s (.head _), hp.vec 8 a (.tail _ (.head _)), hp.bool 7 w (.tail _ (.tail _ (.head _))), hp.vec 0 b (.tail _ (.tail _ (.tail _ (.head _))))]))
theorem phase : Statement .phase := by
  refine of_word rfl fun wd he => ?_
  have hp : Packs wd 0x6B000000 [] := packs [] he rfl rfl (by decide) trivial
  have f0 := hp.free 0 24 0 rfl rfl
  exact (hp.major 107 rfl rfl (by decide)).trans ((if_pos f0).trans rfl)
theorem fence (b a) : Statement (.fence b a) := by
  refine of_word rfl fun wd he => ?_
  have hp : Packs wd 0x6C000000 [(20, 4, b.toNat), (16, 4, a.toNat)] := packs [(20, 4), (16, 4)] he rfl rfl (by decide) ⟨b.isLt, a.isLt, trivial⟩
  have f0 := hp.free 0 16 0 rfl rfl
  exact (hp.major 108 rfl rfl (by decide)).trans ((if_pos f0).trans (by rw [hp.vec 20 b (.head _), hp.vec 16 a (.tail _ (.head _))]))
theorem wait (l s t m) : Statement (.wait l s t m) := by
  refine of_word rfl fun wd he => ?_
  have hp : Packs wd 0x6D000000 [(20, 4, l.toNat), (16, 4, s.toNat), (12, 4, t.toNat), (4, 8, m.toNat)] := packs [(20, 4), (16, 4), (12, 4), (4, 8)] he rfl rfl (by decide) ⟨l.isLt, s.isLt, t.isLt, m.isLt, trivial⟩
  have f0 := hp.free 0 4 0 rfl rfl
  exact (hp.major 109 rfl rfl (by decide)).trans ((if_pos f0).trans (by rw [hp.vec 20 l (.head _), hp.vec 16 s (.tail _ (.head _)), hp.vec 12 t (.tail _ (.tail _ (.head _))), hp.vec 4 m (.tail _ (.tail _ (.tail _ (.head _))))]))
theorem tagSetf (a n) : Statement (.tagSetf a n) := by
  refine of_word rfl fun wd he => ?_
  have hp : Packs wd 0x6E000000 [(7, 7, a.toNat), (0, 7, n.toNat)] := packs [(7, 7), (0, 7)] he rfl rfl (by decide) ⟨a.isLt, n.isLt, trivial⟩
  have f0 := hp.free 14 10 0 rfl rfl
  exact (hp.major 110 rfl rfl (by decide)).trans ((if_pos f0).trans (by rw [hp.vec 7 a (.head _), hp.vec 0 n (.tail _ (.head _))]))
theorem tagSete (a n) : Statement (.tagSete a n) := by
  refine of_word rfl fun wd he => ?_
  have hp : Packs wd 0x6E200000 [(7, 7, a.toNat), (0, 7, n.toNat)] := packs [(7, 7), (0, 7)] he rfl rfl (by decide) ⟨a.isLt, n.isLt, trivial⟩
  have f0 := hp.free 14 10 128 rfl rfl
  exact (hp.major 110 rfl rfl (by decide)).trans ((if_neg fun h => no f0 h).trans ((if_pos f0).trans (by rw [hp.vec 7 a (.head _), hp.vec 0 n (.tail _ (.head _))])))
theorem tagCons (a n) : Statement (.tagCons a n) := by
  refine of_word rfl fun wd he => ?_
  have hp : Packs wd 0x6E400000 [(7, 7, a.toNat), (0, 7, n.toNat)] := packs [(7, 7), (0, 7)] he rfl rfl (by decide) ⟨a.isLt, n.isLt, trivial⟩
  have f0 := hp.free 14 10 256 rfl rfl
  exact (hp.major 110 rfl rfl (by decide)).trans ((if_neg fun h => no f0 h).trans ((if_neg fun h => no f0 h).trans ((if_pos f0).trans (by rw [hp.vec 7 a (.head _), hp.vec 0 n (.tail _ (.head _))]))))
theorem tagGet (d a) : Statement (.tagGet d a) := by
  refine of_word rfl fun wd he => ?_
  have hp : Packs wd 0x6E600000 [(14, 7, d.toNat), (7, 7, a.toNat)] := packs [(14, 7), (7, 7)] he rfl rfl (by decide) ⟨d.isLt, a.isLt, trivial⟩
  have f0 := hp.free 21 3 3 rfl rfl
  have f1 := hp.free 0 7 0 rfl rfl
  exact (hp.major 110 rfl rfl (by decide)).trans ((if_neg fun h => noPart 7 f0 h).trans ((if_neg fun h => noPart 7 f0 h).trans ((if_neg fun h => noPart 7 f0 h).trans ((if_pos ⟨f1, f0⟩).trans (by rw [hp.vec 14 d (.head _), hp.vec 7 a (.tail _ (.head _))])))))
theorem tagPoison (a n) : Statement (.tagPoison a n) := by
  refine of_word rfl fun wd he => ?_
  have hp : Packs wd 0x6E800000 [(7, 7, a.toNat), (0, 7, n.toNat)] := packs [(7, 7), (0, 7)] he rfl rfl (by decide) ⟨a.isLt, n.isLt, trivial⟩
  have f0 := hp.free 14 10 512 rfl rfl
  have f1 := hp.free 21 3 4 rfl rfl
  exact (hp.major 110 rfl rfl (by decide)).trans ((if_neg fun h => no f0 h).trans ((if_neg fun h => no f0 h).trans ((if_neg fun h => no f0 h).trans ((if_neg fun h => no f1 h.2).trans ((if_pos f0).trans (by rw [hp.vec 7 a (.head _), hp.vec 0 n (.tail _ (.head _))]))))))
theorem gbar (s d a b) : Statement (.gbar s d a b) := by
  refine of_word rfl fun wd he => ?_
  have hp : Packs wd 0x6F000000 [(21, 3, s.toNat), (14, 7, d.toNat), (8, 6, a.toNat), (0, 7, b.toNat)] := packs [(21, 3), (14, 7), (8, 6), (0, 7)] he rfl rfl (by decide) ⟨s.isLt, d.isLt, a.isLt, b.isLt, trivial⟩
  have f0 := hp.free 7 1 0 rfl rfl
  exact (hp.major 111 rfl rfl (by decide)).trans ((if_pos f0).trans (by rw [hp.vec 21 s (.head _), hp.vec 14 d (.tail _ (.head _)), hp.vec 8 a (.tail _ (.tail _ (.head _))), hp.vec 0 b (.tail _ (.tail _ (.tail _ (.head _))))]))
theorem fspawn (h g d a b) : Statement (.fspawn h g d a b) := by
  refine of_word rfl fun wd he => ?_
  have hp : Packs wd 0x70000000 [(23, 1, h.toNat), (22, 1, g.toNat), (14, 7, d.toNat), (7, 7, a.toNat), (0, 7, b.toNat)] := packs [(23, 1), (22, 1), (14, 7), (7, 7), (0, 7)] he rfl rfl (by decide) ⟨toNat_lt_two_pow_one _, toNat_lt_two_pow_one _, d.isLt, a.isLt, b.isLt, trivial⟩
  have f0 := hp.free 21 1 0 rfl rfl
  exact (hp.major 112 rfl rfl (by decide)).trans ((if_pos f0).trans (by rw [hp.bool 23 h (.head _), hp.bool 22 g (.tail _ (.head _)), hp.vec 14 d (.tail _ (.tail _ (.head _))), hp.vec 7 a (.tail _ (.tail _ (.tail _ (.head _)))), hp.vec 0 b (.tail _ (.tail _ (.tail _ (.tail _ (.head _)))))]))
theorem voteAll (s p) : Statement (.voteAll s p) := by
  refine of_word rfl fun wd he => ?_
  have hp : Packs wd 0x71000000 [(10, 4, s.toNat), (6, 4, p.toNat)] := packs [(10, 4), (6, 4)] he rfl rfl (by decide) ⟨s.isLt, p.isLt, trivial⟩
  have f0 := hp.free 0 6 0 rfl rfl
  have f1 := hp.free 14 10 0 rfl rfl
  exact (hp.major 113 rfl rfl (by decide)).trans ((if_pos ⟨f0, f1⟩).trans (by rw [hp.vec 10 s (.head _), hp.vec 6 p (.tail _ (.head _))]))
theorem voteAny (s p) : Statement (.voteAny s p) := by
  refine of_word rfl fun wd he => ?_
  have hp : Packs wd 0x71400000 [(10, 4, s.toNat), (6, 4, p.toNat)] := packs [(10, 4), (6, 4)] he rfl rfl (by decide) ⟨s.isLt, p.isLt, trivial⟩
  have f0 := hp.free 14 10 256 rfl rfl
  have f1 := hp.free 0 6 0 rfl rfl
  exact (hp.major 113 rfl rfl (by decide)).trans ((if_neg fun h => no f0 h.2).trans ((if_pos ⟨f1, f0⟩).trans (by rw [hp.vec 10 s (.head _), hp.vec 6 p (.tail _ (.head _))])))
theorem voteBallot (d s) : Statement (.voteBallot d s) := by
  refine of_word rfl fun wd he => ?_
  have hp : Packs wd 0x71800000 [(14, 7, d.toNat), (10, 4, s.toNat)] := packs [(14, 7), (10, 4)] he rfl rfl (by decide) ⟨d.isLt, s.isLt, trivial⟩
  have f0 := hp.free 21 3 4 rfl rfl
  have f1 := hp.free 0 10 0 rfl rfl
  exact (hp.major 113 rfl rfl (by decide)).trans ((if_neg fun h => noPart 7 f0 h.2).trans ((if_neg fun h => noPart 7 f0 h.2).trans ((if_pos ⟨f1, f0⟩).trans (by rw [hp.vec 14 d (.head _), hp.vec 10 s (.tail _ (.head _))]))))
theorem voteEq (s p) : Statement (.voteEq s p) := by
  refine of_word rfl fun wd he => ?_
  have hp : Packs wd 0x71C00000 [(10, 4, s.toNat), (6, 4, p.toNat)] := packs [(10, 4), (6, 4)] he rfl rfl (by decide) ⟨s.isLt, p.isLt, trivial⟩
  have f0 := hp.free 14 10 768 rfl rfl
  have f1 := hp.free 21 3 6 rfl rfl
  have f2 := hp.free 0 6 0 rfl rfl
  exact (hp.major 113 rfl rfl (by decide)).trans ((if_neg fun h => no f0 h.2).trans ((if_neg fun h => no f0 h.2).trans ((if_neg fun h => no f1 h.2).trans ((if_pos ⟨f2, f0⟩).trans (by rw [hp.vec 10 s (.head _), hp.vec 6 p (.tail _ (.head _))])))))
theorem shfl (g m d a b) : Statement (.shfl g m d a b) := by
  refine of_word rfl fun wd he => ?_
  have hp : Packs wd 0x72000000 [(22, 1, g.toNat), (21, 1, m.toNat), (14, 7, d.toNat), (7, 7, a.toNat), (0, 7, b.toNat)] := packs [(22, 1), (21, 1), (14, 7), (7, 7), (0, 7)] he rfl rfl (by decide) ⟨toNat_lt_two_pow_one _, toNat_lt_two_pow_one _, d.isLt, a.isLt, b.isLt, trivial⟩
  have f0 := hp.free 23 1 0 rfl rfl
  exact (hp.major 114 rfl rfl (by decide)).trans ((if_pos f0).trans (by rw [hp.bool 22 g (.head _), hp.bool 21 m (.tail _ (.head _)), hp.vec 14 d (.tail _ (.tail _ (.head _))), hp.vec 7 a (.tail _ (.tail _ (.tail _ (.head _)))), hp.vec 0 b (.tail _ (.tail _ (.tail _ (.tail _ (.head _)))))]))
theorem qswap (e w d a s) : Statement (.qswap e w d a s) := by
  refine of_word rfl fun wd he => ?_
  have hp : Packs wd 0x73000000 [(22, 2, e.toNat), (21, 1, w.toNat), (14, 7, d.toNat), (7, 7, a.toNat), (0, 2, s.toNat)] := packs [(22, 2), (21, 1), (14, 7), (7, 7), (0, 2)] he rfl rfl (by decide) ⟨e.isLt, toNat_lt_two_pow_one _, d.isLt, a.isLt, s.isLt, trivial⟩
  have f0 := hp.free 2 5 0 rfl rfl
  exact (hp.major 115 rfl rfl (by decide)).trans ((if_pos f0).trans (by rw [hp.vec 22 e (.head _), hp.bool 21 w (.tail _ (.head _)), hp.vec 14 d (.tail _ (.tail _ (.head _))), hp.vec 7 a (.tail _ (.tail _ (.tail _ (.head _)))), hp.vec 0 s (.tail _ (.tail _ (.tail _ (.tail _ (.head _)))))]))
theorem gred (s d a o) : Statement (.gred s d a o) := by
  refine of_word rfl fun wd he => ?_
  have hp : Packs wd 0x74000000 [(23, 1, s.toNat), (14, 7, d.toNat), (7, 7, a.toNat), (3, 4, o.toNat)] := packs [(23, 1), (14, 7), (7, 7), (3, 4)] he rfl rfl (by decide) ⟨toNat_lt_two_pow_one _, d.isLt, a.isLt, o.isLt, trivial⟩
  have f0 := hp.free 0 3 0 rfl rfl
  have f1 := hp.free 21 2 0 rfl rfl
  exact (hp.major 116 rfl rfl (by decide)).trans ((if_pos ⟨f0, f1⟩).trans (by rw [hp.bool 23 s (.head _), hp.vec 14 d (.tail _ (.head _)), hp.vec 7 a (.tail _ (.tail _ (.head _))), hp.vec 3 o (.tail _ (.tail _ (.tail _ (.head _))))]))
theorem claspDecl (n c) : Statement (.claspDecl n c) := by
  refine of_word rfl fun wd he => ?_
  have hp : Packs wd 0x75000000 [(14, 7, n.toNat / 2 ^ 7), (0, 7, n.toNat % 2 ^ 7), (7, 4, c.toNat)] := packs [(14, 7), (0, 7), (7, 4)] he rfl rfl (by decide) ⟨half_lt (k := 7) (m := 7) n, Nat.mod_lt _ (by decide), c.isLt, trivial⟩
  have f0 := hp.free 11 3 0 rfl rfl
  have f1 := hp.free 21 3 0 rfl rfl
  exact (hp.major 117 rfl rfl (by decide)).trans ((if_pos ⟨f0, f1⟩).trans (by rw [hp.halves 14 0 7 7 n (.head _) (.tail _ (.head _)), hp.vec 7 c (.tail _ (.tail _ (.head _)))]))
theorem claspSign (c) : Statement (.claspSign c) := by
  refine of_word rfl fun wd he => ?_
  have hp : Packs wd 0x75200000 [(7, 4, c.toNat)] := packs [(7, 4)] he rfl rfl (by decide) ⟨c.isLt, trivial⟩
  have f0 := hp.free 21 3 1 rfl rfl
  have f1 := hp.free 0 7 0 rfl rfl
  have f2 := hp.free 11 13 1024 rfl rfl
  exact (hp.major 117 rfl rfl (by decide)).trans ((if_neg fun h => no f0 h.2).trans ((if_pos ⟨f1, f2⟩).trans (by rw [hp.vec 7 c (.head _)])))
theorem claspWait (c) : Statement (.claspWait c) := by
  refine of_word rfl fun wd he => ?_
  have hp : Packs wd 0x75400000 [(7, 4, c.toNat)] := packs [(7, 4)] he rfl rfl (by decide) ⟨c.isLt, trivial⟩
  have f0 := hp.free 21 3 2 rfl rfl
  have f1 := hp.free 11 13 2048 rfl rfl
  have f2 := hp.free 0 7 0 rfl rfl
  exact (hp.major 117 rfl rfl (by decide)).trans ((if_neg fun h => no f0 h.2).trans ((if_neg fun h => no f1 h.2).trans ((if_pos ⟨f2, f1⟩).trans (by rw [hp.vec 7 c (.head _)]))))
theorem claspArrive (c) : Statement (.claspArrive c) := by
  refine of_word rfl fun wd he => ?_
  have hp : Packs wd 0x75600000 [(7, 4, c.toNat)] := packs [(7, 4)] he rfl rfl (by decide) ⟨c.isLt, trivial⟩
  have f0 := hp.free 21 3 3 rfl rfl
  have f1 := hp.free 11 13 3072 rfl rfl
  have f2 := hp.free 0 7 0 rfl rfl
  exact (hp.major 117 rfl rfl (by decide)).trans ((if_neg fun h => no f0 h.2).trans ((if_neg fun h => no f1 h.2).trans ((if_neg fun h => no f1 h.2).trans ((if_pos ⟨f2, f1⟩).trans (by rw [hp.vec 7 c (.head _)])))))
theorem claspRead (d c) : Statement (.claspRead d c) := by
  refine of_word rfl fun wd he => ?_
  have hp : Packs wd 0x75800000 [(14, 7, d.toNat), (7, 4, c.toNat)] := packs [(14, 7), (7, 4)] he rfl rfl (by decide) ⟨d.isLt, c.isLt, trivial⟩
  have f0 := hp.free 21 3 4 rfl rfl
  have f1 := hp.free 0 7 0 rfl rfl
  have f2 := hp.free 11 3 0 rfl rfl
  exact (hp.major 117 rfl rfl (by decide)).trans ((if_neg fun h => no f0 h.2).trans ((if_neg fun h => noPart 10 f0 h.2).trans ((if_neg fun h => noPart 10 f0 h.2).trans ((if_neg fun h => noPart 10 f0 h.2).trans ((if_pos ⟨f1, f2, f0⟩).trans (by rw [hp.vec 14 d (.head _), hp.vec 7 c (.tail _ (.head _))]))))))
theorem wdq (k o) : Statement (.wdq k o) := by
  refine of_word rfl fun wd he => ?_
  have hp : Packs wd 0x76000000 [(11, 5, k.toNat), (0, 11, o.toNat)] := packs [(11, 5), (0, 11)] he rfl rfl (by decide) ⟨k.isLt, o.isLt, trivial⟩
  have f0 := hp.free 16 8 0 rfl rfl
  exact (hp.major 118 rfl rfl (by decide)).trans ((if_pos f0).trans (by rw [hp.vec 11 k (.head _), hp.vec 0 o (.tail _ (.head _))]))
theorem mma (m n s c e k) : Statement (.mma m n s c e k) := by
  refine of_word rfl fun wd he => ?_
  have hp : Packs wd 0x77000000 [(22, 2, m.toNat), (16, 6, n.toNat), (13, 3, s.toNat), (9, 4, c.toNat), (7, 2, e.toNat), (2, 5, k.toNat)] := packs [(22, 2), (16, 6), (13, 3), (9, 4), (7, 2), (2, 5)] he rfl rfl (by decide) ⟨m.isLt, n.isLt, s.isLt, c.isLt, e.isLt, k.isLt, trivial⟩
  have f0 := hp.free 0 2 0 rfl rfl
  exact (hp.major 119 rfl rfl (by decide)).trans ((if_pos f0).trans (by rw [hp.vec 22 m (.head _), hp.vec 16 n (.tail _ (.head _)), hp.vec 13 s (.tail _ (.tail _ (.head _))), hp.vec 9 c (.tail _ (.tail _ (.tail _ (.head _)))), hp.vec 7 e (.tail _ (.tail _ (.tail _ (.tail _ (.head _))))), hp.vec 2 k (.tail _ (.tail _ (.tail _ (.tail _ (.tail _ (.head _))))))]))
theorem mmc (s c e k) : Statement (.mmc s c e k) := by
  refine of_word rfl fun wd he => ?_
  have hp : Packs wd 0x78000000 [(13, 3, s.toNat), (9, 4, c.toNat), (7, 2, e.toNat), (2, 5, k.toNat)] := packs [(13, 3), (9, 4), (7, 2), (2, 5)] he rfl rfl (by decide) ⟨s.isLt, c.isLt, e.isLt, k.isLt, trivial⟩
  have f0 := hp.free 0 2 0 rfl rfl
  have f1 := hp.free 16 8 0 rfl rfl
  exact (hp.major 120 rfl rfl (by decide)).trans ((if_pos ⟨f0, f1⟩).trans (by rw [hp.vec 13 s (.head _), hp.vec 9 c (.tail _ (.head _)), hp.vec 7 e (.tail _ (.tail _ (.head _))), hp.vec 2 k (.tail _ (.tail _ (.tail _ (.head _))))]))
theorem maccZero (k) : Statement (.maccZero k) := by
  refine of_word rfl fun wd he => ?_
  have hp : Packs wd 0x79000000 [(7, 5, k.toNat)] := packs [(7, 5)] he rfl rfl (by decide) ⟨k.isLt, trivial⟩
  have f0 := hp.free 0 7 0 rfl rfl
  have f1 := hp.free 12 12 0 rfl rfl
  exact (hp.major 121 rfl rfl (by decide)).trans ((if_pos ⟨f0, f1⟩).trans (by rw [hp.vec 7 k (.head _)]))
theorem maccLd (d a n) : Statement (.maccLd d a n) := by
  refine of_word rfl fun wd he => ?_
  have hp : Packs wd 0x79200000 [(14, 7, d.toNat), (7, 7, a.toNat), (0, 7, n.toNat)] := packs [(14, 7), (7, 7), (0, 7)] he rfl rfl (by decide) ⟨d.isLt, a.isLt, n.isLt, trivial⟩
  have f0 := hp.free 21 3 1 rfl rfl
  exact (hp.major 121 rfl rfl (by decide)).trans ((if_neg fun h => noPart 9 f0 h.2).trans ((if_pos f0).trans (by rw [hp.vec 14 d (.head _), hp.vec 7 a (.tail _ (.head _)), hp.vec 0 n (.tail _ (.tail _ (.head _)))])))
theorem maccSt (s k) : Statement (.maccSt s k) := by
  refine of_word rfl fun wd he => ?_
  have hp : Packs wd 0x79400000 [(14, 3, s.toNat), (7, 5, k.toNat)] := packs [(14, 3), (7, 5)] he rfl rfl (by decide) ⟨s.isLt, k.isLt, trivial⟩
  have f0 := hp.free 17 7 32 rfl rfl
  have f1 := hp.free 21 3 2 rfl rfl
  have f2 := hp.free 0 7 0 rfl rfl
  have f3 := hp.free 12 2 0 rfl rfl
  exact (hp.major 121 rfl rfl (by decide)).trans ((if_neg fun h => noPart 5 f0 h.2).trans ((if_neg fun h => no f1 h).trans ((if_pos ⟨f2, f3, f0⟩).trans (by rw [hp.vec 14 s (.head _), hp.vec 7 k (.tail _ (.head _))]))))
theorem taskTq (d a) : Statement (.taskTq d a) := by
  refine of_word rfl fun wd he => ?_
  have hp : Packs wd 0x7A000000 [(14, 7, d.toNat), (7, 7, a.toNat)] := packs [(14, 7), (7, 7)] he rfl rfl (by decide) ⟨d.isLt, a.isLt, trivial⟩
  have f0 := hp.free 0 7 0 rfl rfl
  have f1 := hp.free 21 3 0 rfl rfl
  exact (hp.major 122 rfl rfl (by decide)).trans ((if_pos ⟨f0, f1⟩).trans (by rw [hp.vec 14 d (.head _), hp.vec 7 a (.tail _ (.head _))]))
theorem taskTrun (p) : Statement (.taskTrun p) := by
  refine of_word rfl fun wd he => ?_
  have hp : Packs wd 0x7A200000 [(14, 4, p.toNat)] := packs [(14, 4)] he rfl rfl (by decide) ⟨p.isLt, trivial⟩
  have f0 := hp.free 21 3 1 rfl rfl
  have f1 := hp.free 0 14 0 rfl rfl
  have f2 := hp.free 18 6 8 rfl rfl
  exact (hp.major 122 rfl rfl (by decide)).trans ((if_neg fun h => no f0 h.2).trans ((if_pos ⟨f1, f2⟩).trans (by rw [hp.vec 14 p (.head _)])))
theorem taskTend : Statement .taskTend := by
  refine of_word rfl fun wd he => ?_
  have hp : Packs wd 0x7A400000 [] := packs [] he rfl rfl (by decide) trivial
  have f0 := hp.free 21 3 2 rfl rfl
  have f1 := hp.free 18 6 16 rfl rfl
  have f2 := hp.free 0 24 4194304 rfl rfl
  exact (hp.major 122 rfl rfl (by decide)).trans ((if_neg fun h => no f0 h.2).trans ((if_neg fun h => no f1 h.2).trans ((if_pos f2).trans rfl)))
theorem versResolve (d a b) : Statement (.versResolve d a b) := by
  refine of_word rfl fun wd he => ?_
  have hp : Packs wd 0x7B000000 [(14, 7, d.toNat), (7, 7, a.toNat), (0, 7, b.toNat)] := packs [(14, 7), (7, 7), (0, 7)] he rfl rfl (by decide) ⟨d.isLt, a.isLt, b.isLt, trivial⟩
  have f0 := hp.free 21 3 0 rfl rfl
  exact (hp.major 123 rfl rfl (by decide)).trans ((if_pos f0).trans (by rw [hp.vec 14 d (.head _), hp.vec 7 a (.tail _ (.head _)), hp.vec 0 b (.tail _ (.tail _ (.head _)))]))
theorem versPtile (a) : Statement (.versPtile a) := by
  refine of_word rfl fun wd he => ?_
  have hp : Packs wd 0x7B200000 [(7, 7, a.toNat)] := packs [(7, 7)] he rfl rfl (by decide) ⟨a.isLt, trivial⟩
  have f0 := hp.free 21 3 1 rfl rfl
  have f1 := hp.free 0 7 0 rfl rfl
  have f2 := hp.free 14 10 128 rfl rfl
  exact (hp.major 123 rfl rfl (by decide)).trans ((if_neg fun h => no f0 h).trans ((if_pos ⟨f1, f2⟩).trans (by rw [hp.vec 7 a (.head _)])))
theorem versState (d a) : Statement (.versState d a) := by
  refine of_word rfl fun wd he => ?_
  have hp : Packs wd 0x7B400000 [(14, 7, d.toNat), (7, 7, a.toNat)] := packs [(14, 7), (7, 7)] he rfl rfl (by decide) ⟨d.isLt, a.isLt, trivial⟩
  have f0 := hp.free 21 3 2 rfl rfl
  have f1 := hp.free 0 7 0 rfl rfl
  exact (hp.major 123 rfl rfl (by decide)).trans ((if_neg fun h => no f0 h).trans ((if_neg fun h => noPart 7 f0 h.2).trans ((if_pos ⟨f1, f0⟩).trans (by rw [hp.vec 14 d (.head _), hp.vec 7 a (.tail _ (.head _))]))))
theorem topk (t s k) : Statement (.topk t s k) := by
  refine of_word rfl fun wd he => ?_
  have hp : Packs wd 0x7C000000 [(22, 2, t.toNat), (21, 1, s.toNat), (2, 5, k.toNat)] := packs [(22, 2), (21, 1), (2, 5)] he rfl rfl (by decide) ⟨t.isLt, toNat_lt_two_pow_one _, k.isLt, trivial⟩
  have f0 := hp.free 0 2 0 rfl rfl
  have f1 := hp.free 7 14 0 rfl rfl
  exact (hp.major 124 rfl rfl (by decide)).trans ((if_pos ⟨f0, f1⟩).trans (by rw [hp.vec 22 t (.head _), hp.bool 21 s (.tail _ (.head _)), hp.vec 2 k (.tail _ (.tail _ (.head _)))]))
theorem launch (q k) : Statement (.launch q k) := by
  refine of_word rfl fun wd he => ?_
  have hp : Packs wd 0x7D000000 [(8, 8, q.toNat), (2, 5, k.toNat)] := packs [(8, 8), (2, 5)] he rfl rfl (by decide) ⟨q.isLt, k.isLt, trivial⟩
  have f0 := hp.free 0 2 0 rfl rfl
  have f1 := hp.free 7 1 0 rfl rfl
  have f2 := hp.free 16 8 0 rfl rfl
  exact (hp.major 125 rfl rfl (by decide)).trans ((if_pos ⟨f0, f1, f2⟩).trans (by rw [hp.vec 8 q (.head _), hp.vec 2 k (.tail _ (.head _))]))
theorem launchSpec (q k) : Statement (.launchSpec q k) := by
  refine of_word rfl fun wd he => ?_
  have hp : Packs wd 0x7D800000 [(8, 8, q.toNat), (2, 5, k.toNat)] := packs [(8, 8), (2, 5)] he rfl rfl (by decide) ⟨q.isLt, k.isLt, trivial⟩
  have f0 := hp.free 16 8 128 rfl rfl
  have f1 := hp.free 0 2 0 rfl rfl
  have f2 := hp.free 7 1 0 rfl rfl
  exact (hp.major 125 rfl rfl (by decide)).trans ((if_neg fun h => no f0 h.2.2).trans ((if_pos ⟨f1, f2, f0⟩).trans (by rw [hp.vec 8 q (.head _), hp.vec 2 k (.tail _ (.head _))])))
theorem tlbi (a) : Statement (.tlbi a) := by
  refine of_word rfl fun wd he => ?_
  have hp : Packs wd 0x7E000000 [(7, 7, a.toNat)] := packs [(7, 7)] he rfl rfl (by decide) ⟨a.isLt, trivial⟩
  have f0 := hp.free 0 7 0 rfl rfl
  have f1 := hp.free 14 10 0 rfl rfl
  exact (hp.major 126 rfl rfl (by decide)).trans ((if_pos ⟨f0, f1⟩).trans (by rw [hp.vec 7 a (.head _)]))
theorem tlbiAll : Statement .tlbiAll := by
  refine of_word rfl fun wd he => ?_
  have hp : Packs wd 0x7E400000 [] := packs [] he rfl rfl (by decide) trivial
  have f0 := hp.free 14 10 256 rfl rfl
  have f1 := hp.free 0 24 4194304 rfl rfl
  exact (hp.major 126 rfl rfl (by decide)).trans ((if_neg fun h => no f0 h.2).trans ((if_pos f1).trans rfl))
theorem dictionaryWord (h d v l s) : Statement (.dictionaryWord h d v l s) := by
  refine of_word rfl fun wd he => ?_
  have hp : Packs wd 0x80000000 [(21, 10, h.toNat), (16, 5, d.toNat), (15, 1, v.toNat), (5, 10, l.toNat), (0, 5, s.toNat)] := packs [(21, 10), (16, 5), (15, 1), (5, 10), (0, 5)] he rfl rfl (by decide) ⟨h.isLt, d.isLt, toNat_lt_two_pow_one _, l.isLt, s.isLt, trivial⟩
  exact hp.dictionary rfl rfl (by show some (Instr.dictionaryWord (fld wd 21 10) (fld wd 16 5) (bit wd 15) (fld wd 5 10) (fld wd 0 5)) = _; rw [hp.vec 21 h (.head _), hp.vec 16 d (.tail _ (.head _)), hp.bool 15 v (.tail _ (.tail _ (.head _))), hp.vec 5 l (.tail _ (.tail _ (.tail _ (.head _)))), hp.vec 0 s (.tail _ (.tail _ (.tail _ (.tail _ (.head _)))))])
theorem qli (d i) : Statement (.qli d i) := by
  refine of_queue rfl fun wd he => ?_
  have hp : Packs wd 0x01000000 [(20, 4, d.toNat), (0, 16, i.toNat)] := packs [(20, 4), (0, 16)] he rfl rfl (by decide) ⟨d.isLt, i.isLt, trivial⟩
  have f0 := hp.free 16 4 0 rfl rfl
  exact (hp.op 1 rfl rfl).trans ((if_pos f0).trans (by rw [hp.vec 20 d (.head _), hp.vec 0 i (.tail _ (.head _))]))
theorem qlsh (d i) : Statement (.qlsh d i) := by
  refine of_queue rfl fun wd he => ?_
  have hp : Packs wd 0x02000000 [(20, 4, d.toNat), (0, 16, i.toNat)] := packs [(20, 4), (0, 16)] he rfl rfl (by decide) ⟨d.isLt, i.isLt, trivial⟩
  have f0 := hp.free 16 4 0 rfl rfl
  exact (hp.op 2 rfl rfl).trans ((if_pos f0).trans (by rw [hp.vec 20 d (.head _), hp.vec 0 i (.tail _ (.head _))]))
theorem qaddi (d a i) : Statement (.qaddi d a i) := by
  refine of_queue rfl fun wd he => ?_
  have hp : Packs wd 0x03000000 [(20, 4, d.toNat), (16, 4, a.toNat), (0, 16, i.toNat)] := packs [(20, 4), (16, 4), (0, 16)] he rfl rfl (by decide) ⟨d.isLt, a.isLt, i.isLt, trivial⟩
  exact (hp.op 3 rfl rfl).trans ((by show some (Instr.qaddi (fld wd 20 4) (fld wd 16 4) (fld wd 0 16)) = _; rw [hp.vec 20 d (.head _), hp.vec 16 a (.tail _ (.head _)), hp.vec 0 i (.tail _ (.tail _ (.head _)))]))
theorem qadd (d a b) : Statement (.qadd d a b) := by
  refine of_queue rfl fun wd he => ?_
  have hp : Packs wd 0x04000000 [(20, 4, d.toNat), (16, 4, a.toNat), (12, 4, b.toNat)] := packs [(20, 4), (16, 4), (12, 4)] he rfl rfl (by decide) ⟨d.isLt, a.isLt, b.isLt, trivial⟩
  have f0 := hp.free 0 12 0 rfl rfl
  exact (hp.op 4 rfl rfl).trans ((if_pos f0).trans (by rw [hp.vec 20 d (.head _), hp.vec 16 a (.tail _ (.head _)), hp.vec 12 b (.tail _ (.tail _ (.head _)))]))
theorem qsub (d a b) : Statement (.qsub d a b) := by
  refine of_queue rfl fun wd he => ?_
  have hp : Packs wd 0x05000000 [(20, 4, d.toNat), (16, 4, a.toNat), (12, 4, b.toNat)] := packs [(20, 4), (16, 4), (12, 4)] he rfl rfl (by decide) ⟨d.isLt, a.isLt, b.isLt, trivial⟩
  have f0 := hp.free 0 12 0 rfl rfl
  exact (hp.op 5 rfl rfl).trans ((if_pos f0).trans (by rw [hp.vec 20 d (.head _), hp.vec 16 a (.tail _ (.head _)), hp.vec 12 b (.tail _ (.tail _ (.head _)))]))
theorem qand (d a b) : Statement (.qand d a b) := by
  refine of_queue rfl fun wd he => ?_
  have hp : Packs wd 0x06000000 [(20, 4, d.toNat), (16, 4, a.toNat), (12, 4, b.toNat)] := packs [(20, 4), (16, 4), (12, 4)] he rfl rfl (by decide) ⟨d.isLt, a.isLt, b.isLt, trivial⟩
  have f0 := hp.free 0 12 0 rfl rfl
  exact (hp.op 6 rfl rfl).trans ((if_pos f0).trans (by rw [hp.vec 20 d (.head _), hp.vec 16 a (.tail _ (.head _)), hp.vec 12 b (.tail _ (.tail _ (.head _)))]))
theorem qor (d a b) : Statement (.qor d a b) := by
  refine of_queue rfl fun wd he => ?_
  have hp : Packs wd 0x07000000 [(20, 4, d.toNat), (16, 4, a.toNat), (12, 4, b.toNat)] := packs [(20, 4), (16, 4), (12, 4)] he rfl rfl (by decide) ⟨d.isLt, a.isLt, b.isLt, trivial⟩
  have f0 := hp.free 0 12 0 rfl rfl
  exact (hp.op 7 rfl rfl).trans ((if_pos f0).trans (by rw [hp.vec 20 d (.head _), hp.vec 16 a (.tail _ (.head _)), hp.vec 12 b (.tail _ (.tail _ (.head _)))]))
theorem qxor (d a b) : Statement (.qxor d a b) := by
  refine of_queue rfl fun wd he => ?_
  have hp : Packs wd 0x08000000 [(20, 4, d.toNat), (16, 4, a.toNat), (12, 4, b.toNat)] := packs [(20, 4), (16, 4), (12, 4)] he rfl rfl (by decide) ⟨d.isLt, a.isLt, b.isLt, trivial⟩
  have f0 := hp.free 0 12 0 rfl rfl
  exact (hp.op 8 rfl rfl).trans ((if_pos f0).trans (by rw [hp.vec 20 d (.head _), hp.vec 16 a (.tail _ (.head _)), hp.vec 12 b (.tail _ (.tail _ (.head _)))]))
theorem qshl (d a b) : Statement (.qshl d a b) := by
  refine of_queue rfl fun wd he => ?_
  have hp : Packs wd 0x09000000 [(20, 4, d.toNat), (16, 4, a.toNat), (12, 4, b.toNat)] := packs [(20, 4), (16, 4), (12, 4)] he rfl rfl (by decide) ⟨d.isLt, a.isLt, b.isLt, trivial⟩
  have f0 := hp.free 0 12 0 rfl rfl
  exact (hp.op 9 rfl rfl).trans ((if_pos f0).trans (by rw [hp.vec 20 d (.head _), hp.vec 16 a (.tail _ (.head _)), hp.vec 12 b (.tail _ (.tail _ (.head _)))]))
theorem qshr (d a b) : Statement (.qshr d a b) := by
  refine of_queue rfl fun wd he => ?_
  have hp : Packs wd 0x0A000000 [(20, 4, d.toNat), (16, 4, a.toNat), (12, 4, b.toNat)] := packs [(20, 4), (16, 4), (12, 4)] he rfl rfl (by decide) ⟨d.isLt, a.isLt, b.isLt, trivial⟩
  have f0 := hp.free 0 12 0 rfl rfl
  exact (hp.op 10 rfl rfl).trans ((if_pos f0).trans (by rw [hp.vec 20 d (.head _), hp.vec 16 a (.tail _ (.head _)), hp.vec 12 b (.tail _ (.tail _ (.head _)))]))
theorem qmul (d a b) : Statement (.qmul d a b) := by
  refine of_queue rfl fun wd he => ?_
  have hp : Packs wd 0x0B000000 [(20, 4, d.toNat), (16, 4, a.toNat), (12, 4, b.toNat)] := packs [(20, 4), (16, 4), (12, 4)] he rfl rfl (by decide) ⟨d.isLt, a.isLt, b.isLt, trivial⟩
  have f0 := hp.free 0 12 0 rfl rfl
  exact (hp.op 11 rfl rfl).trans ((if_pos f0).trans (by rw [hp.vec 20 d (.head _), hp.vec 16 a (.tail _ (.head _)), hp.vec 12 b (.tail _ (.tail _ (.head _)))]))
theorem qdivu (d a b) : Statement (.qdivu d a b) := by
  refine of_queue rfl fun wd he => ?_
  have hp : Packs wd 0x0C000000 [(20, 4, d.toNat), (16, 4, a.toNat), (12, 4, b.toNat)] := packs [(20, 4), (16, 4), (12, 4)] he rfl rfl (by decide) ⟨d.isLt, a.isLt, b.isLt, trivial⟩
  have f0 := hp.free 0 12 0 rfl rfl
  exact (hp.op 12 rfl rfl).trans ((if_pos f0).trans (by rw [hp.vec 20 d (.head _), hp.vec 16 a (.tail _ (.head _)), hp.vec 12 b (.tail _ (.tail _ (.head _)))]))
theorem qminu (d a b) : Statement (.qminu d a b) := by
  refine of_queue rfl fun wd he => ?_
  have hp : Packs wd 0x0D000000 [(20, 4, d.toNat), (16, 4, a.toNat), (12, 4, b.toNat)] := packs [(20, 4), (16, 4), (12, 4)] he rfl rfl (by decide) ⟨d.isLt, a.isLt, b.isLt, trivial⟩
  have f0 := hp.free 0 12 0 rfl rfl
  exact (hp.op 13 rfl rfl).trans ((if_pos f0).trans (by rw [hp.vec 20 d (.head _), hp.vec 16 a (.tail _ (.head _)), hp.vec 12 b (.tail _ (.tail _ (.head _)))]))
theorem qldp (d o) : Statement (.qldp d o) := by
  refine of_queue rfl fun wd he => ?_
  have hp : Packs wd 0x10000000 [(20, 4, d.toNat), (0, 16, o.toNat)] := packs [(20, 4), (0, 16)] he rfl rfl (by decide) ⟨d.isLt, o.isLt, trivial⟩
  have f0 := hp.free 16 4 0 rfl rfl
  exact (hp.op 16 rfl rfl).trans ((if_pos f0).trans (by rw [hp.vec 20 d (.head _), hp.vec 0 o (.tail _ (.head _))]))
theorem qstp (d o) : Statement (.qstp d o) := by
  refine of_queue rfl fun wd he => ?_
  have hp : Packs wd 0x11000000 [(20, 4, d.toNat), (0, 16, o.toNat)] := packs [(20, 4), (0, 16)] he rfl rfl (by decide) ⟨d.isLt, o.isLt, trivial⟩
  have f0 := hp.free 16 4 0 rfl rfl
  exact (hp.op 17 rfl rfl).trans ((if_pos f0).trans (by rw [hp.vec 20 d (.head _), hp.vec 0 o (.tail _ (.head _))]))
theorem qldm (d a w o) : Statement (.qldm d a w o) := by
  refine of_queue rfl fun wd he => ?_
  have hp : Packs wd 0x12000000 [(20, 4, d.toNat), (16, 4, a.toNat), (14, 2, w.toNat), (0, 14, o.toNat)] := packs [(20, 4), (16, 4), (14, 2), (0, 14)] he rfl rfl (by decide) ⟨d.isLt, a.isLt, w.isLt, o.isLt, trivial⟩
  exact (hp.op 18 rfl rfl).trans ((by show some (Instr.qldm (fld wd 20 4) (fld wd 16 4) (fld wd 14 2) (fld wd 0 14)) = _; rw [hp.vec 20 d (.head _), hp.vec 16 a (.tail _ (.head _)), hp.vec 14 w (.tail _ (.tail _ (.head _))), hp.vec 0 o (.tail _ (.tail _ (.tail _ (.head _))))]))
theorem qstm (d a w o) : Statement (.qstm d a w o) := by
  refine of_queue rfl fun wd he => ?_
  have hp : Packs wd 0x13000000 [(20, 4, d.toNat), (16, 4, a.toNat), (14, 2, w.toNat), (0, 14, o.toNat)] := packs [(20, 4), (16, 4), (14, 2), (0, 14)] he rfl rfl (by decide) ⟨d.isLt, a.isLt, w.isLt, o.isLt, trivial⟩
  exact (hp.op 19 rfl rfl).trans ((by show some (Instr.qstm (fld wd 20 4) (fld wd 16 4) (fld wd 14 2) (fld wd 0 14)) = _; rw [hp.vec 20 d (.head _), hp.vec 16 a (.tail _ (.head _)), hp.vec 14 w (.tail _ (.tail _ (.head _))), hp.vec 0 o (.tail _ (.tail _ (.tail _ (.head _))))]))
theorem qbr (o) : Statement (.qbr o) := by
  refine of_queue rfl fun wd he => ?_
  have hp : Packs wd 0x20000000 [(0, 16, o.toNat)] := packs [(0, 16)] he rfl rfl (by decide) ⟨o.isLt, trivial⟩
  have f0 := hp.free 16 8 0 rfl rfl
  exact (hp.op 32 rfl rfl).trans ((if_pos f0).trans (by rw [hp.vec 0 o (.head _)]))
theorem qbz (a o) : Statement (.qbz a o) := by
  refine of_queue rfl fun wd he => ?_
  have hp : Packs wd 0x21000000 [(16, 4, a.toNat), (0, 16, o.toNat)] := packs [(16, 4), (0, 16)] he rfl rfl (by decide) ⟨a.isLt, o.isLt, trivial⟩
  have f0 := hp.free 20 4 0 rfl rfl
  exact (hp.op 33 rfl rfl).trans ((if_pos f0).trans (by rw [hp.vec 16 a (.head _), hp.vec 0 o (.tail _ (.head _))]))
theorem qbnz (a o) : Statement (.qbnz a o) := by
  refine of_queue rfl fun wd he => ?_
  have hp : Packs wd 0x22000000 [(16, 4, a.toNat), (0, 16, o.toNat)] := packs [(16, 4), (0, 16)] he rfl rfl (by decide) ⟨a.isLt, o.isLt, trivial⟩
  have f0 := hp.free 20 4 0 rfl rfl
  exact (hp.op 34 rfl rfl).trans ((if_pos f0).trans (by rw [hp.vec 16 a (.head _), hp.vec 0 o (.tail _ (.head _))]))
theorem qbltu (a b o) : Statement (.qbltu a b o) := by
  refine of_queue rfl fun wd he => ?_
  have hp : Packs wd 0x23000000 [(16, 4, a.toNat), (12, 4, b.toNat), (0, 12, o.toNat)] := packs [(16, 4), (12, 4), (0, 12)] he rfl rfl (by decide) ⟨a.isLt, b.isLt, o.isLt, trivial⟩
  have f0 := hp.free 20 4 0 rfl rfl
  exact (hp.op 35 rfl rfl).trans ((if_pos f0).trans (by rw [hp.vec 16 a (.head _), hp.vec 12 b (.tail _ (.head _)), hp.vec 0 o (.tail _ (.tail _ (.head _)))]))
theorem qloop (n l) : Statement (.qloop n l) := by
  refine of_queue rfl fun wd he => ?_
  have hp : Packs wd 0x24000000 [(8, 8, n.toNat), (0, 8, l.toNat)] := packs [(8, 8), (0, 8)] he rfl rfl (by decide) ⟨n.isLt, l.isLt, trivial⟩
  have f0 := hp.free 16 8 0 rfl rfl
  exact (hp.op 36 rfl rfl).trans ((if_pos f0).trans (by rw [hp.vec 8 n (.head _), hp.vec 0 l (.tail _ (.head _))]))
theorem qwait (a q) : Statement (.qwait a q) := by
  refine of_queue rfl fun wd he => ?_
  have hp : Packs wd 0x30000000 [(16, 4, a.toNat), (0, 8, q.toNat)] := packs [(16, 4), (0, 8)] he rfl rfl (by decide) ⟨a.isLt, q.isLt, trivial⟩
  have f0 := hp.free 8 8 0 rfl rfl
  have f1 := hp.free 20 4 0 rfl rfl
  exact (hp.op 48 rfl rfl).trans ((if_pos ⟨f0, f1⟩).trans (by rw [hp.vec 16 a (.head _), hp.vec 0 q (.tail _ (.head _))]))
theorem qsig (a) : Statement (.qsig a) := by
  refine of_queue rfl fun wd he => ?_
  have hp : Packs wd 0x31000000 [(16, 4, a.toNat)] := packs [(16, 4)] he rfl rfl (by decide) ⟨a.isLt, trivial⟩
  have f0 := hp.free 0 16 0 rfl rfl
  have f1 := hp.free 20 4 0 rfl rfl
  exact (hp.op 49 rfl rfl).trans ((if_pos ⟨f0, f1⟩).trans (by rw [hp.vec 16 a (.head _)]))
theorem qtlr (d q) : Statement (.qtlr d q) := by
  refine of_queue rfl fun wd he => ?_
  have hp : Packs wd 0x32000000 [(20, 4, d.toNat), (0, 8, q.toNat)] := packs [(20, 4), (0, 8)] he rfl rfl (by decide) ⟨d.isLt, q.isLt, trivial⟩
  have f0 := hp.free 8 12 0 rfl rfl
  exact (hp.op 50 rfl rfl).trans ((if_pos f0).trans (by rw [hp.vec 20 d (.head _), hp.vec 0 q (.tail _ (.head _))]))
theorem qlayer (a) : Statement (.qlayer a) := by
  refine of_queue rfl fun wd he => ?_
  have hp : Packs wd 0x33000000 [(16, 4, a.toNat)] := packs [(16, 4)] he rfl rfl (by decide) ⟨a.isLt, trivial⟩
  have f0 := hp.free 0 16 0 rfl rfl
  have f1 := hp.free 20 4 0 rfl rfl
  exact (hp.op 51 rfl rfl).trans ((if_pos ⟨f0, f1⟩).trans (by rw [hp.vec 16 a (.head _)]))
theorem qgo : Statement .qgo := by
  refine of_queue rfl fun wd he => ?_
  have hp : Packs wd 0x38000000 [] := packs [] he rfl rfl (by decide) trivial
  have f0 := hp.free 0 24 0 rfl rfl
  exact (hp.op 56 rfl rfl).trans ((if_pos f0).trans rfl)
theorem qrepeat : Statement .qrepeat := by
  refine of_queue rfl fun wd he => ?_
  have hp : Packs wd 0x39000000 [] := packs [] he rfl rfl (by decide) trivial
  have f0 := hp.free 0 24 0 rfl rfl
  exact (hp.op 57 rfl rfl).trans ((if_pos f0).trans rfl)
theorem qcancel (c) : Statement (.qcancel c) := by
  refine of_queue rfl fun wd he => ?_
  have hp : Packs wd 0x3A000000 [(0, 8, c.toNat)] := packs [(0, 8)] he rfl rfl (by decide) ⟨c.isLt, trivial⟩
  have f0 := hp.free 8 16 0 rfl rfl
  exact (hp.op 58 rfl rfl).trans ((if_pos f0).trans (by rw [hp.vec 0 c (.head _)]))
theorem entryMerge : Statement .entryMerge := of_none rfl rfl
theorem poolStarvationTimeout : Statement .poolStarvationTimeout := of_none rfl rfl
theorem matrixQueuePlaceWait : Statement .matrixQueuePlaceWait := of_none rfl rfl
theorem matrixStepStart : Statement .matrixStepStart := of_none rfl rfl
theorem matrixFetchDone : Statement .matrixFetchDone := of_none rfl rfl
theorem matrixKstepEnd : Statement .matrixKstepEnd := of_none rfl rfl
theorem matrixCommandComplete : Statement .matrixCommandComplete := of_none rfl rfl
theorem maccLdDeliver : Statement .maccLdDeliver := of_none rfl rfl
theorem maccZeroComplete : Statement .maccZeroComplete := of_none rfl rfl
theorem maccStComplete : Statement .maccStComplete := of_none rfl rfl
theorem workDistributorRequest : Statement .workDistributorRequest := of_none rfl rfl
theorem wdqAnswer : Statement .wdqAnswer := of_none rfl rfl
theorem topkComplete : Statement .topkComplete := of_none rfl rfl
theorem deviceFifoAppend : Statement .deviceFifoAppend := of_none rfl rfl
theorem dispatchHead : Statement .dispatchHead := of_none rfl rfl
theorem workgroupRetire : Statement .workgroupRetire := of_none rfl rfl
theorem gridRetire : Statement .gridRetire := of_none rfl rfl
theorem loadDataReturn : Statement .loadDataReturn := of_none rfl rfl
theorem storeLands : Statement .storeLands := of_none rfl rfl
theorem atomicAtHome : Statement .atomicAtHome := of_none rfl rfl
theorem waitedAccessProceeds : Statement .waitedAccessProceeds := of_none rfl rfl
theorem publicationComplete : Statement .publicationComplete := of_none rfl rfl
theorem dramAnswer : Statement .dramAnswer := of_none rfl rfl
theorem notifyPost : Statement .notifyPost := of_none rfl rfl
theorem copyCommandRead : Statement .copyCommandRead := of_none rfl rfl
theorem copyCommandStart : Statement .copyCommandStart := of_none rfl rfl
theorem copyTagWaitSatisfied : Statement .copyTagWaitSatisfied := of_none rfl rfl
theorem copyCommandComplete : Statement .copyCommandComplete := of_none rfl rfl
theorem copyCommandStop : Statement .copyCommandStop := of_none rfl rfl
theorem multicastSlotAcquire : Statement .multicastSlotAcquire := of_none rfl rfl
theorem multicastDrain : Statement .multicastDrain := of_none rfl rfl
theorem trunRetry : Statement .trunRetry := of_none rfl rfl
theorem versionPageCopy : Statement .versionPageCopy := of_none rfl rfl
theorem frameRetag : Statement .frameRetag := of_none rfl rfl
theorem versionSlotFree : Statement .versionSlotFree := of_none rfl rfl
theorem stalledAccessResume : Statement .stalledAccessResume := of_none rfl rfl
theorem rangeArrival : Statement .rangeArrival := of_none rfl rfl
theorem loupeCompare : Statement .loupeCompare := of_none rfl rfl
theorem domainEnable : Statement .domainEnable := of_none rfl rfl
theorem domainDisable : Statement .domainDisable := of_none rfl rfl
theorem domainPoolGrow : Statement .domainPoolGrow := of_none rfl rfl
theorem trapEntry : Statement .trapEntry := of_none rfl rfl
theorem faultReplay : Statement .faultReplay := of_none rfl rfl
theorem watchdog : Statement .watchdog := of_none rfl rfl
theorem tableWalk : Statement .tableWalk := of_none rfl rfl
theorem tlbiSweepDone : Statement .tlbiSweepDone := of_none rfl rfl
theorem preemptWaitTimeout : Statement .preemptWaitTimeout := of_none rfl rfl
theorem preempt : Statement .preempt := of_none rfl rfl
theorem restoreUnit : Statement .restoreUnit := of_none rfl rfl
theorem sweepEntry : Statement .sweepEntry := of_none rfl rfl
theorem compressStart : Statement .compressStart := of_none rfl rfl
theorem compressFinish : Statement .compressFinish := of_none rfl rfl
theorem pageExpansion : Statement .pageExpansion := of_none rfl rfl
theorem migrate : Statement .migrate := of_none rfl rfl
theorem migrationDone : Statement .migrationDone := of_none rfl rfl
theorem kvRingCount : Statement .kvRingCount := of_none rfl rfl
theorem kvVictimReclaim : Statement .kvVictimReclaim := of_none rfl rfl
theorem frpop : Statement .frpop := of_none rfl rfl
theorem frpush : Statement .frpush := of_none rfl rfl
theorem cxlpop : Statement .cxlpop := of_none rfl rfl
theorem cxlpush : Statement .cxlpush := of_none rfl rfl
theorem channelRetireGo : Statement .channelRetireGo := of_none rfl rfl
theorem stripeRebuild : Statement .stripeRebuild := of_none rfl rfl
theorem uncorrectableError : Statement .uncorrectableError := of_none rfl rfl
theorem hostRefetchDone : Statement .hostRefetchDone := of_none rfl rfl
theorem doorbellTail : Statement .doorbellTail := of_none rfl rfl
theorem doorbellDridx : Statement .doorbellDridx := of_none rfl rfl
theorem doorbellArm : Statement .doorbellArm := of_none rfl rfl
theorem hostBar2Write : Statement .hostBar2Write := of_none rfl rfl
theorem hostBar2Read : Statement .hostBar2Read := of_none rfl rfl
theorem queueEnable : Statement .queueEnable := of_none rfl rfl
theorem queueDisable : Statement .queueDisable := of_none rfl rfl
theorem packetTake : Statement .packetTake := of_none rfl rfl
theorem timelineWaitRelease : Statement .timelineWaitRelease := of_none rfl rfl
theorem packetComplete : Statement .packetComplete := of_none rfl rfl
theorem peerRequest : Statement .peerRequest := of_none rfl rfl
theorem peerReply : Statement .peerReply := of_none rfl rfl
theorem d2dLaneFailure : Statement .d2dLaneFailure := of_none rfl rfl
theorem d2dLinkFailure : Statement .d2dLinkFailure := of_none rfl rfl
theorem collectiveTableLoad : Statement .collectiveTableLoad := of_none rfl rfl
theorem collectiveRingConfig : Statement .collectiveRingConfig := of_none rfl rfl
theorem collectivePost : Statement .collectivePost := of_none rfl rfl
theorem collectiveCommandRead : Statement .collectiveCommandRead := of_none rfl rfl
theorem collectivePartialArrive : Statement .collectivePartialArrive := of_none rfl rfl
theorem collectiveComplete : Statement .collectiveComplete := of_none rfl rfl
theorem deviceReset : Statement .deviceReset := of_none rfl rfl
theorem channelFailureReport : Statement .channelFailureReport := of_none rfl rfl
theorem statusW1c : Statement .statusW1c := of_none rfl rfl
theorem controlRegisterWrite : Statement .controlRegisterWrite := of_none rfl rfl
theorem attestationQuote : Statement .attestationQuote := of_none rfl rfl
theorem powerTick : Statement .powerTick := of_none rfl rfl
theorem enterLow : Statement .enterLow := of_none rfl rfl
theorem illegalInstruction : Statement .illegalInstruction := of_none rfl rfl
theorem hostWriteThrough : Statement .hostWriteThrough := of_none rfl rfl

end Sys2Proof.Laws.RoundTrip
end

