-- ==== Sys2Proof/Laws/Seats.lean ====
section
/-! SUPPORT. What the settling of an entry does (08 R198 to R203): live fibres change their seats and nothing else, and beside fibres only the core's record of its entries and the counter of seat orders change. -/

namespace Sys2Proof.Machine

theorem Reseats.id : Reseats fun f => f := fun f => ⟨fun _ => ⟨f.seat, rfl⟩, fun n => ⟨n, rfl⟩⟩

theorem Reseats.comp {g h : Fibre → Fibre} (hg : Reseats g) (hh : Reseats h) : Reseats fun f => g (h f) := by
  intro f
  refine ⟨fun l => ?_, fun n => ?_⟩
  · obtain ⟨x, e⟩ := (hh f).1 l
    obtain ⟨y, e'⟩ := (hg (h f)).1 (by rw [e]; exact l)
    exact ⟨y, e'.trans (by rw [e])⟩
  · obtain ⟨m, e⟩ := (hh f).2 n
    obtain ⟨m', e'⟩ := (hg (h f)).2 m
    exact ⟨m', (congrArg (fun z => { z with run := f.run, pc := f.pc, pl := f.pl, rep := f.rep, seat := f.seat, wait := f.wait }) e').trans e⟩

/-- A change of seats alone. -/
theorem Reseats.seats {h : Fibre → Fibre} (e : ∀ f, ∃ x, h f = { f with seat := x }) : Reseats h := by
  intro f
  obtain ⟨x, q⟩ := e f
  exact ⟨fun _ => ⟨x, q⟩, fun n => by rw [q]; exact ⟨n, rfl⟩⟩

/-- A change of fibres leaves each its key. -/
theorem Reseats.key {h : Fibre → Fibre} (r : Reseats h) (f : Fibre) : (h f).key = f.key := by
  by_cases l : f.run = .live
  · obtain ⟨x, e⟩ := (r f).1 l; rw [e]; rfl
  · have e := congrArg Fibre.key ((r f).2 l).2; exact e

theorem State.Reseated.refl (s : State) : s.Reseated s := ⟨rfl, rfl, _, Reseats.id, by simp⟩

theorem State.Reseated.trans {s t u : State} (a : s.Reseated t) (b : t.Reseated u) : s.Reseated u := by
  obtain ⟨g, hg, eg⟩ := a.fibres
  obtain ⟨h, hh, eh⟩ := b.fibres
  refine ⟨?_, b.cores.trans a.cores, _, hh.comp hg, by rw [eh, eg, List.map_map]; rfl⟩
  have x := a.same; have y := b.same
  rw [← y] at x
  exact x

/-- A live fibre is still there, at some seat. -/
theorem State.Reseated.mem {s t : State} (r : s.Reseated t) {f : Fibre} (m : f ∈ s.fibres) (l : f.run = .live) : ∃ x, { f with seat := x } ∈ t.fibres := by
  obtain ⟨h, hh, e⟩ := r.fibres
  obtain ⟨x, q⟩ := (hh f).1 l
  exact ⟨x, by rw [e, ← q]; exact List.mem_map_of_mem m⟩

/-- Every fibre after it has the key of one before, and differs from a live one by its seat alone. -/
theorem State.Reseated.from {s t : State} (r : s.Reseated t) {g : Fibre} (m : g ∈ t.fibres) : ∃ f ∈ s.fibres, g.key = f.key ∧ (f.run = .live → ∃ x, g = { f with seat := x }) := by
  obtain ⟨h, hh, e⟩ := r.fibres
  rw [e] at m
  obtain ⟨f, mf, rfl⟩ := List.mem_map.1 m
  exact ⟨f, mf, hh.key f, (hh f).1⟩

/-- A change of one core's record of its entries. -/
theorem State.entries_reseated (s : State) (c : Nat) (h : Core → Core) (e : ∀ k, { h k with entries := [] } = { k with entries := [] }) : s.Reseated (s.modCore c h) := by
  refine ⟨rfl, ?_, _, Reseats.id, by simp [State.modCore]⟩
  simp only [State.modCore]
  apply List.ext_getElem? fun i => ?_
  simp only [List.getElem?_map, List.getElem?_modify]
  split
  · cases s.cores[i]? <;> simp [e]
  · simp

theorem State.seatClass_reseated (s : State) (core part : Nat) (sel : Fibre → Bool) : s.Reseated (s.seatClass core part sel) := by
  unfold State.seatClass
  dsimp only
  split
  · rename_i i _
    have a : s.Reseated { s with order := s.order + 1, fibres := s.fibres.map fun f => if (decide (f.core = core) && decide (f.part = part) && decide (f.run ≠ .ended) && sel f) = true then { f with seat := .entry i } else f } :=
      ⟨rfl, rfl, _, Reseats.seats fun f => by split <;> exact ⟨_, rfl⟩, rfl⟩
    exact a.trans (State.entries_reseated _ core _ fun _ => rfl)
  · exact ⟨rfl, rfl, _, Reseats.seats fun f => by split <;> exact ⟨_, rfl⟩, rfl⟩

theorem State.mirror_reseated (s : State) : s.Reseated s.mirror := by
  refine ⟨rfl, rfl, _, fun f => ?_, rfl⟩
  split
  · rename_i h
    refine ⟨fun l => absurd (h.symm.trans l) (by decide), fun n => ?_⟩
    split
    · exact ⟨n, rfl⟩
    · exact ⟨by simp, rfl⟩
  · exact ⟨fun _ => ⟨_, rfl⟩, fun n => ⟨n, rfl⟩⟩

theorem State.pruneEntries_reseated (s : State) (core : Nat) : s.Reseated (s.pruneEntries core) := s.entries_reseated core _ fun _ => rfl

theorem State.refill_reseated (s : State) (core part : Nat) : s.Reseated (s.refill core part) := by
  unfold State.refill
  split
  · exact (s.seatClass_reseated _ _ _).trans (State.mirror_reseated _)
  · exact .refl s

theorem State.splitOff_reseated (n : Nat) (s : State) (c : Issue) (keep : List FibreKey) : s.Reseated (State.splitOff n s c keep) := by
  induction n generalizing s with
  | zero => exact .refl s
  | succ n ih =>
    unfold State.splitOff
    split
    · exact .refl s
    · exact (s.seatClass_reseated _ _ _).trans (ih _)

/-- Settling an entry changes seats, and nothing else but helpers and the record of entries (R200 to R203). -/
theorem State.settle_reseated (s : State) (c : Issue) (keep : List FibreKey) : s.Reseated (s.settle c keep) := by
  have a := (s.splitOff_reseated 64 c keep).trans (State.mirror_reseated _)
  have b := a.trans (State.pruneEntries_reseated _ c.core)
  exact b.trans (State.refill_reseated _ _ _)

end Sys2Proof.Machine
end

