-- ==== Sys2Proof/Laws/Run.lean ====
section
/-! SUPPORT. What a word that runs over the shared state does when its entry holds one live fibre, and what a per-group word does when its entry holds one group: how each of its four answers ends. -/

namespace Sys2Proof.Machine

theorem State.Sole.mem {s : State} {c : Issue} {f : Fibre} (h : s.Sole c f) : f ∈ s.fibres ∧ f.inEntry c = true :=
  (s.mem_members c f).1 (by rw [h.only]; simp)

theorem find?_of_one {α : Type} {p : α → Bool} {l : List α} {a : α} (m : a ∈ l) (h : p a = true) (one : ∀ b ∈ l, p b = true → b = a) : l.find? p = some a := by
  cases e : l.find? p with
  | none => exact absurd h (by simpa using List.find?_eq_none.1 e a m)
  | some b => rw [one b (List.mem_of_find?_eq_some e) (List.find?_some e)]

/-- The record of a sole fibre's key is the fibre. -/
theorem State.Sole.fibre? {s : State} {c : Issue} {f : Fibre} (h : s.Sole c f) : s.fibre? f.key = some f :=
  find?_of_one h.mem.1 ((Fibre.is_iff _ _).2 rfl) fun b m e => h.one b m ((Fibre.is_iff _ _).1 e)

theorem State.Sole.is_live {s : State} {c : Issue} {f : Fibre} (h : s.Sole c f) : f.live = true := by simp [Fibre.live, h.live]

theorem State.Sole.liveMembers {s : State} {c : Issue} {f : Fibre} (h : s.Sole c f) : s.liveMembers c = [f] := by simp [State.liveMembers, h.only, h.is_live]

/-- A sole fibre has no helper that follows it. -/
theorem State.Sole.followers {s : State} {c : Issue} {f : Fibre} (h : s.Sole c f) (went : List (FibreKey × Went)) : s.followers c went = [] := by
  simp [State.followers, h.only, h.is_live]

theorem State.Sole.quiet {s : State} {c : Issue} {f : Fibre} (h : s.Sole c f) : s.quiet f = false := by simp [State.quiet, h.live, h.loud]

theorem State.Sole.runs {s : State} {c : Issue} {f : Fibre} (h : s.Sole c f) (op : State → Issue → Fibre → Seq) :
    s.issueSeq op = (s.runOne c op f.key).1.finish c [(f.key, (s.runOne c op f.key).2)] := by
  simp [State.issueSeq, h.cur, h.liveMembers, h.followers, State.runAll]

/-- A word that a sole fibre completes: it goes on. -/
theorem State.Sole.done {s t : State} {c : Issue} {f : Fibre} (h : s.Sole c f) {op : State → Issue → Fibre → Seq} (e : op s c f = .done t) : s.issueSeq op = t.goOn f c := by
  have r : s.runOne c op f.key = (t.modFibre f.key fun x => x.advance c, .done) := by simp [State.runOne, h.fibre?, h.free, e]
  rw [h.runs, r]
  simp [State.finish, State.goOn]

/-- A word that makes a sole fibre wait: it stays, marked, and its entry settles. -/
theorem State.Sole.waits {s t : State} {c : Issue} {f : Fibre} (h : s.Sole c f) {op : State → Issue → Fibre → Seq} {w : Why} (e : op s c f = .wait t w) :
    s.issueSeq op = ((t.modFibre f.key fun x => x.waiting w s.clock).takeTraps c []).settle c [f.key] := by
  have r : s.runOne c op f.key = (t.modFibre f.key fun x => x.waiting w s.clock, .wait) := by simp [State.runOne, h.fibre?, h.free, e, h.quiet]
  rw [h.runs, r]
  simp [State.finish, trapsOf]

/-- A word that a sole fibre faults in: the fault is taken, and its entry settles without it. -/
theorem State.Sole.faults {s t : State} {c : Issue} {f : Fibre} (h : s.Sole c f) {op : State → Issue → Fibre → Seq} {x : Trap} (e : op s c f = .trap t x) :
    s.issueSeq op = (t.takeTraps c [(f.key, x)]).settle c [] := by
  have r : s.runOne c op f.key = (t, .trap x) := by simp [State.runOne, h.fibre?, h.free, e, h.quiet]
  rw [h.runs, r]
  simp [State.finish, trapsOf]

/-- A transfer of control of a sole fibre: its pc is what the word made of it, and its entry settles. -/
theorem State.Sole.jumps {s t : State} {c : Issue} {f : Fibre} (h : s.Sole c f) {op : State → Issue → Fibre → Seq} (e : op s c f = .jumped t) :
    s.issueSeq op = (let u := t.modFibre f.key fun x => { x with wait := none }
      let v := u.takeTraps c []
      v.settle c (v.keepLowest c [f.key])) := by
  have r : s.runOne c op f.key = (t.modFibre f.key fun x => { x with wait := none }, .jumped) := by simp [State.runOne, h.fibre?, h.free, e]
  rw [h.runs, r]
  simp [State.finish, trapsOf]

/-- With no fault, nothing is taken. -/
@[simp] theorem State.takeTraps_nil (s : State) (c : Issue) : s.takeTraps c [] = s := by simp [State.takeTraps]

/-! Per-group words. -/

theorem share_unmuted {s : State} {c : Issue} {g : Nat × Nat} (h : s.OneGroup c g) : ((s.share c g).filter fun f => !f.muted) = s.share c g :=
  List.filter_eq_self.2 fun f m => by simp [(h.loud f m).1]

theorem State.OneGroup.runs {s : State} {c : Issue} {g : Nat × Nat} (h : s.OneGroup c g) (op : State → Issue → Nat × Nat → List Fibre → Seq) :
    s.issueGroups op = (s.runGroup c op g).1.finish c (s.runGroup c op g).2 := by
  simp [State.issueGroups, h.cur, h.only, State.runGroups]

theorem any_stuck {s : State} {c : Issue} {g : Nat × Nat} (h : s.OneGroup c g) : (s.share c g).any Fibre.stuck = false := by
  simp only [List.any_eq_false]
  intro f m; simp [(h.loud f m).2]

/-- A per-group word that the one group completes: its fibres go on. -/
theorem State.OneGroup.done {s t : State} {c : Issue} {g : Nat × Nat} (h : s.OneGroup c g) {op : State → Issue → Nat × Nat → List Fibre → Seq} (e : op s c g (s.share c g) = .done t) :
    s.issueGroups op = t.groupOn c g := by
  have hs := h.some
  have r : s.runGroup c op g = (t.groupOn c g, ((s.share c g).map Fibre.key).map fun k => (k, .done)) := by
    simp only [State.runGroup, share_unmuted h, hs, any_stuck h, e, if_false]
    simp [State.groupOn]
  rw [h.runs, r]
  have : ((((s.share c g).map Fibre.key).map fun k => (k, Went.done)).all fun x => decide (x.2 = .done)) = true := by simp
  simp [State.finish]

/-- A per-group word that makes the one group wait: its fibres stay, marked, and their entry settles. -/
theorem State.OneGroup.waits {s t : State} {c : Issue} {g : Nat × Nat} (h : s.OneGroup c g) {op : State → Issue → Nat × Nat → List Fibre → Seq} {w : Why} (e : op s c g (s.share c g) = .wait t w) :
    ∃ (u : State) (keep : List FibreKey), s.issueGroups op = u.settle c keep ∧ { u with fibres := t.fibres } = t := by
  have hs := h.some
  have r1 : { (s.runGroup c op g).1 with fibres := t.fibres } = t := by
    simp only [State.runGroup, share_unmuted h, hs, any_stuck h, e, if_false]
    simp
  have r2 : (s.runGroup c op g).2 = (s.share c g).map fun f => (f.key, if f.muted then Went.done else .wait) := by
    simp only [State.runGroup, share_unmuted h, hs, any_stuck h, e, if_false]
    simp
  rw [h.runs]
  obtain ⟨f, m⟩ := List.exists_mem_of_ne_nil _ hs
  have n : ((s.runGroup c op g).2.all fun x => decide (x.2 = .done)) = false := by
    rw [r2, List.all_eq_false]
    exact ⟨(f.key, .wait), List.mem_map.2 ⟨f, m, by simp [(h.loud f m).1]⟩, by simp⟩
  have tr : trapsOf (s.runGroup c op g).2 = [] := by
    rw [r2]; simp only [trapsOf, List.filterMap_map, List.filterMap_eq_nil_iff]
    intro x mx; simp [(h.loud x mx).1]
  simp only [State.finish, n, tr, State.takeTraps_nil]
  exact ⟨_, _, rfl, r1⟩

end Sys2Proof.Machine
end

