-- ==== Sys2Proof/Tests/Slice0.lean ====
section
/-! SUPPORT. Tests of the model's own making: words written from the operation table's bit positions, terms that the well-formedness check refuses, single steps worked out by hand from the manual's rules, and for each statement with premises a state and operands that meet them. -/

namespace Sys2Proof.Tests

set_option Elab.async false

open Sys2Proof Sys2Proof.Machine Sys2Proof.Claims

/-! Words. -/

/-- Each word decodes to the instruction beside it, which is well formed and encodes back to it. -/
def decodes (l : List (Word × Instr)) : Bool := l.all fun x => decide (decode x.1 = some x.2) && decide (encode x.2 = some x.1) && x.2.wellFormed

/-- The same for words of queue programs. -/
def decodesQ (l : List (Word × Instr)) : Bool := l.all fun x => decide (decodeQ x.1 = some x.2) && decide (encodeQ x.2 = some x.1)

/-- The words of `ADD` to `IUN_ZEXTB` in the operation table, fields filled from its bit positions (02 R39 to R45). -/
theorem test_decode_1 : decodes
    [(0x01A30918, .add true false true 12 18 24), (0x02824B6F, .sub true false false 9 22 111), (0x038F4BEC, .mul true false 61 23 108),
     (0x0403F28C, .mulh false false false 15 101 12), (0x0512B5A4, .imad false false false 74 107 36), (0x0646985F, .div false true false 26 48 95),
     (0x070D3FED, .rem false false false 52 127 109), (0x08F7263F, .and true true true 92 76 63), (0x09133F57, .or false false false 76 126 87),
     (0x0AC7B5AA, .xor true true false 30 107 42), (0x0B9F758A, .shl true false 125 107 10), (0x0C767FF4, .shr false true true 89 127 116),
     (0x0D3E480F, .min false false true 121 16 15), (0x0EF8AC05, .max true true true 98 88 5), (0x0FAACE80, .iunMov true true 43 29),
     (0x0F8DE481, .iunNot true false 55 73), (0x0F197202, .iunNeg false false 101 100), (0x0F8AB903, .iunAbs true false 42 114),
     (0x0FA8F704, .iunClz true true 35 110), (0x0FB6F085, .iunCtz true true 91 97), (0x0F055686, .iunPopc false false 21 45),
     (0x0F0EC187, .iunBrev false false 59 3), (0x0F90E408, .iunBswap true false 67 72), (0x0F097589, .iunSextb false 37 107),
     (0x0F94500A, .iunSexth true 81 32), (0x0F1D320B, .iunZextb false 116 100)] = true := by decide +kernel

/-- The words of `IUN_ZEXTH` to `PLOG` in the operation table, fields filled from its bit positions (02 R39 to R45). -/
theorem test_decode_2 : decodes
    [(0x0F99B20C, .iunZexth true 102 100), (0x1063D811, .rot false true true 15 48 17), (0x11472B8D, .bfx false true false 28 87 13),
     (0x12098CDD, .bfi false false 38 25 93), (0x13181340, .lea false false false 96 38 64), (0x14E7CEFC, .leaw true true true 31 29 124),
     (0x15F3CAA4, .addw true true true 79 21 36), (0x1650FD29, .mulw false true 67 122 41), (0x17171286, .shlw false false 92 37 6),
     (0x18B7555B, .shrw true false true 93 42 91), (0x19751CB1, .sel 3 84 57 49), (0x1A799D6A, .addi 490 102 58),
     (0x1B7FAD99, .andi 409 126 91), (0x1C01E3BB, .ori 59 7 71), (0x1DF098C7, .xori 967 66 49),
     (0x1E9CAC97, .shi 2 114 89 23), (0x1F2E0D24, .muli 164 56 26), (0x207E284A, .li 59466 120),
     (0x2175896D, .lih 51565 86), (0x227EC022, .addiw 418 123 0), (0x23BF8A9E, .icmp 11 15 2 21 30),
     (0x24AC7D2D, .icmpi 10 12 1 122 45), (0x259D8B65, .icmpw 9 13 2 22 101), (0x267ECAA8, .fcmp 7 14 3 21 40),
     (0x276543A6, .dcmp 6 5 1 7 38), (0x28E43EC0, .plog 14 4 15 11)] = true := by decide +kernel

/-- The words of `PMOV_TO_LANE` to `FUN_RINT` in the operation table, fields filled from its bit positions (02 R39 to R45). -/
theorem test_decode_3 : decodes
    [(0x29014000, .pmovToLane false false 5 0), (0x29235880, .pmovToPred false false 13 49), (0x2A61E036, .kalu 3 7 64 54),
     (0x2B83CA57, .kaddi 599 15 20), (0x2C869080, .kmovToK true 26 33), (0x2C368E80, .kmovToLane false 90 29),
     (0x2D9AD0A6, .kld 2 107 33 38), (0x2E41382E, .kst 1 4 112 46), (0x30093C9E, .fadd false false false 36 121 30),
     (0x3166C73F, .fmul false true true 27 14 63), (0x32467987, .ffma false true false 25 115 7), (0x336CE373, .fmin false true true 51 70 115),
     (0x348FE100, .funSqrt true 63 66), (0x341C9181, .funRsqrt false 114 35), (0x3487F202, .funRcp true 31 100),
     (0x34940903, .funExp2 true 80 18), (0x341B4904, .funLog2 false 109 18), (0x34134F85, .funSin false 77 31),
     (0x34175206, .funCos false 93 36), (0x3488FB87, .funTanh true 35 119), (0x34063288, .funAbs false 24 101),
     (0x348A5C89, .funNeg true 41 57), (0x341BB38A, .funFloor false 110 103), (0x349AD90B, .funCeil true 107 50),
     (0x34944B8C, .funTrunc true 81 23), (0x34812B0D, .funRint true 4 86)] = true := by decide +kernel

/-- The words of `FUN_CLASS` to `CVT_F32_BF16` in the operation table, fields filled from its bit positions (02 R39 to R45). -/
theorem test_decode_4 : decodes
    [(0x349C020E, .funClass true 112 4), (0x35D2C81C, .fdiv true true 75 16 28), (0x3610E28A, .hadd2 false false false 67 69 10),
     (0x375B2167, .hmul2 false true false 108 66 103), (0x3865A38E, .hfma2 false true true 22 71 14), (0x39510216, .dadd false true false 68 4 22),
     (0x3A84619F, .dmul true false false 17 67 31), (0x3BBAA221, .dfma true false true 106 68 33), (0x3C0F4E00, .dunSqrt false 61 28),
     (0x3C10C601, .dunRsqrt false 67 12), (0x3C0CE782, .dunRcp false 51 79), (0x3C8D2508, .dunAbs true 52 74),
     (0x3C8B6289, .dunNeg true 45 69), (0x3C81200A, .dunFloor true 4 64), (0x3C00C20B, .dunCeil false 3 4),
     (0x3C1E5F0C, .dunTrunc false 121 62), (0x3C86F70D, .dunRint true 27 110), (0x3C99270E, .dunClass true 100 78),
     (0x3D15D923, .ddiv false false 87 50 35), (0x3EC84192, .dmin true true false 33 3 18), (0x3F9B9480, .cvtF32F64 true 110 41 0),
     (0x3F186404, .cvtF64F32 false 97 72), (0x3F22FA89, .cvtF16F32 false true 11 117 1), (0x3F3C800C, .cvtF32F16 false true 114 0),
     (0x3FB52911, .cvtBf16F32 true true 84 82 1), (0x3F2DED94, .cvtF32Bf16 false true 55 91)] = true := by decide +kernel

/-- The words of `CVT_S32_F32` to `RETT_TASKRETRY` in the operation table, fields filled from its bit positions (02 R39 to R45). -/
theorem test_decode_5 : decodes
    [(0x3F002A9B, .cvtS32F32 false 0 85 3), (0x3F1E639D, .cvtU32F32 false 121 71 1), (0x3F004BA2, .cvtF32S32 false 1 23 2),
     (0x3F093324, .cvtF32U32 false 36 102 0), (0x3F81662A, .cvtS32F64 true 5 76 2), (0x3F0553AF, .cvtU32F64 false 21 39 3),
     (0x3F9F9330, .cvtF64S32 true 126 38), (0x3F8945B4, .cvtF64U32 true 37 11), (0x3F88C239, .cvtS64F64 true 35 4 1),
     (0x3F01C53D, .cvtF64S64 false 7 10 1), (0x40A6B073, .cvtn 5 26 96 115), (0x41011F7D, .cvtw 0 4 62 125),
     (0x42200000, .rand true 0), (0x43003A11, .rseed 116 17), (0x441794EC, .bra false 2 496876),
     (0x45802180, .brx true false 67), (0x46F7835D, .call 15 492381), (0x47101A00, .calli 1 52),
     (0x48000000, .ret), (0x49203F00, .wbase false true 126), (0x4AC0F800, .rep 48 1 7 4),
     (0x4B000017, .trap 23), (0x4C000000, .rettResume), (0x4C200000, .rettSkip),
     (0x4C400000, .rettKillfibre), (0x4C600000, .rettTaskretry)] = true := by decide +kernel

/-- The words of `RETT_TASKSKIP` to `AMIN` in the operation table, fields filled from its bit positions (02 R39 to R45). -/
theorem test_decode_6 : decodes
    [(0x4C800000, .rettTaskskip), (0x4CA00000, .rettTaskkill), (0x4D000000, .fend),
     (0x4E04C025, .srd false 19 37), (0x4FC026A2, .swr true true 77 34), (0x509EC7FC, .ldb 2 false 123 15 124),
     (0x51265BFD, .ldh 0 true 25 55 125), (0x52727B77, .ldw 1 true 73 118 119), (0x53A799CF, .ldd 2 true 30 51 79),
     (0x545E424A, .ldq 1 false 121 4 74), (0x55DCE263, .stb 3 false 115 68 99), (0x5644CBA4, .sth 1 false 19 23 36),
     (0x57A8639C, .stw 2 true 33 71 28), (0x589FFE64, .std 2 false 127 124 100), (0x59003EF3, .stq 0 false 0 125 115),
     (0x5A4033CD, .pfetch 1 103 77), (0x5B003558, .cline false 106 88), (0x5C000000, .yield),
     (0x5DC00121, .sleep 98593), (0x5E0000A1, .brk 161), (0x5F000000, .nop),
     (0x603500D6, .aadd 1 84 0 true 86), (0x61C7994A, .aand 6 30 25 false 74), (0x6297C8E3, .aor 4 95 8 true 99),
     (0x6337368C, .axor 1 92 54 true 12), (0x648686A6, .amin 4 26 6 true 38)] = true := by decide +kernel

/-- The words of `AMAX` to `CLASP_WAIT` in the operation table, fields filled from its bit positions (02 R39 to R45). -/
theorem test_decode_7 : decodes
    [(0x657137B0, .amax 3 68 55 true 48), (0x66BB43B4, .axch 5 109 3 true 52), (0x672334A3, .acas 1 12 52 true 35),
     (0x689F062B, .afadd 4 124 6 false 43), (0x69FAAB80, .ald 7 106 43 true), (0x6A8020E7, .ast 4 32 true 103),
     (0x6B000000, .phase), (0x6C320000, .fence 3 2), (0x6D79FC90, .wait 7 9 15 201),
     (0x6E000F2A, .tagSetf 30 42), (0x6E201493, .tagSete 41 19), (0x6E401AFF, .tagCons 53 127),
     (0x6E6E3980, .tagGet 56 115), (0x6E802AF3, .tagPoison 85 115), (0x6FC8D83E, .gbar 6 35 24 62),
     (0x7015CBD1, .fspawn false false 87 23 81), (0x71001EC0, .voteAll 7 11), (0x71402180, .voteAny 8 6),
     (0x71817400, .voteBallot 5 13), (0x71C03340, .voteEq 12 13), (0x72316B0F, .shfl false true 69 86 15),
     (0x73F1EE01, .qswap 3 true 71 92 1), (0x7405E2D8, .gred false 23 69 11), (0x75020380, .claspDecl 1024 7),
     (0x75200600, .claspSign 12), (0x75400600, .claspWait 12)] = true := by decide +kernel

/-- The words of `CLASP_ARRIVE` to `DICTIONARY_WORD` in the operation table, fields filled from its bit positions (02 R39 to R45). -/
theorem test_decode_8 : decodes
    [(0x75600700, .claspArrive 14), (0x759B8480, .claspRead 110 9), (0x76000A09, .wdq 1 521),
     (0x778F1B70, .mma 2 15 0 13 2 28), (0x7800FEEC, .mmc 7 15 1 27), (0x79000000, .maccZero 0),
     (0x7924B203, .maccLd 18 100 3), (0x7941CE80, .maccSt 7 29), (0x7A1C9F80, .taskTq 114 63),
     (0x7A20C000, .taskTrun 3), (0x7A400000, .taskTend), (0x7B0E53A6, .versResolve 57 39 38),
     (0x7B200D80, .versPtile 27), (0x7B5D4A80, .versState 117 21), (0x7C800074, .topk 2 false 29),
     (0x7D000020, .launch 0 8), (0x7D807778, .launchSpec 119 30), (0x7E000480, .tlbi 9),
     (0x7E400000, .tlbiAll), (0xCDC8C07B, .dictionaryWord 622 8 true 515 27)] = true := by decide +kernel

/-- The words of queue programs, `QLI` to `QCANCEL` (21 R492, R493). -/
theorem test_decode_queue : decodesQ
    [(0x013032EA, .qli 3 13034), (0x022099C7, .qlsh 2 39367), (0x036C8592, .qaddi 6 12 34194),
     (0x04700000, .qadd 7 0 0), (0x059E8000, .qsub 9 14 8), (0x06A7F000, .qand 10 7 15),
     (0x07770000, .qor 7 7 0), (0x08D91000, .qxor 13 9 1), (0x0906F000, .qshl 0 6 15),
     (0x0AD28000, .qshr 13 2 8), (0x0B7DB000, .qmul 7 13 11), (0x0C7F1000, .qdivu 7 15 1),
     (0x0DADB000, .qminu 10 13 11), (0x10C0656A, .qldp 12 25962), (0x1100958F, .qstp 0 38287),
     (0x1226D9A7, .qldm 2 6 3 6567), (0x13967B88, .qstm 9 6 1 15240), (0x20007160, .qbr 29024),
     (0x21089701, .qbz 8 38657), (0x2203FDD4, .qbnz 3 64980), (0x23057F85, .qbltu 5 7 3973),
     (0x2400D51C, .qloop 213 28), (0x300400C9, .qwait 4 201), (0x31010000, .qsig 1),
     (0x3260000C, .qtlr 6 12), (0x33040000, .qlayer 4), (0x38000000, .qgo),
     (0x39000000, .qrepeat), (0x3A0000D4, .qcancel 212)] = true := by decide +kernel

/-! Reserved values. -/

/-- One term for each check of `Instr.wellFormed`, holding the reserved value that it refuses. -/
theorem test_ill_formed_terms : ([.icmp 12 0 0 0 0, .icmpi 12 0 0 0 0, .icmpw 15 0 0 0 0, .fcmp 8 0 0 0 0, .dcmp 8 0 0 0 0, .call 0 1, .calli 0 1, .kld 3 0 0 0, .kst 3 0 0 0,
      .ldb 3 true 0 0 0, .ldh 3 true 0 0 0, .ldw 3 true 0 0 0, .ldd 3 true 0 0 0, .ldq 3 true 0 0 0, .pfetch 2 0 0, .fence 0 1, .fence 1 0, .qswap 0 false 0 0 1, .gred false 0 0 12,
      .claspDecl 1025 0, .topk 3 false 0, .topk 0 false 30, .launchSpec 0 31, .mma 3 0 0 0 0 0, .mma 0 0 0 0 3 0, .mma 0 0 0 0 0 29, .mma 1 32 0 0 0 0, .mma 2 16 0 0 0 0,
      .mmc 0 0 3 0, .mmc 0 0 0 29, .maccLd 0 0 2, .maccSt 0 30, .dictionaryWord 0 0 false 1 0, .dictionaryWord 0 0 false 0 1] : List Instr).all (fun i => !i.wellFormed) = true := by decide +kernel

/-- The values beside them, at the ends of their ranges, are admitted. -/
theorem test_well_formed_terms : ([.icmp 11 0 0 0 0, .icmpi 11 0 0 0 0, .icmpw 11 0 0 0 0, .fcmp 7 0 0 0 0, .dcmp 7 0 0 0 0, .call 1 1, .calli 1 1, .kld 2 0 0 0, .kst 2 0 0 0,
      .ldb 3 false 0 0 0, .ldh 2 true 0 0 0, .ldw 2 true 0 0 0, .ldd 2 true 0 0 0, .ldq 2 true 0 0 0, .pfetch 1 0 0, .fence 1 8, .qswap 3 false 0 0 1, .qswap 2 true 0 0 0, .gred false 0 0 11,
      .claspDecl 1024 0, .topk 2 false 29, .launchSpec 0 30, .mma 2 15 0 0 2 28, .mma 1 31 0 0 0 0, .mma 0 63 0 0 0 0, .mmc 0 0 2 28, .maccLd 0 0 3, .maccLd 0 0 0, .maccSt 0 29,
      .dictionaryWord 0 0 false 0 0, .dictionaryWord 0 0 true 1 1] : List Instr).all Instr.wellFormed = true := by decide +kernel

/-- Words that stand for nothing: an unassigned major, a set bit in a zero field, an unassigned function, a reserved field, a queue opcode of no word (R40, R44, R494). -/
theorem test_refused_words : ([0x00000000, 0x7F000000, 0x03200000, 0x0F00000D, 0x23C00000, 0x5F000001] : List Word).all (fun w => (decode w).isNone) = true ∧
    ([0x00000000, 0x38000001, 0xFF000000] : List Word).all (fun w => (decodeQ w).isNone) = true := by decide +kernel

/-! States for single steps: one workgroup of one group on core 0, whose lane 0 is the one fibre. -/

def c0 : Issue := { core := 0, part := 0, entry := 0 }

/-- The state in which the one fibre `f` issues. -/
def at0 (f : Fibre) : State := { State.reset.withFetchWord 32 0 with cur := some c0, agenda := [], fibres := [f] }

/-- Lane 0 with nothing in its registers. -/
def f0 : Fibre := firstFibre 1 0

/-- Lane 0 with registers set. -/
def regs0 (l : List (Nat × Nat)) : Fibre := l.foldl (fun (f : Fibre) x => f.setV x.1 (BitVec.ofNat 32 x.2)) f0

def s0 : State := at0 f0

/-- The state after an instruction. -/
def after (i : Instr) (s : State) : State := match exec i s with
  | .next t => t
  | _ => s

/-- The first fibre of a state. -/
def first (s : State) : Fibre := s.fibres.headD f0

/-- The conditions of `State.Sole`, as a test. -/
def isSole (s : State) (c : Issue) (f : Fibre) : Bool :=
  decide (s.cur = some c) && decide (s.members c = [f]) && s.fibres.all (fun g => decide (g.key ≠ f.key) || decide (g = f)) && decide (f.run = .live) && !f.muted && !f.stuck

theorem sole_of_test {s : State} {c : Issue} {f : Fibre} (h : isSole s c f = true) : s.Sole c f := by
  simp only [isSole, Bool.and_eq_true, decide_eq_true_eq, List.all_eq_true, Bool.or_eq_true, Bool.not_eq_true'] at h
  obtain ⟨⟨⟨⟨⟨h1, h2⟩, h3⟩, h4⟩, h5⟩, h6⟩ := h
  exact ⟨h1, h2, fun g hg hk => (h3 g hg).resolve_left fun n => n hk, h4, h5, h6⟩

/-- The conditions of `State.OneGroup`, as a test. -/
def isOneGroup (s : State) (c : Issue) (g : Nat × Nat) : Bool :=
  decide (s.cur = some c) && decide (s.groupsOf c = [g]) && !(s.share c g).isEmpty && (s.share c g).all fun f => !f.muted && !f.stuck

theorem oneGroup_of_test {s : State} {c : Issue} {g : Nat × Nat} (h : isOneGroup s c g = true) : s.OneGroup c g := by
  simp only [isOneGroup, Bool.and_eq_true, decide_eq_true_eq, List.all_eq_true, Bool.not_eq_true', List.isEmpty_eq_false_iff] at h
  obtain ⟨⟨⟨h1, h2⟩, h3⟩, h4⟩ := h
  exact ⟨h1, h2, h3, h4⟩

/-- Every fibre of the entry meets a test, as a test. -/
theorem each_of_test {s : State} {c : Issue} {p : Fibre → Bool} (h : (s.fibres.all fun f => !f.inEntry c || p f) = true) : s.each c p := by
  intro f hf he
  simpa [he] using List.all_eq_true.mp h f hf

/-- Several tests, each met by every fibre of the entry. -/
theorem eachAll_of_test {s : State} {c : Issue} {ps : List (Fibre → Bool)} (h : (ps.all fun p => s.fibres.all fun f => !f.inEntry c || p f) = true) : ∀ p ∈ ps, s.each c p :=
  fun p hp => each_of_test (List.all_eq_true.mp h p hp)

/-- `Idle`, as a test. -/
def isIdle (s : State) (f : Fibre) : Bool :=
  s.mem.loads.all (fun l => decide (l.fib ≠ f.key)) && s.mem.stores.all (fun l => decide (l.fib ≠ f.key)) && s.mem.atomics.all (fun l => decide (l.fib ≠ f.key)) && s.mem.posts.all fun l => decide (l.fib ≠ f.key)

theorem idle_of_test {s : State} {f : Fibre} (h : isIdle s f = true) : Idle s f := by
  simpa [isIdle, Idle, and_assoc] using h

theorem settled_of_test {s : State} {f : Fibre} (h : (!s.late && isIdle s f) = true) : s.Settled f := by
  simp only [Bool.and_eq_true, Bool.not_eq_true'] at h
  exact ⟨h.1, idle_of_test h.2⟩

/-- `Open`, as a test. -/
def isOpen (s : State) (f : Fibre) (pa : Nat) : Bool := (regionOf pa).cached && !(s.mem.refetch.contains (pa / 1024)) && s.mayAsk f.core && isIdle s f

theorem open_of_test {s : State} {f : Fibre} {pa : Nat} (h : isOpen s f pa = true) : Open s f pa := by
  simp only [isOpen, Bool.and_eq_true, Bool.not_eq_true'] at h
  exact ⟨h.1.1.1, h.1.1.2, h.1.2, idle_of_test h.2⟩

/-- Nothing stands in the L2 or in a tile store. -/
def isBare (s : State) : Bool := s.mem.frames.isEmpty && s.cores.all fun c => c.lines.isEmpty

theorem spacious_of_bare {s : State} (h : isBare s = true) : Spacious s := by
  simp only [isBare, Bool.and_eq_true, List.isEmpty_iff, List.all_eq_true] at h
  refine ⟨fun line => by simp [State.ways, h.1], by simp [h.1], fun a b => ?_⟩
  have z : ∀ i, (s.core i).lines = [] := fun i => by
    unfold State.core
    rw [List.getD_eq_getElem?_getD]
    cases e : s.cores[i]? with
    | none => rfl
    | some k => simpa using h.2 k (List.mem_of_getElem? e)
  have e : ∀ l : List Nat, (l.flatMap fun c => ((s.core c).lines.filter fun l => decide (l.slice = a) && decide (l.set = b)).map fun l => (c, l)) = [] := fun l => by simp [z]
  unfold State.tileWays; rw [e]; decide

/-! What meets the premises of the statements, in their order. -/

/-- IntegerWordsWriteTheirResult: all three fields at their ends. -/
theorem witness_integer_words : s0.cur = some c0 ∧ s0.each c0 (fun f => f.may (127#7).toNat && f.may (0#7).toNat && f.may (126#7).toNat) :=
  ⟨rfl, each_of_test (by decide +kernel)⟩

/-- ImmediateAndPairWords, ComparesAndPredicateWords, FloatArithmeticWords and FloatFunctionsAndConversions: registers at the end, and the last pair. -/
theorem witness_pair_words : s0.cur = some c0 ∧
    ∀ p ∈ ([fun f => f.may (127#7).toNat && f.may (127#7).toNat, fun f => f.mayPair (126#7).toNat && f.mayPair (0#7).toNat, fun f => f.mayPair (126#7).toNat && f.mayPair (2#7).toNat && f.may (127#7).toNat,
      fun f => f.mayPair (126#7).toNat && f.mayPair (124#7).toNat && f.mayPair (0#7).toNat, fun f => f.may (127#7).toNat, fun f => f.may (127#7).toNat && f.mayPair (126#7).toNat] : List (Fibre → Bool)), s0.each c0 p :=
  ⟨rfl, eachAll_of_test (by decide +kernel)⟩

/-- A state whose format slot 0 names FP16. -/
def slots0 : State := { s0 with grids := s0.grids.map fun g => { g with launch := { g.launch with slots := List.replicate 8 0x21 } } }

/-- FloatComparesSlotsAndGenerator: the conversions of slots at the last registers that they may name. -/
theorem witness_slot_words : slots0.cur = some c0 ∧
    slots0.each c0 (fun f => f.may (127#7).toNat && f.may (0#7).toNat && f.may (126#7).toNat && f.may ((126#7).toNat + perRegister (elemOf (slotA ((slots0.launch f.wg).slot 0))).width - 1) && decide (slotA ((slots0.launch f.wg).slot 0) ≠ 0)) ∧
    slots0.each c0 (fun f => f.may (127#7).toNat && f.may (0#7).toNat && f.may (126#7).toNat && f.may ((126#7).toNat + perRegister (elemOf (slotA ((slots0.launch f.wg).slot 7))).width - 1) && decide (slotA ((slots0.launch f.wg).slot 7) ≠ 0)) :=
  ⟨rfl, each_of_test (by decide +kernel), each_of_test (by decide +kernel)⟩

/-- Two lanes live and one helper in the entry. -/
def three : State := { s0 with fibres := [{ f0 with regs := List.replicate 128 5 }, { f0 with lane := 1, home := 1, regs := List.replicate 128 7 }, { f0 with lane := 2, home := 2, run := .helper }] }

/-- CrossLaneWords: each premise, over three fibres of which one is a helper. -/
theorem witness_cross_lane_words : three.cur = some c0 ∧
    ∀ p ∈ ([fun f => f.mayPair (126#7).toNat, fun f => f.may (127#7).toNat && f.may (0#7).toNat && f.may (1#7).toNat,
      fun f => if true then f.mayPair (126#7).toNat && f.mayPair (0#7).toNat else f.may (126#7).toNat && f.may (0#7).toNat,
      fun f => if false then f.mayPair (127#7).toNat && f.mayPair (1#7).toNat else f.may (127#7).toNat && f.may (1#7).toNat] : List (Fibre → Bool)), three.each c0 p :=
  ⟨rfl, eachAll_of_test (by decide +kernel)⟩

/-- GroupReductions: a scan and a reduction, over registers and over pairs; operations 7, 8, 10 and 11. -/
theorem witness_reductions : three.cur = some c0 ∧ ((7#4).toNat ≤ 7 ∧ (0#4).toNat ≤ 7 ∧ 8 ≤ (8#4).toNat ∧ (10#4).toNat ≤ 10 ∧ (11#4 : BitVec 4) = 11) ∧
    ∀ p ∈ ([fun f => f.may (127#7).toNat && f.may (126#7).toNat && decide (gredIn three c0 f true (126#7).toNat ≠ []), fun f => f.may (127#7).toNat && f.may (126#7).toNat && decide (gredIn three c0 f false (126#7).toNat ≠ []),
      fun f => f.mayPair (126#7).toNat && f.mayPair (0#7).toNat && decide (gredIn three c0 f true (0#7).toNat ≠ [])] : List (Fibre → Bool)), three.each c0 p :=
  ⟨rfl, by decide, eachAll_of_test (by decide +kernel)⟩

/-- A state whose fibre runs in its handler. -/
def high0 : State := at0 { f0 with pl := .h }

/-- SpecialRegisterReads: the first register at level U, and the last, 0x1E, at level H. -/
theorem witness_register_reads : s0.cur = some c0 ∧ (0#7) ≠ 0x10#7 ∧ s0.each c0 (fun f => f.may (127#7).toNat && ((srdRows s0 f)[0]?.any fun r => decide (r.1 = (0#7).toNat) && decide (r.2.1.rank ≤ f.pl.rank))) ∧
    high0.each c0 (fun f => f.may (127#7).toNat && ((srdRows high0 f)[29]?.any fun r => decide (r.1 = (0x1E#7).toNat) && decide (r.2.1.rank ≤ f.pl.rank))) :=
  ⟨rfl, by decide, each_of_test (by decide +kernel), each_of_test (by decide +kernel)⟩

/-- GroupRegisterWords: the last k register, and the last pair of the lowest lane. -/
theorem witness_group_words : three.OneGroup c0 (1, 0) ∧ (31#7).toNat < 32 ∧ (0#7).toNat < 32 ∧ ∃ f ∈ three.share c0 (1, 0), (∀ x ∈ three.share c0 (1, 0), x ≠ f → f.lane < x.lane) ∧ f.mayPair (126#7).toNat = true :=
  ⟨oneGroup_of_test (by decide +kernel), by decide, by decide, first three, by decide +kernel⟩

/-- WindowBaseAndPassingTime: the highest base of a window of 128 registers, and a move down by eight from 0. -/
theorem witness_window_base : let s := at0 (regs0 [(127, 120), (3, 0xFFFFFFF8)])
    s.cur = some c0 ∧ (∀ x ∈ s.groups, x.flying = []) ∧
    ∀ p ∈ ([fun f => f.may (127#7).toNat && decide ((f.v (127#7).toNat).toNat % 8 = 0) && decide ((f.v (127#7).toNat).toNat < f.alloc.toNat),
      fun f => f.may (3#7).toNat && decide (((f.wb.toNat : Int) + (f.v (3#7).toNat).toInt) % f.alloc.toNat % 8 = 0) && decide (0 < f.alloc.toNat), fun f => f.may (127#7).toNat] : List (Fibre → Bool)), s.each c0 p :=
  ⟨rfl, by decide +kernel, eachAll_of_test (by decide +kernel)⟩

/-- SpecialRegisterWrites: PWORD at level U, the TRAP registers and WB at level H. -/
theorem witness_register_writes : s0.Sole c0 f0 ∧ f0.may (127#7).toNat = true ∧ (∃ r ∈ swrRows f0 (f0.v (127#7).toNat), r.1 = (0x0C#7).toNat ∧ r.2.1.rank ≤ f0.pl.rank) ∧
    high0.Sole c0 (first high0) ∧ (∃ r ∈ swrRows (first high0) 7, r.1 = (0x1A#7).toNat ∧ r.2.1.rank ≤ (first high0).pl.rank) ∧
    (let f : Fibre := { regs0 [(127, 120)] with pl := .h }
     (at0 f).Sole c0 f ∧ Level.h.rank ≤ f.pl.rank ∧ (f.v (127#7).toNat).toNat % 1024 % 8 = 0 ∧ (f.v (127#7).toNat).toNat % 1024 < f.alloc.toNat) :=
  ⟨sole_of_test (by decide +kernel), by decide +kernel, by decide +kernel, sole_of_test (by decide +kernel), by decide +kernel, sole_of_test (by decide +kernel), by decide +kernel⟩

/-! Memory. -/

/-- A launch with two granules, a cluster of one and classes of no level. -/
def padded (s : State) : State := { s with grids := s.grids.map fun g => { g with launch := { g.launch with gran := 2, accKib := 4, sync := List.replicate 8 0 } } }

/-- The state in which `f` issues, with a scratchpad of two granules whose tags are given. -/
def pad0 (f : Fibre) (tags : List (Nat × TagRec)) : State :=
  let s := padded (at0 f)
  { s with wgs := s.wgs.map fun w => { w with tags := tags } }

/-- A fibre whose pair n holds an address. -/
def aimed (n va : Nat) : Fibre := f0.setPair n (BitVec.ofNat 64 va)

/-- The last 16 bytes of the scratchpad. -/
def padEnd : Nat := ownAperture + 2032

/-- The conditions of `State.Canonical`, as a test. -/
def isCanonical (s : State) : Bool :=
  Memory.wf s.mem.dram && Memory.wf s.ctl && s.mem.frames.all (fun f => Memory.sorted f.cells) && s.cores.all (fun c => c.lines.all fun l => Memory.sorted l.cells) && s.mem.pubs.all (fun p => Memory.sorted p.cells) &&
    s.wgs.all fun w => Memory.wf w.scratch && Memory.wf w.acc

theorem canonical_of_test {s : State} (h : isCanonical s = true) : s.Canonical := by
  simp only [isCanonical, Bool.and_eq_true, List.all_eq_true] at h
  obtain ⟨⟨⟨⟨⟨h1, h2⟩, h3⟩, h4⟩, h5⟩, h6⟩ := h
  exact ⟨h1, h2, h3, h4, h5, h6⟩

theorem roomy_of_no_frames {s : State} (h : s.mem.pubs = [] ∧ s.mem.stamp.toNat + 1 < 2 ^ 64 ∧ s.mem.frames = []) : Roomy s :=
  ⟨h.1, h.2.1, fun line => by simp [State.ways, h.2.2], fun line => by simp [State.committed, h.2.2]⟩

theorem roomToPublish_of_test {s : State} {core : Nat} (h : s.mem.frames = [] ∧ (unpublished s core).length ≤ 16) : RoomToPublish s core := by
  intro line
  have w : s.ways line = [] := by simp [State.ways, h.1]
  rw [w]
  exact Nat.le_trans (by simpa using List.length_filter_le _ _) h.2

/-- ScratchpadLoadsAndStores: quadruples at the last 16 bytes; a granule FULL for the load, EMPTY for the store under .W, and EMPTY for .SF. -/
theorem witness_scratchpad : let f := aimed 126 padEnd
    (pad0 f []).Sole c0 f ∧ (pad0 f []).Canonical ∧
    (dataOk f (124#7).toNat 16 = true ∧ f.mayPair (126#7).toNat = true ∧ (pad0 f []).target f.wg (effAddr f 126 0 16) = .pad 1 2032 ∧ effAddr f 126 0 16 % 16 = 0 ∧
     (Instr.ldq 2 true 124 126 0, 16) ∈ loadRows 2 true 124 126 0 ∧ (pad0 f [(1, { tag := .full })]).tagMeets 1 (2032 / 1024) (s0.fibreVid f) .full = true ∧
     (Instr.stq 3 false 124 126 0, 16) ∈ storeRows 3 false 124 126 0 ∧ (pad0 f []).tagMeets 1 (2032 / 1024) ((pad0 f []).fibreVid f) .empty = true ∧ ((pad0 f []).wg 1).heldWe (2032 / 1024) = false ∧
     (pad0 f []).tagMeets 1 (2032 / 1024) ((pad0 f []).fibreVid f) .free = true ∧ ((pad0 f []).wg? 1).isSome = true) :=
  ⟨sole_of_test (by decide +kernel), canonical_of_test (by decide +kernel), by decide +kernel⟩

/-- The last 16 bytes of the one mapped page. -/
def pageEnd : Nat := 0x1FFF0

/-- A fibre with the address of those bytes in its last pair, in a state that settles accesses at once or leaves them in flight. -/
def glob (late : Bool) : State := { padded (at0 (aimed 126 pageEnd)) with late := late }

/-- GlobalLoads and GlobalStores: the same bytes, at once and in flight, and the state that the translation leaves, in which a poll reads the same. -/
theorem witness_global : ∀ late : Bool, let s := glob late
    let f := aimed 126 pageEnd
    let x := s.translate (s.who f) (BitVec.ofNat 48 (effAddr f 126 0 16)) {}
    let y := s.translate (s.who f) (BitVec.ofNat 48 (effAddr f 126 0 16)) { write := true, read := false }
    let z := (s.demote c0).translate ((s.demote c0).who f) (BitVec.ofNat 48 (effAddr f 126 0 16)) {}
    s.Sole c0 f ∧ (Open x.1 f pageEnd ∧ Spacious x.1) ∧ (Open y.1 f pageEnd ∧ Spacious y.1) ∧ (Open z.1 f pageEnd ∧ Spacious z.1) ∧ y.1.Canonical ∧
    (dataOk f (124#7).toNat 16 = true ∧ f.mayPair (126#7).toNat = true ∧ effAddr f 126 0 16 < 0xFFFF00000000 ∧ effAddr f 126 0 16 % 16 = 0 ∧
     x.2 = .ok pageEnd 0 0 firstLeaf ∧ y.2 = .ok pageEnd 0 0 firstLeaf ∧ z.2 = .ok pageEnd 0 0 firstLeaf ∧
     (∀ w ∈ [x.1, z.1], w.late = late ∧ (w.domain (vidDomain (w.fibreVid f))).effects = [] ∧ ∀ j < 16, w.coreByte f.core 0 f.seen (pageEnd + j) = (List.replicate 16 (0#8))[j]?) ∧
     (∀ j < 16, some (polled z.1 f.core 0 pageEnd (pageEnd + j)) = (List.replicate 16 (0#8))[j]?) ∧
     y.1.buffered 0 pageEnd = false ∧ y.1.noRoom 0 f.core pageEnd = false ∧ y.1.late = late ∧ f.core < y.1.cores.length ∧ y.1.isRoot 0 = true) := by
  intro late
  refine ⟨sole_of_test ?_, ⟨open_of_test ?_, spacious_of_bare ?_⟩, ⟨open_of_test ?_, spacious_of_bare ?_⟩, ⟨open_of_test ?_, spacious_of_bare ?_⟩, canonical_of_test ?_, ?_⟩ <;> revert late <;> decide +kernel

/-- A group whose k registers 30 and 31 hold an address. -/
def kAimed (va : Nat) (s : State) : State := { s with groups := s.groups.map fun g => { g with kregs := (List.replicate 30 0) ++ [BitVec.ofNat 64 va, BitVec.ofNat 64 va] } }

/-- GroupLoadsAndStores: the last eight bytes of the scratchpad, with the lowest offset, and of the page. -/
theorem witness_group_memory :
    (let s := kAimed (ownAperture + 2040 + 512) (pad0 f0 [])
     s.OneGroup c0 (1, 0) ∧ lowest s c0 (1, 0) f0 ∧ (∀ x ∈ s.share c0 (1, 0), Idle s x) ∧ (kEff s (1, 0) 31 (64#7) % 8 = 0 ∧ s.late = false ∧ s.target f0.wg (kEff s (1, 0) 31 (64#7)) = .pad 1 2040 ∧ s.tagMeets 1 (2040 / 1024) (s.fibreVid f0) .free = true)) ∧
    (let s := kAimed (pageEnd + 8) (pad0 f0 [])
     let x := s.translate (s.who f0) (BitVec.ofNat 48 (kEff s (1, 0) 31 0)) {}
     let y := s.translate (s.who f0) (BitVec.ofNat 48 (kEff s (1, 0) 31 0)) { write := true, read := false }
     s.OneGroup c0 (1, 0) ∧ lowest s c0 (1, 0) f0 ∧ (∀ z ∈ s.share c0 (1, 0), Idle s z) ∧ (Open x.1 f0 (pageEnd + 8) ∧ Spacious x.1) ∧ Open y.1 f0 (pageEnd + 8) ∧
     ((31#7).toNat < 32 ∧ kEff s (1, 0) 31 0 % 8 = 0 ∧ kEff s (1, 0) 31 0 < 0xFFFF00000000 ∧ x.2 = .ok (pageEnd + 8) 0 0 firstLeaf ∧ y.2 = .ok (pageEnd + 8) 0 0 firstLeaf ∧
      (∀ e ∈ (x.1.domain (vidDomain (x.1.fibreVid f0))).effects, e.fib ≠ f0.key) ∧ (∀ j < 8, x.1.coreByte f0.core 0 f0.seen (pageEnd + 8 + j) = (List.replicate 8 (0#8))[j]?) ∧
      y.1.buffered 0 (pageEnd + 8) = false ∧ y.1.noRoom 0 f0.core (pageEnd + 8) = false)) := by
  refine ⟨⟨oneGroup_of_test ?_, ?_, ?_, ?_⟩, oneGroup_of_test ?_, ?_, ?_, ⟨open_of_test ?_, spacious_of_bare ?_⟩, open_of_test ?_, ?_⟩ <;> (try unfold lowest) <;> (try unfold Idle) <;> decide +kernel

/-- What the release side of an atomic leaves. -/
def released (s : State) (f : Fibre) (op : AtomicOp) (sc : Byte) : State := if isRelease op sc then (s.releaseSide f (sc.setWidth 5)).1 else s

/-- ScratchpadAtomics: every atomic, in both widths, at the last word of the scratchpad, under a class of no level. -/
theorem witness_scratchpad_atomics : ∀ w : Bool, let f := aimed 126 (ownAperture + (if w then 2040 else 2044))
    (pad0 f []).Sole c0 f ∧ (pad0 f []).Settled f ∧ (pad0 f []).Canonical ∧
    ((pad0 f []).target f.wg ((f.pair (2 * (63#6).toNat)).toNat % 2 ^ 48) = .pad 1 (if w then 2040 else 2044) ∧
     (f.pair (2 * (63#6).toNat)).toNat % 2 ^ 48 % (if w then 8 else 4) = 0 ∧ (((pad0 f []).launch f.wg).syncClass 7).setWidth 5 = 0#5 ∧ ((pad0 f []).wg? 1).isSome = true ∧
     ∀ r ∈ atomicRows 7 124 63 w 122, atomicOk f 124 63 w 122 r.2 = true ∧ before (pad0 f []) f r.2.1 (((pad0 f []).launch f.wg).syncClass 7) (released (pad0 f []) f r.2.1 0)) := by
  intro w
  refine ⟨sole_of_test ?_, settled_of_test ?_, canonical_of_test ?_, ?_⟩ <;> revert w <;> (try simp only [Claims.before]) <;> decide +kernel

/-- GlobalAtomics: every atomic, in both widths, at the last word of the page, for a root with nothing unpublished there. -/
theorem witness_global_atomics : ∀ w : Bool, let pa := pageEnd + (if w then 8 else 12)
    let f := aimed 126 pa
    let s := padded (at0 f)
    s.Sole c0 f ∧ s.Settled f ∧
    ((f.pair (2 * (63#6).toNat)).toNat % 2 ^ 48 < 0xFFFF00000000 ∧ (f.pair (2 * (63#6).toNat)).toNat % 2 ^ 48 % (if w then 8 else 4) = 0 ∧ ((s.launch f.wg).syncClass 7).setWidth 5 = 0#5 ∧
     ∀ r ∈ atomicRows 7 124 63 w 122, atomicOk f 124 63 w 122 r.2 = true ∧
      (let x := s.translate (s.who f) (BitVec.ofNat 48 (f.pair (2 * (63#6).toNat)).toNat) { read := decide (r.2.1 ≠ .st), write := decide (r.2.1 ≠ .ld) }
       let s2 := released x.1 f r.2.1 0
       x.2 = .ok pa 0 0 firstLeaf ∧ isOpen x.1 f pa = true ∧ isBare x.1 = true ∧ x.1.buffered 0 pa = false ∧ x.1.noRoom 0 f.core pa = false ∧ before x.1 f r.2.1 ((s.launch f.wg).syncClass 7) s2 ∧
         isCanonical x.1 = true ∧ x.1.isRoot 0 = true ∧ x.1.mem.pubs = [] ∧ x.1.mem.stamp.toNat + 1 < 2 ^ 64 ∧ x.1.mem.frames = [] ∧ ∀ j < (if w then 8 else 4), x.1.nearByte f.core 0 (pa + j) = none)) := by
  intro w
  refine ⟨sole_of_test ?_, settled_of_test ?_, ?_⟩ <;> revert w <;> (try simp only [Claims.before]) <;> decide +kernel

/-! Order between fibres, control and traps. -/

/-- FencesAndWaits: no fence is waited for and nothing is busy; an engine that is; a WAIT for all tokens that is met, one with a load in flight that is not, and one that awaits a post. -/
theorem witness_fences_and_waits : s0.Sole c0 f0 ∧ (waitMet s0 f0 0 0 0 255 ∧ (∀ o i x, f0.wait.map Wait.why ≠ some (.fence o i x))) ∧
    (enginesBusy s0 f0.wg 15 s0.order s0.ids = false ∧ (∀ p ∈ s0.mem.posts, p.fib ≠ f0.key) ∧ s0.dueFault f0 (decide ((0#4 : BitVec 4) ≠ 15)) 255 = none) ∧
    (let s : State := { s0 with cores := s0.cores.modify 0 fun c => { c with ccmds := [{ n := 7, wg := 1, grp := 0, idx := 0, bytes := [], token := 1, vid := 0, order := 0 }] }, order := 9 }
     s.Sole c0 f0 ∧ enginesBusy s f0.wg 2 s.order s.ids = true) ∧
    (let f : Fibre := { f0 with wait := some { why := .fence 5 6 1, since := 3 } }
     (at0 f).Sole c0 f ∧ f.wait.map Wait.why = some (.fence 5 6 1) ∧ enginesBusy (at0 f) f.wg 2 5 6 = false) ∧
    (let s : State := { s0 with mem := { s0.mem with loads := [{ n := 0, fib := f0.key, core := 0, vid := 0, va := 0, pa := 0, size := 4, dst := .lanes [1], hint := 0, since := 0 }] } }
     s.Sole c0 f0 ∧ s.dueFault f0 (decide ((15#4 : BitVec 4) ≠ 15)) 0 = none ∧ waitMet s f0 1 15 15 0 ∧ ¬ waitMet s f0 0 15 15 0) ∧
    (let s : State := { s0 with mem := { s0.mem with posts := [{ n := 7, fib := f0.key, op := .add, b := 1, expect := 0, sc := 0x40, dst := [7] }] } }
     s.Sole c0 f0 ∧ ∃ p ∈ s.mem.posts, p.fib = f0.key) := by
  refine ⟨sole_of_test ?_, ⟨?_, ?_⟩, ?_, ⟨sole_of_test ?_, ?_⟩, ⟨sole_of_test ?_, ?_⟩, ⟨sole_of_test ?_, ?_⟩, sole_of_test ?_, ?_⟩
  case refine_3 => intro _ _ _ h; cases h
  all_goals (try unfold waitMet); decide +kernel

/-- A state in which core 0 holds a byte of its own at the end of the page. -/
def stored : State := (padded s0).landStore 0 0 pageEnd pageEnd [7] 0

/-- PhasePublishesWhatTheCoreStored: a core with unpublished data, in a state with room. -/
theorem witness_phase : (s0.Sole c0 f0 ∧ s0.Settled f0 ∧ s0.Canonical ∧ Roomy s0 ∧ RoomToPublish s0 f0.core) ∧ (stored.Sole c0 f0 ∧ stored.Settled f0 ∧ stored.Canonical ∧ Roomy stored ∧ RoomToPublish stored f0.core) ∧
    (∀ s ∈ [s0, stored], f0.wait = none ∧ f0.core < s.cores.length ∧ enginesBusy s f0.wg 15 s.order s.ids = false ∧ s.isRoot 0 = true) ∧ stored.nearByte 0 0 pageEnd = some 7 := by
  refine ⟨⟨sole_of_test ?_, settled_of_test ?_, canonical_of_test ?_, roomy_of_no_frames ?_, roomToPublish_of_test ?_⟩, ⟨sole_of_test ?_, settled_of_test ?_, canonical_of_test ?_, roomy_of_no_frames ?_, roomToPublish_of_test ?_⟩, ?_⟩ <;>
    decide +kernel

/-- TagWords: both granules of the scratchpad, EMPTY, FULL, and the second alone FULL. -/
theorem witness_tag_words : let f := aimed 126 (ownAperture + 1023)
    (∀ tags ∈ [[], [(0, ({ tag := .full } : TagRec)), (1, { tag := .full })], [(1, { tag := .full })]],
      isSole (pad0 f tags) c0 f = true ∧ f.mayPair (126#7).toNat = true ∧ (pad0 f tags).target f.wg (pairVa f (126#7).toNat) = .pad 1 1023 ∧ ((pad0 f tags).wg? 1).isSome = true ∧
      (pad0 f tags).target f.wg (pairVa f (126#7).toNat + 1024 * (1#7).toNat) = .pad 1 2047 ∧ f.may (127#7).toNat = true) ∧
    (∀ j ≤ (1#7).toNat, ((pad0 f []).wg 1).tag (1023 / 1024 + j) ≠ .predicted) ∧
    (∀ j ≤ (1#7).toNat, ((pad0 f [(0, { tag := .full }), (1, { tag := .full })]).wg 1).tag (1023 / 1024 + j) = .full) ∧
    (let s := pad0 f [(1, { tag := .full })]
     (s.wg 1).tag (1023 / 1024 + 0) = .empty ∧ ∀ j ≤ (1#7).toNat, (s.wg 1).tag (1023 / 1024 + j) ≠ .poisoned) := by decide +kernel

/-- A fibre at the last word of the scratchpad with a number of arrivals in register 3. -/
def arrives (n : Nat) : Fibre := (aimed 126 (ownAperture + 2044)).setV 3 (BitVec.ofNat 32 n)

/-- BarrierArrivals: a barrier of one, of two and of 65,535, and a waiter that has been released. -/
theorem witness_barriers : (∀ n ∈ [1, 2, 65535], let f := arrives n
      let s := pad0 f []
      isSole s c0 f = true ∧ f.may (127#7).toNat = true ∧ f.may (3#7).toNat = true ∧ f.mayPair (2 * (63#6).toNat) = true ∧ f.gbar = none ∧ (f.v (3#7).toNat).toNat % 65536 ≠ 0 ∧ pairVa f (2 * (63#6).toNat) % 4 = 0 ∧
      s.target f.wg (BitVec.ofNat 48 (pairVa f (2 * (63#6).toNat))).toNat = .pad 1 2044 ∧ s.target f.wg (pairVa f (2 * (63#6).toNat)) = .pad 1 2044 ∧ s.releaseSide f 0 = (s, none) ∧
      (!s.late && isIdle s f && isCanonical s && (s.wg? 1).isSome && s.mem.peers.isEmpty && decide (f.core < s.cores.length)) = true ∧
      (n = 1 → n ≤ ((s.publishCore f.core).gbarRead f.core { place := .pad 1 2044 }).2 % 65536 + 1 ∧ n ≤ leVal (s.padRead 1 2044 4) % 65536 + 1) ∧
      (n ≠ 1 → ((s.publishCore f.core).gbarRead f.core { place := .pad 1 2044 }).2 % 65536 + 1 < n ∧ leVal (s.padRead 1 2044 4) % 65536 + 1 < n)) ∧
    (let f : Fibre := { arrives 2 with gbar := some { va := BitVec.ofNat 48 (ownAperture + 2044), place := .pad 1 2044, gen := 0, old := 0, done := true } }
     (pad0 f []).Sole c0 f ∧ ∃ w, f.gbar = some w ∧ w.va = BitVec.ofNat 48 (pairVa f (2 * (63#6).toNat)) ∧ w.done = true) :=
  ⟨by decide +kernel, sole_of_test (by decide +kernel), _, rfl, by decide +kernel, rfl⟩

/-- The place of those barriers is their word's. -/
theorem witness_barrier_place (s : State) (f : Fibre) (va : VA) (h : s.target f.wg va.toNat = .pad 1 2044) : s.gbarPlace f va = (s, .ok { place := .pad 1 2044 }) := by
  unfold State.gbarPlace; rw [h]

/-- A state whose clasps wait for n signs. -/
def clasp0 (n : Nat) (f : Fibre) : State :=
  let s := padded (at0 f)
  { s with grids := s.grids.map fun g => { g with launch := { g.launch with gran := 8, accKib := 8 } }
           wgs := s.wgs.map fun w => { w with clasps := w.clasps.map fun x => { x with live := false, n := n } } }

/-- The word with which MMA of 64 by 16 signs, its k registers all 0: one K step on operands at the start of the scratchpad. -/
def mmaWord : MSign := { grp := 0, shape := some (64, 16), slot := 0, mode := 0, kd := 0, pc := f0.pc }

/-- ClaspWords: a sign that releases and one that does not, a fibre that has signed, and a matrix word whose release issues a command. -/
theorem witness_claspWords : (∀ n ∈ [1, 2], isSole (clasp0 n f0) c0 f0 = true ∧ f0.wait.map Wait.why ≠ some .clasp ∧ (((clasp0 n f0).wg f0.wg).clasps.getD (15#4).toNat {}).matrix = none ∧
      releases (signedBy (clasp0 n f0) f0 15) f0.wg 15 = decide (n = 1) ∧ ((clasp0 n f0).wg? f0.wg).isSome = true ∧ (15#4).toNat < ((clasp0 n f0).wg f0.wg).clasps.length) ∧
    f0.signed.getLsbD (15#4).toNat = false ∧
    (let f : Fibre := { f0 with signed := 0x8000 }
     (clasp0 2 f).Sole c0 f ∧ f.wait.map Wait.why ≠ some .clasp ∧ f.signed.getLsbD (15#4).toNat = true) ∧
    (∃ t, (releasedIn (signedBy (clasp0 1 f0) f0 15) f0.wg 15).issueMatrix f0.wg mmaWord [f0.key] = some t ∧ (t.core 0).mcmds.length = 1) ∧
    (clasp0 2 f0).OneGroup c0 (1, 0) := by
  refine ⟨by decide +kernel, by decide +kernel, ⟨sole_of_test (by decide +kernel), by decide +kernel, by decide +kernel⟩, ?_, oneGroup_of_test (by decide +kernel)⟩
  have h : ((releasedIn (signedBy (clasp0 1 f0) f0 15) f0.wg 15).issueMatrix f0.wg mmaWord [f0.key]).any (fun t => decide ((t.core 0).mcmds.length = 1)) = true := by decide +kernel
  obtain ⟨t, ht, hp⟩ := (Option.any_eq_true _ _).mp h
  exact ⟨t, ht, of_decide_eq_true hp⟩

/-- Branches: a pair with an even address, in two live fibres and beside a helper whose pair is odd. -/
theorem witness_branches : let s : State := { three with fibres := three.fibres.map fun f => if f.run = .live then f.setPair 126 0x10008 else f.setPair 126 1 }
    s.cur = some c0 ∧ s.each c0 (fun f => decide (f.run ≠ .live) || (f.mayPair (126#7).toNat && decide ((f.pair (126#7).toNat).toNat % 2 = 0))) :=
  ⟨rfl, each_of_test (by decide +kernel)⟩

/-- A fibre of 248 registers whose link holds a slide of eight and the address 0x10010. -/
def linked : Fibre := ({ f0 with alloc := 248, regs := List.replicate 248 0, outer := 8, wb := 8, rstk := 0x11000 }.setV 126 0x10010).setV 127 0x10000

/-- CallsAndReturns: the longest slide that needs no spill, and a return of the whole slide. -/
theorem witness_calls : (at0 linked).Sole c0 linked ∧ 128 ≤ linked.alloc.toNat ∧ linked.outer + 8 * (14#4).toNat + 128 ≤ linked.alloc.toNat ∧ linked.mayPair (126#7).toNat = true ∧ (linked.pair (124#7).toNat).toNat % 2 = 0 ∧
    (let n : Nat := 8 * ((linked.v 127).toNat / 2 ^ 16 % 16)
     let ret := (linked.v 127).toNat % 2 ^ 16 * 2 ^ 32 + (linked.v 126).toNat
     n ≠ 0 ∧ n ≤ linked.outer ∧ ret % 2 = 0) :=
  ⟨sole_of_test (by decide +kernel), by decide +kernel⟩

/-- A fibre of 128 registers with a register stack in the page, and one whose return needs a fill. -/
def stacked (outer : Nat) : Fibre := ({ f0 with outer := outer, rstk := 0x11000 }.setV 126 0x10010).setV 127 0x10000

/-- SpillsAndFills: a call that spills one block, and a return that fills one. -/
theorem witness_spills : (at0 (stacked 0)).Sole c0 (stacked 0) ∧ 128 ≤ (stacked 0).alloc.toNat ∧
    (match (at0 (stacked 0)).spill 16 { stacked 0 with wb := BitVec.ofNat 10 (((stacked 0).wb.toNat + 8 * (1#4).toNat) % (stacked 0).alloc.toNat), outer := (stacked 0).outer + 8 * (1#4).toNat } (nextOf c0 (stacked 0)) with
     | (.done u, x) => decide (x.rstk ≠ (stacked 0).rstk) && u.fibres.any (fun y => decide (y.key = f0.key)) && u.fibres.all fun y => decide (y.key = f0.key → { y with gbar := (stacked 0).gbar, seen := (stacked 0).seen } = stacked 0)
     | _ => false) = true ∧
    (let n : Nat := 8 * (((stacked 0).v 127).toNat / 2 ^ 16 % 16)
     let ret := ((stacked 0).v 127).toNat % 2 ^ 16 * 2 ^ 32 + ((stacked 0).v 126).toNat
     n ≠ 0 ∧ ret % 2 = 0 ∧
     (match (at0 (stacked 0)).fillBack 16 { stacked 0 with wb := BitVec.ofInt 10 ((((stacked 0).wb.toNat : Int) - n) % (stacked 0).alloc.toNat) } (((stacked 0).outer : Int) - n) with
      | (u, .bytes _, x) => decide (x.rstk ≠ (stacked 0).rstk) && u.fibres.any (fun y => decide (y.key = f0.key)) && u.fibres.all fun y => decide (y.key = f0.key → { y with gbar := (stacked 0).gbar, seen := (stacked 0).seen } = stacked 0)
      | _ => false) = true) :=
  ⟨sole_of_test (by decide +kernel), by decide +kernel, by decide +kernel, by decide +kernel⟩

/-- A fibre whose register stack stands in the scratchpad, 1,024 bytes from its start. -/
def padStacked : Fibre := { stacked 0 with rstk := BitVec.ofNat 48 (ownAperture + 1024) }

/-- SpillsAndFills: the one block of a call and of a return at a scratchpad address. -/
theorem witness_pad_spills : (pad0 padStacked []).Sole c0 padStacked ∧ (pad0 padStacked []).Canonical ∧ (let f := padStacked
    128 ≤ f.alloc.toNat ∧ f.alloc.toNat < f.outer + 8 * (1#4).toNat + 128 ∧ f.outer + 8 * (1#4).toNat + 120 ≤ f.alloc.toNat ∧ f.rstk.toNat % 4 = 0 ∧
      (∀ j < 8, (pad0 f []).target f.wg ((f.rstk.toNat + 4 * j) % 2 ^ 48) = .pad 1 (1024 + 4 * j)) ∧ f.mayPair (124#7).toNat = true ∧ ((pad0 f []).wg? 1).isSome = true ∧
      linkSlide f ≠ 0 ∧ f.outer < linkSlide f ∧ linkSlide f ≤ f.outer + 8 ∧ linkPc f % 2 = 0 ∧ (pad0 f []).target f.wg ((f.rstk.toNat + 2 ^ 48 - 32) % 2 ^ 48) = .pad 1 992) :=
  ⟨sole_of_test (by decide +kernel), canonical_of_test (by decide +kernel), by decide +kernel⟩

/-- A state with a word at the parcel after the first. -/
def withNext (f : Fibre) (w : Nat) : State :=
  let s := at0 f
  { s with mem := { s.mem with dram := Memory.writeN s.mem.dram 0x10004 (leBytes 4 w) } }

/-- Repeats: a word of an operation that may repeat; counts of 1 and of 127. -/
theorem witness_repeats : (withNext f0 0x01000000).Sole c0 f0 ∧ c0.form = .full ∧ f0.pl ≠ .h ∧
    (match ((withNext f0 0x01000000).fetchAt f0 f0.pl (f0.pc + 4)).2 with | .ok w => decide (w = 0x01000000) && repMajor w | .error _ => false) = true ∧
    (let c : Issue := { c0 with repeating := true }
     c.repeating = true ∧ ({ f0 with rep := 1 } : Fibre).rep.toNat % 128 ≠ 0 ∧ ({ f0 with rep := 127 } : Fibre).rep.toNat % 128 ≠ 0) :=
  ⟨sole_of_test (by decide +kernel), rfl, by decide, by decide +kernel, by decide⟩

/-- FibreEnds: a fibre at level U, beside one of another lane. -/
theorem witness_fibre_end : let s : State := { s0 with fibres := [f0, { f0 with lane := 7, seat := .entry 1 }] }
    s.Sole c0 f0 ∧ f0.pl = .u ∧ s.dueFault f0 true 255 = none ∧ ∃ g ∈ s.fibres, g.run = .live ∧ g.key ≠ f0.key :=
  ⟨sole_of_test (by decide +kernel), rfl, by decide +kernel, ⟨{ f0 with lane := 7, seat := .entry 1 }, by decide +kernel⟩⟩

theorem mayTrap_of_test {s : State} {f : Fibre} (h : (decide (f.pl = .u) && decide ((s.launch f.wg).traph ≠ 0) && (!s.late && isIdle s f) && decide (s.owedLds f = []) && decide (f.gbar = none)) = true) :
    MayTrap s f := by
  obtain ⟨⟨⟨⟨h1, h2⟩, h3⟩, h4⟩, h5⟩ := by simpa only [Bool.and_eq_true, decide_eq_true_eq] using h
  exact ⟨h1, h2, settled_of_test (by simpa using h3), h4, h5⟩

/-- TrapsEnterTheHandler: a fibre that may trap, in a state with room; one at level H; one without a handler. -/
theorem witness_traps : s0.Sole c0 f0 ∧ MayTrap s0 f0 ∧ s0.Canonical ∧ Roomy s0 ∧ (high0.Sole c0 (first high0) ∧ (first high0).pl = .h) ∧
    (let s : State := { s0 with grids := s0.grids.map fun g => { g with launch := { g.launch with traph := 0 } } }
     s.Sole c0 f0 ∧ f0.pl = .u ∧ (s.launch f0.wg).traph = 0) := by
  refine ⟨sole_of_test ?_, mayTrap_of_test ?_, canonical_of_test ?_, roomy_of_no_frames ?_, ⟨sole_of_test ?_, ?_⟩, sole_of_test ?_, ?_⟩ <;> decide +kernel

/-- A fibre of 32 registers. -/
def short0 : Fibre := { f0 with alloc := 32, regs := List.replicate 32 0 }

/-- DefectsEnterTheHandler: a register past the allocation, an odd pair, the first and last numbers of each range, and accesses of each size at the first byte that is not aligned. -/
theorem witness_defects : ((at0 short0).Sole c0 short0 ∧ MayTrap (at0 short0) short0) ∧ (let f := aimed 126 (pageEnd + 1)
     (at0 f).Sole c0 f ∧ MayTrap (at0 f) f) ∧ (short0.may (32#7).toNat && short0.may (0#7).toNat && short0.may (0#7).toNat) = false ∧
    (f0.mayPair (1#7).toNat && f0.mayPair (0#7).toNat && f0.mayPair (0#7).toNat) = false ∧
    (∀ b ∈ [0x1F#7, 0x7F#7], 0x1F ≤ b.toNat) ∧ (∀ b ∈ [0x14#7, 0x1A#7, 0x1E#7], (0x14 ≤ b.toNat ∧ b.toNat ≤ 0x1A) ∨ b.toNat = 0x1E) ∧ (∀ b ∈ [0x0B#7, 0x11#7, 0x1A#7], b.toNat = 0x0B ∨ (0x11 ≤ b.toNat ∧ b.toNat ≤ 0x1A)) ∧
    (let f := aimed 126 (pageEnd + 1)
     (Instr.stb 3 false 124 126 0, 1) ∈ storeRows 3 false 124 126 0 ∧ ∀ q ∈ [(Instr.ldh 0 false 124 126 0, 2), (.ldw 0 false 124 126 0, 4), (.ldd 0 false 124 126 0, 8), (.ldq 0 false 124 126 0, 16), (.sth 0 false 124 126 0, 2), (.stq 0 false 124 126 0, 16)],
       q ∈ loadRows 0 false 124 126 0 ++ storeRows 0 false 124 126 0 ∧ dataOk f (124#7).toNat q.2 = true ∧ f.mayPair (126#7).toNat = true ∧ effAddr f 126 0 q.2 < 0xFFFF00000000 ∧ effAddr f 126 0 q.2 % q.2 ≠ 0) :=
  ⟨⟨sole_of_test (by decide +kernel), mayTrap_of_test (by decide +kernel)⟩, ⟨sole_of_test (by decide +kernel), mayTrap_of_test (by decide +kernel)⟩, by decide +kernel⟩

/-- A fibre in its handler, that came from the start of the page, with a repeat count. -/
def handler (rep : BitVec 32) : Fibre := { f0 with pl := .h, rep := rep, trap := { pcLo := 0x10000 } }

/-- A task that runs, by its index. -/
def task3 : Task := { index := 3, wg := 1, key := .pad 1 0, record := List.replicate 64 0, state := .running, count := 0, order := 0 }

/-- A state in which the group of the fibre runs a task. -/
def tasked (f : Fibre) (k : Task) : State :=
  let s := padded (at0 f)
  { s with cores := s.cores.modify 0 (fun c => { c with tasks := [k] }), groups := s.groups.map fun g => { g with task := some k.index } }

/-- A task whose successor's record stands at the second 64 bytes of its own scratchpad. -/
def taskS : Task := { task3 with record := (((List.replicate 64 0).set 24 64).set 28 0xFF).set 29 0xFF }

/-- A task that runs in a predicted version, and the state that holds it. -/
def taskP : Task := { task3 with pred := some 0x41 }

def predicted : State := { tasked (handler 0) taskP with versions := [{ vid := 0x41, state := .live, parent := 0, pred := true }] }

/-- ReturnsFromTheHandler: a handler with no repeat, with one and with more iterations left, and its word. -/
theorem witness_returns : (∀ n ∈ [0, 1, 2, 127], let f := handler (BitVec.ofNat 32 n)
      isSole (at0 f) c0 f = true ∧ f.pl = .h ∧ f.gbar = none ∧ trapPcOf f % 2 = 0 ∧ f.wait = none ∧ f.rep.toNat % 128 = n) ∧
    (match (((at0 (handler 0)).publishCore 0).fetchAt (handler 0) .h (BitVec.ofNat 48 (trapPcOf (handler 0) / 4 * 4))).2 with | .ok w => decide (w = 0) | .error _ => false) = true :=
  ⟨by decide +kernel, by decide +kernel⟩

/-- ReturnsFromTheHandler: a task without a successor, one with a successor in its workgroup, and one that a version predicts. -/
theorem witness_task_returns : isSole (tasked (handler 0) task3) c0 (handler 0) = true ∧ ((tasked (handler 0) task3).publishCore 0).currentTask 1 0 = some task3 ∧ task3.pred = none ∧ task3.succ = 0 ∧
    isSole (tasked (handler 0) taskS) c0 (handler 0) = true ∧ ((tasked (handler 0) taskS).publishCore 0).currentTask 1 0 = some taskS ∧ taskS.pred = none ∧ taskS.succ ≠ 0 ∧
    (match ((tasked (handler 0) taskS).publishCore 0).decrement (handler 0) taskS.succ with | (u1, .bytes _, _) => decide (u1.fibres = ((tasked (handler 0) taskS).publishCore 0).fibres) | _ => false) = true ∧
    isSole predicted c0 (handler 0) = true ∧ (predicted.publishCore 0).currentTask 1 0 = some taskP ∧ taskP.pred = some 0x41 ∧ (predicted.publishCore 0).isPred 0x41 = true := by decide +kernel

theorem witness_returns_settled : (tasked (handler 0) task3).Settled (handler 0) ∧ (tasked (handler 0) taskS).Settled (handler 0) ∧ predicted.Settled (handler 0) ∧ (at0 (handler 1)).Settled (handler 1) := by
  unfold State.Settled; decide +kernel

/-! Tasks, requests, versions and parcels. -/

/-- A core full of tasks. -/
def full : List Task := (List.range 256).map fun i => { task3 with index := i }

/-- TaskEnqueues: a record of zeros at the start of the scratchpad, with a free entry and with none; and the conclusion's clause for a record in memory. -/
theorem witness_task_enqueues : let f := aimed 126 ownAperture
    let s := pad0 f []
    isSole s c0 f = true ∧ f.may (127#7).toNat = true ∧ f.mayPair (126#7).toNat = true ∧ pairVa f (126#7).toNat % 64 = 0 ∧
    (match s.readRecord f (BitVec.ofNat 48 (pairVa f (126#7).toNat)) 64 with
     | (s1, .bytes bs) => decide (bs.length = 64) && (match s1.taskKey f (BitVec.ofNat 48 (pairVa f (126#7).toNat)) with
       | (s2, .ok key) => decide (key = .pad 1 0) && recordOk (taskRecord s2 f key bs).2 ((taskRecord s2 f key bs).1.launch f.wg) && decide (((taskRecord s2 f key bs).1.core f.core).freeTaskIndex = some 0)
       | _ => false)
     | _ => false) = true ∧
    (({ s with cores := s.cores.modify 0 fun c => { c with tasks := full } } : State).core 0).freeTaskIndex = none := by decide +kernel

/-- A state whose core holds tasks of the one workgroup. -/
def queued (l : List Task) : State :=
  let s := padded (at0 f0)
  { s with cores := s.cores.modify 0 fun c => { c with tasks := l } }

/-- TasksRun: an entry that may start; only entries to verify; an entry whose input is not there. -/
theorem witness_tasks_run : (∀ l ∈ [[{ task3 with state := .tiles }], [{ task3 with state := .verify }], [{ task3 with state := .counting, count := 1 }], []],
      isOneGroup (queued l) c0 (1, 0) = true ∧ (queued l).wholeGroup (1, 0) ((queued l).share c0 (1, 0)) = true ∧ ((queued l).group 1 0).task = none) ∧
    (let mine (l : List Task) := ((queued l).core ((queued l).wg 1).core).tasks.filter fun k => decide (k.wg = 1)
     let fits (l : List Task) := (mine l).filter fun k => decide (k.width = ((queued l).launch 1).shape.toNat % 4)
     pickTask ((fits [{ task3 with state := .tiles }]).filter (queued [{ task3 with state := .tiles }]).eligible) = some { task3 with state := .tiles } ∧
     (∀ l ∈ [[{ task3 with state := .verify }], [], [{ task3 with state := .counting, count := 1 }]], pickTask ((fits l).filter (queued l).eligible) = none ∧ ∀ k ∈ fits l, (queued l).predictable k = none) ∧
     (∀ l ∈ [[{ task3 with state := .verify }], []], ∀ k ∈ mine l, k.state = .verify) ∧ ∃ k ∈ mine [{ task3 with state := .counting, count := 1 }], k.state ≠ .verify) ∧
    task3.record.length = 64 ∧ (∃ x ∈ (queued []).groups, x.is 1 0 = true) ∧ task3.wg = 1 ∧ ((queued []).wg? 1).isSome = true ∧ ((queued []).group 1 0).kregs.length = 32 := by decide +kernel

/-- TaskEnds: a task without a successor, one with a count of 1 in its successor, and one that a version predicts. -/
theorem witness_task_ends : (∀ k ∈ [task3, taskS, taskP], let s : State := { tasked f0 k with versions := [{ vid := 0x41, state := .live, parent := 0, pred := true }] }
      isOneGroup s c0 (1, 0) = true ∧ s.wholeGroup (1, 0) (s.share c0 (1, 0)) = true ∧ f0 ∈ s.share c0 (1, 0) ∧ (∀ x ∈ s.share c0 (1, 0), x = f0) ∧ (∀ x ∈ s.members c0, x.muted = false) ∧ s.currentTask 1 0 = some k ∧
        (s.boundaryFor c0.core (s.share c0 (1, 0))).isPred 0x41 = true) ∧
    task3.pred = none ∧ task3.succ = 0 ∧ taskS.pred = none ∧ taskS.succ ≠ 0 ∧ taskP.pred = some 0x41 ∧
    (let s := tasked f0 taskS
     let s : State := { s with wgs := s.wgs.map fun w => { w with scratch := [(96, 1)] } }
     (!s.late && isIdle s f0) = true ∧ s.target f0.wg (taskS.succ % 2 ^ 48) = .pad 1 64 ∧ (∀ y ∈ (s.core f0.core).tasks, y.key ≠ .pad 1 64) ∧ s.target f0.wg ((taskS.succ + 32) % 2 ^ 48) = .pad 1 96 ∧ leVal (s.padRead 1 96 4) ≠ 0 ∧
     (match (s.boundaryFor c0.core (s.share c0 (1, 0))).decrement f0 taskS.succ with | (_, .bytes _, z) => !z | _ => false) = true) ∧
    (let x : Task := { task3 with index := 5, key := .pad 1 64, state := .counting, count := 1 }
     let s := { tasked f0 taskS with cores := (tasked f0 taskS).cores.modify 0 fun c => { c with tasks := [taskS, x] } }
     s.currentTask 1 0 = some taskS ∧ x ∈ (s.core f0.core).tasks ∧ x.count ≠ 0 ∧ ∀ y ∈ (s.core f0.core).tasks, y.key = .pad 1 64 → y = x) := by decide +kernel

/-- FibreSpawns: an even entry, a group with vacant lanes and one without. -/
theorem witness_spawns : let f := aimed 126 0x10000
    (let s : State := { at0 f with fibres := f :: (List.range 7).map (fun i => firstFibre 1 (i + 1)) }
     isSole s c0 f = true ∧ f.pl = .u ∧ f.may (127#7).toNat = true ∧ f.mayPair (126#7).toNat = true ∧ s.fibreVid f = (s.launch f.wg).version ∧ (f.pair (126#7).toNat).toNat % 2 = 0 ∧ (∀ x ∈ s.fibres, 8 ≤ x.alloc.toNat) ∧ s.vacant f.wg f.grp ≠ []) ∧
    (let s : State := { at0 f with fibres := f :: (List.range 7).map fun i => { f with lane := i + 1, seat := .entry 1 } }
     isSole s c0 f = true ∧ s.vacant f.wg f.grp = [] ∧ s.fibreVid f = (s.launch f.wg).version ∧ ∀ x ∈ s.fibres, 8 ≤ x.alloc.toNat) := by decide +kernel

/-- k registers of the group from 28 on. -/
def kRegs (l : List Nat) (s : State) : State := { s with groups := s.groups.map fun g => { g with kregs := List.replicate 28 0 ++ (l ++ List.replicate (4 - l.length) 0).map (BitVec.ofNat 64) } }

/-- A launch record that the dispatcher takes: one workgroup of one fibre group, 16 registers, FP32 slots. -/
def image : List Byte := List.replicate 24 0 ++ [1, 0, 1, 0, 1, 0, 0, 0, 16, 0] ++ List.replicate 14 0 ++ (List.replicate 8 ([0x21, 0, 0, 0] : List Byte)).flatten ++ List.replicate 176 0

/-- A state in which queue 5 is enabled, its device FIFO may hold two images, and a record stands at the start of the scratchpad. -/
def fifo (s : State) : State :=
  let t := (s.setQen 5 true).setCtl (qDesc 5 + 9) 1 1
  { t with wgs := t.wgs.map fun w => { w with scratch := Memory.writeN [] 0 image } }

/-- GroupRequests, what a group asks for: the last word and the last eight bytes of the scratchpad, and an image for queue 5. -/
theorem witness_requests : (let s := kRegs [0, 0, 0, ownAperture + 4] (pad0 f0 [])
      let ea := (kOf s (1, 0) (31#5).toNat).toNat % 2 ^ 48 + 4 * (510#11).toNat
      isOneGroup s c0 (1, 0) = true ∧ f0 ∈ s.share c0 (1, 0) ∧ (∀ x ∈ s.share c0 (1, 0), x = f0) ∧ s.carries 1 0 = (s.launch 1).version ∧ ownAperture ≤ ea ∧ ea < ownAperture + (s.launch 1).padBytes ∧ ea % 4 = 0 ∧ ea = ownAperture + 2044) ∧
    (let s := kRegs [0, ownAperture, ownAperture + 2040, 2 ^ 32 + 512] (pad0 f0 [])
     let src := (kOf s (1, 0) (29#5).toNat).toNat
     let dst := (kOf s (1, 0) ((29#5).toNat + 1)).toNat
     let n := (kOf s (1, 0) ((29#5).toNat + 2)).toNat % 2 ^ 32
     let m := (kOf s (1, 0) ((29#5).toNat + 2)).toNat / 2 ^ 32
     isOneGroup s c0 (1, 0) = true ∧ 1 ≤ m ∧ m ≤ 1024 ∧ 1 ≤ n ∧ n ≤ 65536 ∧ ownAperture ≤ src ∧ src + 4 * n ≤ ownAperture + (s.launch 1).padBytes ∧ ownAperture ≤ dst ∧ dst + 8 * m ≤ ownAperture + (s.launch 1).padBytes ∧
       src < 2 ^ 48 ∧ dst < 2 ^ 48 ∧ src % 4 = 0 ∧ dst % 8 = 0) ∧
    (let s := fifo (kRegs [0, 0, ownAperture, 0x41] (pad0 f0 []))
     let x := (kOf s (1, 0) ((30#5).toNat + 1)).toNat
     let at_ := (kOf s (1, 0) (30#5).toNat).toNat % 2 ^ 48
     isOneGroup s c0 (1, 0) = true ∧ f0 ∈ s.share c0 (1, 0) ∧ f0.wait = none ∧ s.carries 1 0 = (s.launch 1).version ∧ s.isRoot (s.carries 1 0) = true ∧ s.qEnabled 5 = true ∧ s.queueWorld 5 = s.coreWorld c0.core ∧
       x / 2 ^ 26 = 0 ∧ x / 2 ^ 10 % 2 ^ 6 = 0 ∧ at_ % 64 = 0 ∧
       (match (((s.share c0 (1, 0)).foldl (fun (t : State) y => t.drainFibre y.key) s).publishCore c0.core).readRecord f0 (BitVec.ofNat 48 at_) 256 with
        | (u, .bytes bs) => decide (bs = image) && !u.late && u.fifoRoom 5 && u.mem.appends.isEmpty
        | _ => false) = true) := by decide +kernel

/-- A grid of one workgroup, whose distributor counts over 3 by 2 tiles. -/
def counted (dist : Nat) : State :=
  let s := pad0 f0 []
  { s with arg := .num 7, grids := s.grids.map fun g => { g with dist := dist, launch := { g.launch with wdist := 0x20003 } } }

/-- GroupRequests, how the requests end: a distributor within its tiles, past them and at the top of its count; an answer for an EMPTY granule; TOPK over two keys; and an image whose FIFO has room. -/
theorem witness_request_ends : (∀ n ∈ [0, 5, 6, 2 ^ 32 - 1], let s : State := { counted n with mem := { (counted n).mem with wdq := [{ n := 7, wg := 1, grid := 2, off := 2044, fibs := [f0.key] }] } }
      (s.mem.wdq.find? fun x => decide (x.n = 7)) = some { n := 7, wg := 1, grid := 2, off := 2044, fibs := [f0.key] } ∧ (s.grid? 2).isSome = true ∧ (s.grid 2).dist = n ∧ ∀ x ∈ s.mem.wdq, x.answer = none → x.grid = 2 → x.asked = 0 → 7 ≤ x.n) ∧
    (let s : State := { counted 0 with mem := { (counted 0).mem with wdq := [{ n := 7, wg := 1, grid := 2, off := 2044, answer := some 5, fibs := [f0.key] }] } }
     (s.mem.wdq.find? fun x => decide (x.n = 7)) = some { n := 7, wg := 1, grid := 2, off := 2044, answer := some 5, fibs := [f0.key] } ∧ s.turnOf (.answer 7) = true) ∧
    (let s : State := { counted 0 with mem := { (counted 0).mem with topk := [{ n := 7, wg := 1, src := 0, dst := 2040, k := 1, cnt := 2, ty := 0, sf := false, vid := 0, fibs := [f0.key] }] } }
     (s.mem.topk.find? fun x => decide (x.n = 7)).map TopkOp.sf = some false ∧ (granulesOf 2040 8).all (fun g => s.tagMeets 1 g 0 .free) = true) ∧
    (let s : State := { counted 0 with mem := { (counted 0).mem with topk := [{ n := 7, wg := 1, src := 0, dst := 2040, k := 1, cnt := 2, ty := 0, sf := true, vid := 0, fibs := [f0.key] }] } }
     (s.mem.topk.find? fun x => decide (x.n = 7)).map TopkOp.sf = some true) ∧
    (let a : Append := { n := 7, wg := 1, grp := 0, fibs := [f0.key], queue := 5, image := image, k1 := 0 }
     let s : State := { fifo (counted 0) with mem := { (counted 0).mem with appends := [a] }, arg := .num 7 }
     (s.mem.appends.find? fun x => decide (x.n = 7)) = some a ∧ s.fifoRoom 5 = true ∧ ∀ b ∈ s.mem.appends, b.queue = a.queue → b.wg = a.wg → b.grp = a.grp → 7 ≤ b.n) := by decide +kernel

/-- AccumulatorWords: ranges that end at the end of the accumulators and of the scratchpad. -/
theorem witness_accumulator_words : (let s := kRegs [0, 0, 0, 3] (pad0 f0 [])
      let x := (kOf s (1, 0) (31#5).toNat).toNat
      isOneGroup s c0 (1, 0) = true ∧ x / 2 ^ 26 = 0 ∧ x / 2 ^ 10 % 2 ^ 6 = 0 ∧ x % 2 ^ 10 + (x / 2 ^ 16 % 2 ^ 10 + 1) ≤ (s.launch 1).accKib.toNat ∧ (s.wg 1).core < s.cores.length ∧ (s.core (s.wg 1).core).mcmds = [] ∧ isCanonical s = true) ∧
    (let f := f0.setV 127 4080
     let s := pad0 f []
     let m := (3#7).toNat + 1
     isSole s c0 f = true ∧ f.may (124#7).toNat = true ∧ f.may ((124#7).toNat + (3#7).toNat) = true ∧ f.may (127#7).toNat = true ∧ (124#7).toNat % m = 0 ∧ (f.v (127#7).toNat).toNat + 4 * m ≤ (s.launch f.wg).accBytes ∧ (f.v (127#7).toNat).toNat % (4 * m) = 0 ∧ (s.wg 1).core < s.cores.length ∧ (s.core (s.wg 1).core).mcmds = []) ∧
    (let s := kRegs [0, 0x0F0F0F00, 0, 64] (pad0 f0 [])
     let w := (s.launch 1).slot 0
     let r := stReq (kOf s (1, 0) (29#5).toNat).toNat (kOf s (1, 0) ((29#5).toNat + 1)).toNat (kOf s (1, 0) ((29#5).toNat + 2)).toNat
     let ob := packedBytes (elemOf (slotA w)).width r.cols
     let len := accSize w * r.accn * r.rows
     isOneGroup s c0 (1, 0) = true ∧ f0 ∈ s.share c0 (1, 0) ∧ (∀ x ∈ s.share c0 (1, 0), x = f0) ∧ r.zero = false ∧ r.cols ≤ r.accn ∧ ob ≤ r.pitch ∧ (∀ y ∈ r.rank, y < (s.launch 1).cluster) ∧ 1024 * r.acct + len ≤ (s.launch 1).accBytes ∧
       r.dst + r.pitch * (r.rows - 1) + ob ≤ (s.launch 1).padBytes) := by decide +kernel

/-- A state with a domain of one root and one version, of a fibre that names it in register 2 and one accepted of two proposed in register 3. -/
def versioned (v : Nat) (l : List Version) : State := { pad0 ((f0.setV 2 (BitVec.ofNat 32 v)).setV 3 0x20001) [] with versions := l }

/-- VersionWords: a version that is not LIVE, a predicted one, one that is LIVE and the root itself; and a descriptor of one granule. -/
theorem witness_version_words : (versioned 0 []).cur = some c0 ∧ (∀ v ∈ [0x41, 0x42, 0x43, 0], let s := versioned v [{ vid := 0x41, state := .squashed, parent := 0 }, { vid := 0x42, state := .live, parent := 0, pred := true }, { vid := 0x43, state := .live, parent := 0 }]
      let f := first s
      let u := s.boundaryFor c0.core (s.share c0 (1, 0))
      let w : VID := BitVec.ofNat 10 (f.v (2#7).toNat).toNat
      isOneGroup s c0 (1, 0) = true ∧ f ∈ s.share c0 (1, 0) ∧ (∀ x ∈ s.share c0 (1, 0), x = f) ∧ s.carries 1 0 = (s.launch 1).version ∧ s.isRoot (s.carries 1 0) = true ∧ (!s.late && isIdle s f) = true ∧ s.domains.length = 16 ∧ f.may (127#7).toNat = true ∧ f.may (2#7).toNat = true ∧ f.may (3#7).toNat = true ∧
      f.mayPair (126#7).toNat = true ∧ (f.v (3#7).toNat).toNat % 2 ^ 16 ≤ (f.v (3#7).toNat).toNat / 2 ^ 16 ∧
      (v = 0x41 → vidSlot w ≠ 0 ∧ (u.version? w).map Version.state ≠ some .live) ∧ (v = 0x42 → (u.version? w).map Version.state = some .live ∧ (u.version? w).map Version.pred = some true) ∧
      (v = 0x43 → (u.version? w).map Version.state = some .live ∧ (u.version? w).map Version.pred = some false) ∧ (v = 0 → vidSlot w = 0 ∧ u.version? w = none)) ∧
    (let f := aimed 126 ownAperture
     let s := { pad0 f [] with wgs := (pad0 f []).wgs.map fun w => { w with scratch := [(1, 0x20), (4, 1), (6, 2)] } }
     isOneGroup s c0 (1, 0) = true ∧ f ∈ s.share c0 (1, 0) ∧ f.mayPair (126#7).toNat = true ∧ s.isRoot (s.carries 1 0) = true ∧ pairVa f (126#7).toNat % 32 = 0 ∧
       (match s.readRecord f (BitVec.ofNat 48 (pairVa f (126#7).toNat)) 32 with
        | (u, .bytes bs) => ptileOk (u.launch 1) bs && (declared u 1 bs).isSome && (s.target f.wg (pairVa f (126#7).toNat) == .pad 1 0) && (bs == s.padRead 1 0 32)
        | _ => false) = true) := by decide +kernel

theorem inFlight_of_nothing {s : State} (h : s.mem.loads = [] ∧ s.mem.stores = [] ∧ s.mem.atomics = [] ∧ s.mem.posts = [] ∧ s.mem.peers = []) (n : Nat) : s.inFlight n = false := by
  simp [State.inFlight, h.1, h.2.1, h.2.2.1, h.2.2.2.1, h.2.2.2.2]

/-- A request of a fibre that waits for four bytes in register 7. -/
def asked : PeerReq := { n := 7, fib := f0.key, window := 3, pa := 0x7000000008000, rva := 0x8000, op := .load 4, va := 0x700000008000, dst := .lanes [7], waits := true, pc := 0x10004, rep := 0, queue := 0, packet := 0 }

/-- TranslationsAreRemoved: a handler with the address of the one mapped page, and nothing in flight. -/
theorem witness_tlbi : let f : Fibre := { aimed 126 0x10000 with pl := .h }
    let s := at0 f
    isSole s c0 f = true ∧ f.pl ≠ .u ∧ f.wait = none ∧ f.mayPair (126#7).toNat = true ∧ s.late = false ∧ (s.mem.loads = [] ∧ s.mem.stores = [] ∧ s.mem.atomics = [] ∧ s.mem.posts = [] ∧ s.mem.peers = []) ∧ s.mem.sweeps = [] ∧ (∃ k ∈ s.cores, ∃ x ∈ k.lastPages, x.page.covers (pairVa f (126#7).toNat) = true) ∧
    (let u : State := { s with ids := 9, mem := { s.mem with peers := [{ asked with waits := false, op := .store [1] }] } }
     isSole u c0 f = true ∧ ∃ r ∈ u.mem.peers, r.n < u.ids ∧ r.got = none ∧ r.bad = none) := by decide +kernel

/-- A dictionary of which the last entry is an ADD whose three fields take the displacement. -/
def book : Dict := { addr := 0x20000, filled := true, bytes := Memory.writeN [] 8184 [3, 0x82, 0x40, 0x01, 7] }

/-- ParcelsExpand: the last entry, in each place of a word. -/
theorem witness_parcels : ∀ form ∈ [Form.high, .low], let c : Issue := { c0 with form := form }
    let s := at0 f0
    let s : State := { s with cur := some c, grids := s.grids.map fun g => { g with launch := { g.launch with dict := 0x20000 } }, cores := s.cores.modify 0 fun k => { k with dicts := [book] } }
    let w := leVal ((List.range 4).map fun j => Memory.read book.bytes (8 * (1023#10).toNat + j))
    isSole s c f0 = true ∧ (s.launch f0.wg).dict ≠ 0 ∧ ((s.core c.core).dicts.find? fun y => decide (y.addr = (s.launch f0.wg).dict) && y.filled) = some book ∧ w < 2 ^ 31 ∧ w / 2 ^ 24 ≠ 0x4A := by decide +kernel

/-! Programs of queues. -/

/-- A packet in hand of queue 5. -/
def packet0 : Packet := { id := 7, seq := 1, k1 := 5, record := image, orig := image, stage := .program, regs := [0, 8, 0x1F8, 3] ++ List.replicate 12 0, pc := 2 }

/-- A state in which queue 5 runs a packet's program: a budget of 100, two repeats, and window 3 over the first 512 bytes of the page. -/
def program (p : Packet) : State :=
  let s : State := { State.reset with
    curQ := some 5, front := { State.reset.front with queues := [{ q := 4, timeline := 9 }, { q := 5, packet := some p, layer := 3, timeline := 77, flights := [{ id := 7, seq := 1, record := [] }] }] } }
  (((s.setCtl (qDesc 5 + 34) 2 100).setCtl (qDesc 5 + 36) 1 2).setCtl (qDesc 5 + 96) 8 0x10000).setCtl (qDesc 5 + 104) 4 512

theorem running_of_test {s : State} {q : BitVec 8} {p : Packet} (h : (decide (s.curQ = some q) && decide ((s.queue q).packet = some p) && decide (p.stage = .program) && decide (p.used < s.qBudget q)) = true) : Running s q p := by
  simp only [Bool.and_eq_true, decide_eq_true_eq] at h
  exact ⟨h.1.1.1, h.1.1.2, h.1.2, h.2⟩

/-- QueueProgramWords: a program at its first unit of budget and at its last, without a loop, at a loop's last turn and with a turn left. -/
theorem witness_queue_program : Running (program packet0) 5 packet0 ∧ Running (program { packet0 with used := 99 }) 5 { packet0 with used := 99 } ∧ packet0.loops = [] ∧
    (∀ left ∈ [0, 1], let p : Packet := { packet0 with loops := [(1, 2, left), (0, 9, 0)] }
     p.loops = (1, 2, left) :: [(0, 9, 0)] ∧ p.pc + 1 = 1 + 2 ∧ ∀ y ∈ [(0, 9, 0)], p.pc + 1 ≠ y.1 + y.2.1) :=
  ⟨running_of_test (by decide +kernel), running_of_test (by decide +kernel), rfl, by decide +kernel⟩

/-- A page table whose one leaf maps the first 2 MiB to themselves: tables at 0x20000 and 0x30000, and a leaf with V, R, W, X, U, A and D set. -/
def mapped (s : State) : State :=
  let t := s.setCtl 0x18 8 0x20000
  { t with mem := { t.mem with dram := Memory.writeN (Memory.writeN t.mem.dram 0x20000 (leBytes 8 0x30001)) 0x30000 (leBytes 8 0xFD) } }

/-- QueueMemory: the last doubleword of the record, the last of the window, and addresses past it and between words. -/
theorem witness_queue_memory : let s := mapped (program packet0)
    let va := (s.qWbase 5 (3#2).toNat + (qreg packet0 2 + (0#14).toNat) % 2 ^ 64) % 2 ^ 48
    (248#16).toNat + 8 ≤ 256 ∧ packet0.record.length = 256 ∧ decide (s.curQ = some 5) ∧ (s.queue 5).packet = some packet0 ∧ packet0.used < s.qBudget 5 ∧
    (qreg packet0 2 + (0#14).toNat) % 2 ^ 64 % 8 = 0 ∧ (qreg packet0 2 + (0#14).toNat) % 2 ^ 64 + 8 ≤ s.qWsize 5 (3#2).toNat ∧ va < ownAperture ∧
    (match State.engineFetch (queueKey 5) none 2 s (s.whoQueue 5) (BitVec.ofNat 48 va) 8 with | .ok _ bs => decide (bs.length = 8) | _ => false) = true ∧ va % 65536 ≤ 65528 ∧
    (∀ n ∈ [({} : Need), { write := true, read := false }], (match s.translate (s.whoQueue 5) (BitVec.ofNat 48 va) n with
      | (u, .ok pa _ _ _) => (regionOf pa).cached && u.mem.refetch.isEmpty && isBare u
      | _ => false) = true) ∧
    (∀ o ∈ [8, 1], let x := (qreg packet0 2 + (BitVec.ofNat 14 o).toNat) % 2 ^ 64
     x % 8 ≠ 0 ∨ s.qWsize 5 (3#2).toNat < x + 8) := by decide +kernel

/-- QueueTimelinesAndDispatch: a timeline reached and one that is not, a layer that is and one that is not the queue's, and a record that is taken, with repeats left. -/
theorem witness_queue_dispatch : Running (program packet0) 5 packet0 ∧
    (let s := program packet0
     0 ≤ ((s.queue 4).timeline - packet0.regs.getD (1#4).toNat 0).toInt ∧ ((s.queue 4).timeline - packet0.regs.getD (2#4).toNat 0).toInt < 0 ∧ (s.queue 5).layer = BitVec.ofNat 16 (qreg packet0 3) ∧ (s.queue 5).layer ≠ BitVec.ofNat 16 (qreg packet0 1) ∧
     (match s.dispatch 5 { packet0 with used := packet0.used + 1 } with | .taken _ => true | _ => false) = true ∧ packet0.repeats < s.qRepmax 5) :=
  ⟨running_of_test (by decide +kernel), by decide +kernel⟩

/-! The dispatcher and the events of workgroups. -/

/-- Two entries of one part whose fibres stand at the same pc, with different homes. -/
def meeting : State :=
  let s := s0
  { s with arg := .two 0 0, fibres := [{ f0 with seat := .entry 1 }, { f0 with lane := 1, home := 1, seat := .entry 2 }],
           cores := s.cores.modify 0 fun c => { c with entries := [{ part := 0, index := 1, order := 3, last := 4 }, { part := 0, index := 2, order := 5, last := 4 }] } }

/-- Sixteen entries and a pooled fibre that has waited since clock 5; its pc is not theirs. -/
def starving : State :=
  let s := s0
  { s with arg := .two 0 0, clock := 4101, order := 100,
           fibres := (List.range 16).map (fun i => ({ f0 with lane := i % 8, grp := i / 8, home := BitVec.ofNat 6 i, seat := .entry i } : Fibre)) ++ [{ f0 with grp := 9, pc := 0x10004, seat := .pool 7 5 }],
           cores := s.cores.modify 0 fun c => { c with entries := (List.range 16).map fun i => { part := 0, index := i, order := 20 - i, last := 0 } } }

/-- A queue whose head is the grid of the launch record, not yet placed. -/
def heading (restore : List Nat) : State :=
  let s := ({ State.reset with arg := .die 0, grids := [{ id := 9, launch := Launch.ofBytes image, queue := 5, packet := 7, placed := restore.length }], front := { State.reset.front with queues := [{ q := 5, heads := [{ grid := 9, restore := restore }] }] } } : State).setCtl (qDesc 5 + 8) 8 0x100080000
  { s with wgs := restore.map fun w => { id := w, grid := 9, resident := false } }

/-- BatchAndDispatchEvents, entries: two that meet, and one that has to give its place to a fibre that starves. -/
theorem witness_entries : (let s := meeting
      let a : Entry := { part := 0, index := 1, order := 3, last := 4 }
      let b : Entry := { part := 0, index := 2, order := 5, last := 4 }
      ((s.core 0).entries.filter fun e => decide (e.part = 0)) = [a, b] ∧ a.order < b.order ∧ s.pooled 0 0 = [] ∧ (∀ e ∈ [a, b], ∃ f ∈ seated s 0 0 e.index, f.run = .live) ∧
      (∀ f ∈ seated s 0 0 a.index, ∀ g ∈ seated s 0 0 b.index, f.home ≠ g.home) ∧ ∀ f ∈ seated s 0 0 a.index, ∀ g ∈ seated s 0 0 b.index, f.run = .live → g.run = .live → s.alike f g = true) ∧
    (let s := starving
     let f : Fibre := { f0 with grp := 9, pc := 0x10004, seat := .pool 7 5 }
     s.freeEntry 0 0 = none ∧ s.pooled 0 0 = [f] ∧ newestEntry 0 (s.core 0).entries = some { part := 0, index := 0, order := 20, last := 0 } ∧ 5 + 4096 ≤ s.clock ∧ (match f.seat with | .pool k _ => decide (k < s.order) | _ => true) = true ∧
      ∃ g ∈ seated s 0 0 0, g.run = .live ∧ s.alike f g = false) := by decide +kernel

/-- BatchAndDispatchEvents, the dispatcher: a new workgroup, and one that is restored. -/
theorem witness_dispatch : (let s := heading []
      s.power.low = false ∧ (match (s.noteUnfit 0).choose 0 4 with | some (s1, q) => decide (q = 5) && decide ((s1.queue q).heads = [{ grid := 9 }]) && (s1.fitNew q (s1.grid 9).launch).any (fun p => !p.isEmpty) && decide ((s1.grid 9).launch.dict = 0) && decide ((s1.grid 9).launch.stackPages = 0) && (s.placingOn 0).isNone | none => false) = true) ∧
    (let s := ({ heading [] with grids := (heading []).grids.map fun g => { g with launch := { g.launch with stack := 1 } } } : State).setCtl 0x78 8 64
     s.power.low = false ∧ (match (s.noteUnfit 0).choose 0 4 with | some (s1, q) => decide ((s1.queue q).heads = [({ grid := 9 } : Head)]) && (s1.fitNew q (s1.grid 9).launch).any (fun p => !p.isEmpty) && decide ((s1.pressOf 0).free.length < (s1.grid 9).launch.stackPages) && (s.placingOn 0).isNone | none => false) = true) ∧
    (let s := heading [3]
     s.power.low = false ∧ (match (s.noteUnfit 0).choose 0 4 with | some (s1, q) => decide (q = 5) && decide ((s1.queue q).heads = [{ grid := 9, restore := [3] }]) && (s1.fitSaved q (s1.grid 9).launch [3]).any (fun p => decide (p.length = 1)) && (s1.wg? 3).isSome | none => false) = true) := by decide +kernel

/-- A workgroup and its grid in a state in which a unit may stop or retire. -/
def unit (stopping : Bool) (fs : List Fibre) : State :=
  let s := s0
  { s with arg := .num 1, fibres := fs, wgs := s.wgs.map fun w => { w with stopping := stopping } }

/-- BatchAndDispatchEvents, ends: an idle workgroup, a stopped unit with its fibres saved, and a grid that is over, without a word of completion and with one. -/
theorem witness_ends : (let s := unit false []
      (s.wg? 1).any (fun w => w.resident && !w.stopping) = true ∧ s.wgIdle 1 = true ∧ (s.grid? 2).isSome = true) ∧
    (let s := unit true [{ f0 with seat := .saved }]
     (s.wg? 1).any (fun w => w.resident && w.stopping && s.unitQuiet ((s.unitOf w).map (·.id))) = true) ∧
    (let g : Grid := { id := 2, launch := Launch.ofBytes image, placed := 1, retired := 1 }
     let s : State := { unit false [] with arg := .num 2, wgs := [], grids := [g] }
     s.grid? 2 = some g ∧ s.gridIdle g = true ∧ g.launch.doneW = 0) ∧
    (let g : Grid := { id := 2, launch := { Launch.ofBytes image with doneW := 0x10008 }, placed := 1, retired := 1 }
     let s : State := mapped { unit false [] with arg := .num 2, wgs := [], grids := [g] }
     s.grid? 2 = some g ∧ s.gridIdle g = true ∧ g.launch.doneW ≠ 0 ∧ g.dead = false ∧ (s.incrementDone g).isSome = true) := by decide +kernel

/-- A queue of priority 1 whose head has not fitted since clock 3, on a die whose 24 cores each hold a workgroup with the whole scratchpad, of a queue of priority 0. -/
def waiting : State :=
  let l : Launch := Launch.ofBytes image
  let s := ({ State.reset with arg := .queue 5, clock := 11, wgs := (List.range 24).map fun i => { id := 20 + i, grid := 2, core := i, order := i, k2 := BitVec.ofNat 64 i },
                               grids := [{ id := 2, launch := { l with gran := 8192 }, queue := 4, placed := 24 }, { id := 9, launch := { l with gran := 1 }, queue := 5 }],
                               front := { State.reset.front with queues := [{ q := 4 }, { q := 5, heads := [{ grid := 9 }], unfit := some 3 }] } } : State)
  ((s.setCtl (qDesc 4 + 8) 8 0x100080000).setCtl (qDesc 5 + 8) 8 0x103090000).setCtl 0x68 8 200

/-- BatchAndDispatchEvents, pre-emption: the wait of that queue has come to its end, and the unit placed last may stop. -/
theorem witness_preemption : let s := waiting
    (s.queue 5).unfit = some 3 ∧ s.qPwait 5 = 3 ∧ 3 + 2 ^ s.qPwait 5 ≤ s.clock ∧ (∀ x ∈ s.wgs, x.stopping = true → x.core / 24 ≠ queueDie 5) ∧ s.headFits 5 = false ∧ (s.queue 5).heads ≠ [] ∧
    (s.bestVictim (s.wgs.filter fun x => s.mayStop 5 x)).any (fun w => decide (w.id = 43)) = true := by decide +kernel

/-! Events of engines and of memory. -/

/-- A state in which the release of a clasp has issued an MMA of 64 by 16, the operands' granules FULL. -/
def issued : State :=
  let s := ((releasedIn (signedBy (clasp0 1 f0) f0 15) f0.wg 15).issueMatrix f0.wg mmaWord [f0.key]).getD s0
  { s with arg := .two 0 0, wgs := s.wgs.map fun w => { w with tags := (List.range 8).map fun i => (i, { tag := .full }) } }

/-- That command. -/
def cmd0 : MCmd := (issued.core 0).mcmds.headD { seq := 0, whole := 0, wg := 0, src := 0, grp := 0, vid := 0, kind := .zero, slot := 0, mode := 0, lo := 0, len := 0, prio := 0, age := 0, since := 0, pc := 0, signers := [] }

/-- The state in which a core holds one command, for the event of an engine or of the command's number. -/
def commanded (m : MCmd) (arg : Nat) : State := { issued with arg := .two 0 arg, cores := issued.cores.modify 0 fun c => { c with mcmds := [m] } }

/-- MatrixEvents: a command that an idle engine may take, each phase of a step, a command whose steps are over, and ZERO, LD and ST at the end of the accumulators. -/
theorem witness_matrix : issued.engineIdle 0 0 = true ∧ issued.nextCmd 0 = some cmd0 ∧ cmd0.mul?.isSome = true ∧
    (∀ p ∈ [MPhase.fetching, .computing], let m := { cmd0 with phase := p, engine := some 3 }
     (commanded m 3).running 0 3 = some m ∧ m.phase = p) ∧
    (let m := { cmd0 with step := 1 }
     ((commanded m m.seq).core 0).mcmds.find? (fun x => decide (x.seq = m.seq)) = some m ∧ m.mul?.any (fun q => decide (q.ks ≤ m.step)) = true ∧ m.phase = .queued) ∧
    (∀ k ∈ [MKind.zero, .ld f0.key [1, 2] 0, .st f0.gen 16 2 16 0 none 2048 64], let m := { cmd0 with kind := k, lo := 4096, len := 4096 }
     ((commanded m m.seq).core 0).mcmds.find? (fun x => decide (x.seq = m.seq)) = some m ∧ ((commanded m m.seq).core 0).rangeClear m = true ∧ m.mul? = none ∧ (commanded m m.seq).operandWg m none = some 1 ∧
       ∀ i < 2, ∀ g ∈ granulesOf (2048 + 64 * i) (packedBytes (elemOf (slotA m.slot)).width 16), ({ commanded m m.seq with wgs := (commanded m m.seq).wgs.map fun w => { w with tags := [] } } : State).tagMeets 1 g m.vid .free = true) ∧
    isCanonical issued = true := by decide +kernel

/-- A load in flight of lane 0 for the last word of the page. -/
def load7 : PLoad := { n := 7, fib := f0.key, core := 0, vid := 0, va := BitVec.ofNat 48 (pageEnd + 12), pa := pageEnd + 12, size := 4, dst := .lanes [7], hint := 0, since := 0 }

/-- A store and an atomic in flight. -/
def store7 : PStore := { n := 7, fib := f0.key, core := 0, vid := 0, va := BitVec.ofNat 48 pageEnd, pa := pageEnd, data := [1, 2], hint := 0, since := 0 }
def atomic7 : PAtomic := { n := 7, fib := f0.key, core := 0, vid := 0, va := BitVec.ofNat 48 pageEnd, pa := pageEnd, op := .add, wide := false, b := 1, expect := 0, sc := 0, dst := [7], since := 0 }

/-- MemoryEvents, accesses: CLINE in an aperture and on a page; a load, a store and an atomic that are their fibre's oldest. -/
theorem witness_memory_accesses : (let f := aimed 126 ownAperture
      isSole (at0 f) c0 f = true ∧ f.mayPair (126#7).toNat = true ∧ ownAperture ≤ effAddr f 126 0 1024) ∧
    (let f := aimed 126 0x1FC00
     let s := at0 f
     let x := s.translate (s.who f) (BitVec.ofNat 48 (effAddr f 126 0 1024)) {}
     let w := x.1.landAll f.key
     isSole s c0 f = true ∧ effAddr f 126 0 1024 < ownAperture ∧ effAddr f 126 0 1024 % 1024 = 0 ∧ x.2 = .ok 0x1FC00 0 0 firstLeaf ∧ isCanonical w = true ∧ w.isRoot 0 = true ∧ f.core < w.cores.length ∧ isBare w = true) ∧
    (let s : State := { s0 with arg := .num 7, mem := { s0.mem with loads := [load7, { load7 with n := 8 }], stores := [store7], atomics := [atomic7] } }
     (s.mem.loads.find? fun x => decide (x.n = 7)) = some load7 ∧ s.blocked load7 = false ∧ (∀ x ∈ s.mem.loads, load7.after x = false) ∧ s.fibre? load7.fib = some f0 ∧ load7.core = f0.core ∧ load7.hint = (0#2).toNat ∧
       (regionOf load7.pa).cached = true ∧ load7.pa % 1024 + load7.size ≤ 1024 ∧ isBare s = true ∧ (∀ j < 4, s.coreByte 0 0 f0.seen (load7.pa + j) = ([0, 0, 0, 0] : List Byte)[j]?) ∧
       (s.mem.stores.find? fun x => decide (x.n = 7)) = some store7 ∧ (s.mem.stores.find? fun x => decide (x.fib = store7.fib)) = some store7) ∧
    (let s : State := { s0 with arg := .num 7, mem := { s0.mem with atomics := [atomic7] } }
     (s.mem.atomics.find? fun x => decide (x.n = 7)) = some atomic7 ∧ s.heldBack atomic7 = false ∧ isRelease atomic7.op atomic7.sc = false ∧ acquires atomic7.op (syncOrd atomic7.sc) = false) := by decide +kernel

/-- A fibre that waits for a granule, to load or to store the last eight bytes of the scratchpad. -/
def accessing (store : Bool) : Fibre :=
  { f0 with wait := some { why := .access { wg := 1, off := 2040, va := BitVec.ofNat 48 (ownAperture + 2040), need := if store then .empty else .full, store := store, sf := store, size := 8, data := if store then List.replicate 8 1 else [], dst := if store then [] else [4, 5], pc := 0x10004, rep := 0 }, since := 3 } }

/-- A committed frame of a line with one byte, dirty in its first sector. -/
def frame0 (line : Nat) : Frame := { line := line, kind := .committed, stamp := 1, cells := [(1024 * line, 9)], dirty := 1 }

/-- The first line of host memory. -/
def hostLine : Nat := 0x2000000000000 / 1024

/-- A full set of the L2: sixteen frames of one line or of lines 16,384 apart. -/
def fullSet (f : Nat → Frame) : State := { s0 with arg := .dram 64 .victim, versions := [{ vid := 0x41, state := .live, parent := 0 }], mem := { s0.mem with stamp := 20, complete := 20, frames := (List.range 16).map f }, cores := s0.cores.map fun c => { c with sigma := 20 } }

/-- MemoryEvents, the rest: an access whose granule is as it needs, a publication, a fill, full sets with a victim of each kind, a dirty host line, and a walk. -/
theorem witness_memory_events : (∀ st ∈ [false, true], let f := accessing st
      let s : State := { pad0 f (if st then [] else [(1, { tag := .full })]) with arg := .fibre f.key }
      s.fibre? f.key = some f ∧ s.turnOf (.fibre f.key) = true ∧ (match f.wait with
        | some ⟨.access a, _⟩ => decide (a.need = .free) || decide ((s.wg a.wg).tag (a.off / 1024) ≠ .poisoned)
        | _ => false) = true) ∧
    (let p : Pub := { stamp := 40, vid := 0, owner := 0, cells := [(pageEnd, 7)] }
     let s : State := { s0 with mem := { s0.mem with pubs := [p, { p with stamp := 41 }], frames := [frame0 64] } }
     s.mem.pubs = [p, { p with stamp := 41 }] ∧ (∀ x ∈ [({ p with stamp := 41 } : Pub)], x.stamp ≠ p.stamp) ∧ s.isRoot p.vid = true ∧ Memory.sorted p.cells = true ∧ (∀ f ∈ s.mem.frames, Memory.sorted f.cells = true) ∧
       (s.committed 64).length ≤ 3 ∧ (∀ y ∈ s.committed 64, y.1.toNat < p.stamp.toNat) ∧ s.mem.frames.length + (linesOf p.cells).length ≤ 16) ∧
    (let old := fullSet fun i => { frame0 (64 + 16384 * i) with used := i }
     16 ≤ (old.ways 64).length ∧ (old.victim? 64).any (fun f => (old.frameStamp f).isSome) = true) ∧
    (∀ k ∈ [FKind.priv, .spec], let one := (fullSet fun i => { frame0 (64 + 16384 * i) with kind := k, core := 3, vid := 0x41, used := i }).setCtl (domDesc (vidDomain 0x41) + 8) 4 1
     16 ≤ (one.ways 64).length ∧ (one.victim? 64).any (fun f => (one.frameStamp f).isNone && decide (f.kind = k) && !(one.deadVersion f.vid)) = true) ∧
    (let s : State := { s0 with arg := .dram 64 (.fill 31) }
     s.mem.frames = [] ∧ isBare s = true) ∧
    (let s : State := { s0 with arg := .num hostLine, mem := { s0.mem with frames := [frame0 hostLine] } }
     hostLine ∈ s.hostDirty ∧ isCanonical s = true ∧ (∃ y ∈ s.committed hostLine, (Memory.get y.2.cells (1024 * hostLine)).isSome = true) ∧
       ∀ y ∈ s.committed hostLine, y.2.dirty.getLsbD (1024 * hostLine / 32 % 32) = true) ∧
    (let s : State := { s0 with arg := .walk f0.key 0x10000 true }
     s.fibre? f0.key = some f0) := by decide +kernel

theorem roomFor_of_few {s : State} {cs : Cells} (h : s.mem.frames.length + (linesOf cs).length ≤ 16) : RoomFor s cs :=
  fun _ => Nat.le_trans (Nat.add_le_add (List.length_filter_le _ _) (List.length_filter_le _ _)) h

/-! Copies, waits, versions. -/

/-- A command of one row of 64 bytes between the page and the start of the scratchpad; `w` is its first word without ROWS. -/
def copyBytes (w : Nat) : List Byte := leBytes 4 (2 ^ 16 + w) ++ leBytes 4 64 ++ leBytes 8 0x10000 ++ List.replicate 16 0

def copy7 (w : Nat) : CCmd := { n := 7, wg := 1, grp := 0, idx := 0, bytes := copyBytes w, token := 1, vid := 0, order := 0 }

/-- A state in which core 0 holds the command, the page is mapped, and the workgroup's ring has four places. -/
def copying (k : CCmd) (tags : List (Nat × TagRec)) : State :=
  let s := mapped (pad0 f0 tags)
  { s with arg := .num 7, cores := s.cores.modify 0 (fun c => { c with ccmds := [k] }), grids := s.grids.map fun g => { g with launch := { g.launch with ring := 0x1000400 } } }

/-- A state in which the ring's first slot holds a command that is exposed. -/
def exposing (w : Nat) : State :=
  let s := copying (copy7 1) []
  { s with arg := .num 1, cores := s.cores.modify 0 (fun c => { c with ccmds := [] }),
           wgs := s.wgs.map fun x => { x with scratch := Memory.writeN [] 0x400 (copyBytes w), pOld := 1, exposed := [{ idx := 0, grp := 0, token := 1, vid := 0, order := 0 }] } }

/-- CopyEvents: a post that fills the ring, an exposed command that is in order and one that is not, and a command that may start. -/
theorem witness_copies : (let p : Post := { n := 7, fib := f0.key, op := .add, b := 4, expect := 0, sc := 0x42, dst := [7] }
      let s : State := { copying (copy7 1) [] with mem := { (copying (copy7 1) []).mem with posts := [p] } }
      (s.mem.posts.find? fun x => decide (x.n = 7)) = some p ∧ (s.mem.posts.find? fun x => decide (x.fib = p.fib)) = some p ∧ s.fibre? p.fib = some f0 ∧ (s.launch 1).ringLog2 ≠ 0 ∧ p.sc.toNat / 2 % 2 = 1 ∧
        atomicLeaves p.op 32 (leVal (s.padRead 1 (s.launch 1).notifyOff 4)) (p.b.toNat % 2 ^ 32) (p.expect.toNat % 2 ^ 32) = some 4 ∧ (BitVec.ofNat 32 4 - (s.wg 1).ringC).toNat ≤ (s.launch 1).ringSize ∧ (s.wg? 1).isSome = true) ∧
    (∀ w ∈ [1, 0], let s := exposing w
     (s.wg 1).exposed = [{ idx := 0, grp := 0, token := 1, vid := 0, order := 0 }] ∧ (s.wg 1).resident = true ∧ (s.wg 1).stopping = false ∧ (s.core (s.wg 1).core).ccmds = [] ∧ s.isSquashed 0 = false ∧
       copyOk (s.padRead 1 ((s.launch 1).ringOff + 32 * ((0 : BitVec 32).toNat % max (s.launch 1).ringSize 1)) 32) (s.launch 1) = decide (w = 1)) ∧
    (let s := copying (copy7 1) []
     s.ccmd? 7 = some (0, copy7 1) ∧ s.copyCanStart (s.core 0) (copy7 1) = true ∧ ∀ x ∈ (s.core 0).ccmds, s.exposedBefore x (copy7 1) = false) := by decide +kernel

/-- CopyEvents: a load and a store whose turn on their granules has come. -/
theorem witness_copy_tags : (let k : CCmd := { copy7 (1 + 2 ^ 10) with channel := some 7 }
     (copying k []).ccmd? 7 = some (0, k) ∧ (copyReq k.bytes).loads = true ∧ (copying k []).turnOf (.copy 7) = true) ∧
    (let k : CCmd := { copy7 (3 + 2 ^ 10) with channel := some 0 }
     let s := copying k [(0, { tag := .full })]
     s.ccmd? 7 = some (0, k) ∧ (copyReq k.bytes).loads = false ∧ s.turnOf (.copy 7) = true) := by decide +kernel

/-- CopyEvents: a command whose data has still to move and one whose data has moved, one that stops, one that meets a POISONED granule, and multicasts to rank 0 and to no rank that there is. -/
theorem witness_copy_ends : (∀ moved ∈ [false, true], let k : CCmd := { copy7 1 with channel := some 0, tagsOk := true, moved := moved }
     let s := copying k []
     s.ccmd? 7 = some (0, k) ∧ k.bad = none ∧ (copyReq k.bytes).mcast = 0 ∧ s.copyReady k (copyReq k.bytes) = true ∧ s.copyPublished k = true ∧ (match s.moveCopy 0 k (copyReq k.bytes) with | .ok _ => true | _ => false) = true) ∧
    (let k : CCmd := { copy7 1 with channel := some 0, bad := some (.poison, 0) }
     (copying k []).ccmd? 7 = some (0, k) ∧ k.bad = some (.poison, 0) ∧ (copying k []).copyPublished k = true) ∧
    (let k : CCmd := { copy7 (3 + 2 ^ 10) with channel := some 0 }
     let s := copying k [(0, { tag := .poisoned })]
     s.ccmd? 7 = some (0, k) ∧ k.bad = none ∧ (copyReq k.bytes).stores = true ∧ s.poisonedAt k.wg (copyReq k.bytes).granules = some 0) ∧
    (∀ r ∈ [11, 14], let k : CCmd := { copy7 (1 + 2 ^ r) with channel := some 0 }
     let s := copying k []
     let q := copyReq k.bytes
     s.ccmd? 7 = some (0, k) ∧ q.mcast ≠ 0 ∧ q.we = false ∧ (s.mem.slots.filter fun m => decide (m.core / 4 = 0 / 4)).length < 32 ∧
       (match s.moveCopy 0 k q with | .ok x => decide (((List.range 4).filter fun r => decide (bits q.mcast r r = 1) && decide ((x.s.clusterWgs k.wg).getD r 0 ≠ 0)) = if r = 11 then [0] else []) | _ => false) = true) := by decide +kernel

/-- CopyEvents, drains: a slot whose one rank drains, waiting for an EMPTY granule and setting it FULL. -/
theorem witness_drains : let m : McSlot := { n := 7, core := 0, wgs := [1, 0, 0, 0], ranks := [0], rows := [(0, List.replicate 64 3)], we := true, sf := true, wg := 1, grp := 0, token := 1, slot := 0, vid := 0 }
    let s : State := { pad0 f0 [] with arg := .two 7 0, mem := { s0.mem with slots := [m] } }
    (s.mem.slots.find? fun x => decide (x.n = 7)) = some m ∧ 0 ∈ m.ranks ∧ (s.wg (m.wgs.getD 0 0)).resident = true ∧ (s.wg (m.wgs.getD 0 0)).stopping = false ∧ s.allEmpty 1 m.vid m.granules = true ∧
      (∀ g ∈ m.granules, s.tagMeets 1 g m.vid .free = true) ∧ m.granules ≠ [] ∧ drainsFirst (s.mem.slots.takeWhile fun x => decide (x.n ≠ 7)) m.wg m.token 1 m.spans = false ∧ ∀ r ∈ m.ranks, r = 0 := by decide +kernel

/-- A fibre that waits since clock 3, and the state of its event. -/
def waits (why : Why) : Fibre := { f0 with wait := some { why := why, since := 3 } }
def waitState (f : Fibre) : State := { s0 with cur := none, fibres := [f], arg := .fibre f.key, clock := 2 ^ 40 }

/-- A fibre that waits in TRUN, and its state, whose core holds tasks of the fibre's workgroup. -/
def running (l : List Task) : State :=
  let s := padded (waitState (waits (.trun 3 0x10004 0)))
  { s with cores := s.cores.modify 0 fun c => { c with tasks := l } }

/-- WaitsEnd: each retried wait, a parked trap, a fault that is resolved, each wait that WATCHDOG ends, a TLBI's sweep, and a waiting TRUN with a task to start and with none. -/
theorem witness_waits : (∀ r ∈ retryRows, let f := waits r.2
      (waitState f).fibre? f.key = some f ∧ f.wait = some { why := r.2, since := 3 } ∧ f.seat = .entry 0) ∧
    (∀ why ∈ [Why.trap { code := .breakpoint } 1, .clasp, .cons [] 0 0, .trun 3 0 0, .hardware .compressedPage 0x10000 true, .walk], let f := waits why
     let s := waitState f
     s.fibre? f.key = some f ∧ f.issue? = some c0 ∧ s.liveMembers c0 = [f] ∧ s.owedLds f = [] ∧ (∀ g ∈ s.fibres, g = f) ∧ (!s.late && isIdle s f) = true ∧ 3 + 2 ^ s.wdShift < s.clock ∧ f.pl = .u ∧
       (s.launch f.wg).traph ≠ 0 ∧ f.gbar = none ∧ f.run = .live ∧ s.pooled f.core f.part = []) ∧
    (let f := waits (.hardware .versionPage 0x10000 false)
     let s := waitState f
     s.fibre? f.key = some f ∧ (match s.translate (s.who f) 0x10000 { read := !false, write := false } with | (_, .fault _) => false | _ => true) = true) ∧
    (let f := waits .walk
     let s : State := { waitState f with mem := { s0.mem with sweeps := [(f.key, 5)] } }
     (f.key, 5) ∈ s.mem.sweeps ∧ s.fibre? f.key = some f ∧ f.issue? = some c0 ∧ s.liveMembers c0 = [f] ∧ f.seat = .entry 0 ∧ s.mem.loads = [] ∧ s.mem.stores = [] ∧ s.mem.atomics = [] ∧ s.mem.posts = [] ∧ s.mem.peers = []) := by decide +kernel

/-- WaitsEnd: a waiting TRUN that starts a task, and one that finds none. -/
theorem witness_waiting_task : (∀ l ∈ [[{ task3 with state := .tiles }], [{ task3 with state := .counting, count := 1 }]], let f := waits (.trun 3 0x10004 0)
     let s := running l
     let fits := (s.core (s.wg f.wg).core).tasks.filter fun k => decide (k.wg = f.wg) && decide (k.width = (s.launch f.wg).shape.toNat % 4)
     s.trunLine = [(c0, f.wg, f.grp)] ∧ s.share c0 (f.wg, f.grp) = [f] ∧ f.muted = false ∧ s.wholeGroup (f.wg, f.grp) [f] = true ∧ (s.group f.wg f.grp).task = none ∧ f.issue? = some c0 ∧ s.fibre? f.key = some f ∧
       (pickTask (fits.filter s.eligible) = none → (∀ k ∈ fits, s.predictable k = none) ∧ ((s.core (s.wg f.wg).core).tasks.any fun k => decide (k.wg = f.wg) && decide (k.state ≠ .verify)) = true)) := by decide +kernel

/-- A state of a workgroup whose grid carries version 0x41 of domain 1, with one frame in the domain's pool. -/
def speculating (f : Fibre) : State :=
  let s := mapped { pad0 f [] with arg := .fibre f.key, cur := none, versions := [{ vid := 0x41, state := .live, parent := 0 }] }
  let t := ((s.setCtl (domDesc 1 + 24) 4 1).setCtl (domDesc 1 + 28) 4 4).setCtl (domDesc 1 + 56) 1 1
  { t with grids := t.grids.map fun g => { g with launch := { g.launch with vid := 0x41 } } }

/-- VersionEvents, pages and slots: a page that waits for its copy, and a squashed and a committed version that nothing uses. -/
theorem witness_versions : (let f := waits (.hardware .versionPage 0x10000 true)
      let s := speculating f
      s.fibre? f.key = some f ∧ s.leafAt 0x10000 = some 0x30000 ∧ (s.version? (s.actual (s.fibreVid f))).any (fun x => x.copies.all fun c => decide (c.1 ≠ 0x30000)) = true ∧
        (s.copyVersionPage (some f.core) (s.actual (s.fibreVid f)) 0x30000).isSome = true) ∧
    (∀ st ∈ [VState.squashed, .committed], let x : Version := { vid := 0x43, state := st, parent := 0 }
     let s : State := { s0 with arg := .vid 0x43, versions := [{ vid := 0x41, state := .live, parent := 0 }, x] }
     s.version? 0x43 = some x ∧ s.versionUsed 0x43 = false ∧ ∀ f ∈ s.mem.frames, f.kind = .spec → f.vid ≠ 0x43) := by decide +kernel

/-- A declared range of one granule, and a state whose workgroup has it. -/
def range0 : PRange := { first := 1, cnt := 1, ty := 0, linear := false, warm := 1, backoffInit := 4, abs := 0, rel := 0, hslot := 0, arrived := [1] }
def ranged (p : PRange) : State :=
  let s := pad0 f0 [(1, { tag := .full })]
  { s with arg := .two 1 0, wgs := s.wgs.map fun w => { w with ranges := [p] } }

/-- VersionEvents, ranges and domains: an arrival, domains enabled, disabled, and given a larger pool. -/
theorem witness_ranges : ((ranged range0).range? 1 0 = some range0 ∧ range0.done = false ∧ range0.cnt ≤ range0.arrived.length ∧ range0.owner = none ∧ ∃ j < range0.cnt, ((ranged range0).wg 1).tag (range0.first + j) ≠ .empty) ∧
    (s0.domains.length = 16 ∧ s0.domEnabled (15#4).toNat = false ∧ Memory.wf s0.ctl = true ∧ (speculating f0).domEnabled (1#4).toNat = true ∧ Memory.wf (speculating f0).ctl = true ∧ (speculating f0).domains.length = 16) ∧
    ((speculating f0).poolN 1 < (4#32).toNat ∧ (4#32).toNat ≤ (speculating f0).poolCap 1 ∧ isCanonical (speculating f0) = true) := by decide +kernel

theorem physRead_of_blank {s : State} (h : s.mem.frames = [] ∧ s.mem.dram = []) (pa n : Nat) : s.physRead pa n = List.replicate n 0 := by
  have z : ∀ p, s.newestByte p = 0 := fun p => by simp [State.newestByte, State.committed, firstHeld, h.1, h.2, Memory.read, Memory.get]
  simp [State.physRead, z, List.map_const']

theorem leNat_of_zeros (j : Nat) : leNat (List.replicate j 0#8) = 0 := by
  induction j with
  | zero => rfl
  | succ j ih => simp [List.replicate_succ, leNat, ih]

theorem field_of_zeros (m k n : Nat) : field (List.replicate m 0) k n = 0 := by simp [field, slice, leNat_of_zeros]

/-- A range whose speculation waits for its comparison. -/
def compared : PRange := { range0 with owner := some 0x41, pending := true }

/-- VersionEvents: a prediction that passes: both copies of the granule are zero. -/
theorem witness_range_passes : (ranged compared).range? 1 0 = some compared ∧ (ranged compared).loupePasses 1 compared = true := by
  refine ⟨by decide +kernel, ?_⟩
  have h : (ranged compared).mem.frames = [] ∧ (ranged compared).mem.dram = [] := by decide +kernel
  simp only [State.loupePasses, physRead_of_blank h, field_of_zeros, List.all_eq_true]
  intro _ _; decide +kernel

/-- VersionEvents: a prediction that does not pass: the first element that has arrived is 2.0. -/
theorem witness_range_fails : let s : State := { ranged compared with mem := { (ranged compared).mem with dram := [(0xC003, 0x40)] } }
    s.range? 1 0 = some compared ∧ s.loupePasses 1 compared = false := by decide +kernel

/-- A die's pressure block with a frame in each ring, sweeping and compressing, and a frame table at 0x40000. -/
def pressed (p : Press) : State :=
  let s := mapped s0
  ({ s with arg := .die 0, press := [p, {}] } : State) |> fun t => (t.setCtl (pressBase 0) 4 3).setCtl (pressBase 0 + 0x08) 8 0x40000

/-- A word of the frame table. -/
def entered (s : State) (f st pte hbpa : Nat) : State :=
  { s with mem := { s.mem with dram := Memory.writeN (Memory.writeN (Memory.writeN s.mem.dram (0x40000 + 32 * f) (leBytes 8 pte)) (0x40000 + 32 * f + 8) (leBytes 8 (st * 2 ^ 61))) (0x40000 + 32 * f + 16) (leBytes 8 hbpa) } }

/-- PressureEvents: the rings with a frame each, the sweeper at the last frame, a cold page that is ready, a window that ends, and a migration. -/
theorem witness_pressure : (0 < (pressed {}).press.length ∧ 1 < (pressed {}).press.length) ∧
    (let s := pressed { free := [7], cxl := [8], sweepAt := Config.framesPerDie - 1 }
     (s.pressOf 0).free = [7] ∧ (s.pressOf 0).cxl = [8] ∧ s.sweepEn 0 = true ∧ (s.pressOf 0).sweepAt + 1 = Config.framesPerDie ∧ (s.pressOf 0).free.length < ringRoom ∧ (s.pressOf 0).cxl.length < ringRoom) ∧
    (let s := (pressed {}).setCtl (pressBase 0 + 0x14) 4 1
     s.sweepPaused 0 = false) ∧
    (let s := (entered (pressed { ready := [(5, 0x700FD)] }) 5 2 0x50008 0).setCtl (pressBase 0 + 0x18) 4 1
     let t : State := { s with mem := { s.mem with dram := Memory.writeN s.mem.dram 0x50008 (leBytes 8 0x700FD) } }
     t.compEn 0 = true ∧ (t.pressOf 0).free.length < bits (t.pressReg 0 0x18) 31 0 ∧ (t.pressOf 0).window = none ∧ (t.pressOf 0).ready = [(5, 0x700FD)] ∧ ftState (t.ftWord 0 5) = ftCold ∧ t.readEntry (t.ftPte 0 5) = 0x700FD ∧ t.pageSpec (framePa 0 5) = false) ∧
    (let s := entered (pressed { window := some ⟨5, 0x50008⟩ }) 5 3 0x50008 0
     (s.pressOf 0).window = some ⟨5, 0x50008⟩ ∧ ftState (s.ftWord 0 5) = ftWindow) := by decide +kernel

/-- The move of a page from frame 5 to frame 9, and a state in which it is under way. -/
def move0 : Move := { leafPa := 0x50008, src := 0x50000, dest := 0x90000, tier := 0, gran := 0 }
def moving : State := entered (pressed { move := some move0 }) 5 1 0x50008 0
/-- That state when the copy has been made, and when the leaf is closed. -/
def movedPage (u : State) (page : Cells) : State := ((u.installPage move0.dest page).stampPage move0.dest (u.pageStamps move0.src)).moveBarriers move0.leafPa (fun _ => true) (GbarWait.inFrame move0.dest)
def closed (v : State) : State :=
  (v.closeWindow move0.leafPa (setFrame ((v.readEntry move0.leafPa &&& ~~~(0x1F#64 <<< 52)) ||| BitVec.ofNat 64 (move0.tier * 2 ^ 55 + move0.gran * 2 ^ 52)) move0.dest)).migState 0 2

def settled : State := (moving.modPress 0 fun p => { p with move := none }).settlePage move0.src

theorem get_of_outside {m : Cells} {a : Nat} (h : (m.all fun c => decide (c.1 ≠ a)) = true) : Memory.get m a = none := by
  induction m with
  | nil => rfl
  | cons c r ih =>
    simp only [List.all_cons, Bool.and_eq_true, decide_eq_true_eq] at h
    simp only [Memory.get, Ne.symm h.1, if_false, ih h.2, ite_self]

theorem pageCells_of_blank {s : State} {pa : Nat} (f : s.mem.frames = []) (d : (s.mem.dram.all fun c => decide (c.1 < pa) || decide (pa + 65536 ≤ c.1)) = true) : s.pageCells pa = [] := by
  refine List.filterMap_eq_nil_iff.mpr fun i hi => if_pos ?_
  have o : Memory.get s.mem.dram (pa + i) = none := get_of_outside (List.all_eq_true.mpr fun c hc => by
    have := List.all_eq_true.mp d c hc
    simp only [Bool.or_eq_true, decide_eq_true_eq, List.mem_range] at this hi
    simp only [ne_eq, decide_eq_true_eq]; omega)
  simp [State.newestByte, State.committed, firstHeld, f, Memory.read, o]

/-- PressureEvents: a migration under way from an INUSE frame, of a page of zeros. -/
theorem witness_migration_ends : (moving.pressOf 0).move = some move0 ∧ frameIndex move0.src = some (0, 5) ∧ settled.pageSpec move0.src = false ∧
    ftState ((closed (movedPage settled (settled.pageCells move0.src))).ftWord 0 5) = ftInuse := by
  rw [pageCells_of_blank (by decide +kernel) (by decide +kernel)]; decide +kernel

/-- PressureEvents: a migration that a write of MIGRATE starts. -/
theorem witness_migration : let s : State := { entered (pressed {}) 9 0 0 0 with arg := .dieVal 0 0x90001 }
     let s : State := { s with mem := { s.mem with dram := Memory.writeN s.mem.dram 0x50008 (leBytes 8 0x500FD) } }
     let s := s.setCtl (pressBase 0 + 0x80) 8 0x50008
     let u := s.setCtl (pressBase 0 + 0x88) 8 ((0x90001 : BitVec 64) &&& 0x01F3FFFFFFFF0000#64).toNat
     let leaf := u.readEntry (bits (u.pressReg 0 0x80) 49 3 * 8)
     (s.pressOf 0).move = none ∧ (0x90001 : BitVec 64).getLsbD 0 = true ∧ u.destFree (65536 * bits 0x90001 49 16) (bits 0x90001 56 55) = true ∧ leafV leaf = true ∧ leafZ leaf = false ∧ leafWpw leaf = false ∧ u.pageSpec (65536 * leafFrame leaf) = false := by decide +kernel

/-- PressureEvents: a migration whose source comes to hold a speculative frame when the page is settled: a version's store still stands in a tile store. -/
theorem witness_migration_fails : let s : State := { moving with versions := [{ vid := 0x41, state := .live, parent := 0 }] }
    let s := s.modCore 0 fun c => { c with lines := [{ tensor := false, vid := 0x41, lines := [320], cells := [(0x50000, 7)] }] }
    (s.pressOf 0).move = some move0 ∧ ((s.modPress 0 fun p => { p with move := none }).settlePage move0.src).pageSpec move0.src = true := by decide +kernel

/-- A compressed page at 0x10000 that a fibre waits for, its record, and a frame for it. -/
def zoned (p : Press) : State :=
  let f := waits (.hardware .compressedPage 0x10000 true)
  let s := pressed { p with zone := [{ index := 0, gran := 0, kib := 1, cells := [] }] }
  { s with cur := none, arg := .fibre f.key, fibres := [f], mem := { s.mem with dram := Memory.writeN s.mem.dram 0x30000 (leBytes 8 (2 ^ 57 + 0xFD)) } }

/-- PressureEvents, expansions: one that begins, with a free frame and with none, and one that ends, its leaf as it was and written since. -/
theorem witness_expansion : (∀ r ∈ [[6], []], let s := zoned { free := r }
      s.fibre? f0.key = some (waits (.hardware .compressedPage 0x10000 true)) ∧ s.leafAt 0x10000 = some 0x30000 ∧ s.expansionOf 0x30000 = none ∧ leafV (s.readEntry 0x30000) = true ∧ leafZ (s.readEntry 0x30000) = true ∧
        ((s.zoneRec (s.readEntry 0x30000)).any fun x => decide (x.1 = 0) && decide (x.2.index = 0)) = true ∧ (s.pressOf 0).expanding = [] ∧ (s.pressOf 0).free = r) ∧
    (∀ pz ∈ [2 ^ 57 + 0xFD, 2 ^ 57 + 0xBD], let e : Expansion := { leafPa := 0x30000, pz := BitVec.ofNat 64 pz, frame := 6, record := 0 }
     let s : State := { zoned { expanding := [e] } with arg := .num 0x30000 }
     s.expansionOf 0x30000 = some (0, e) ∧ (decide (s.readEntry 0x30000 = e.pz) = decide (pz = 2 ^ 57 + 0xFD)) ∧ (s.pressOf 0).free.length < ringRoom) := by decide +kernel

/-- A queue that evicts: its sequence table and its ring stand in the mapped page, and one sequence has a state. -/
def evicting (st : Nat) : State :=
  let s := mapped s0
  let t := ((({ s with arg := .queue 5 } : State).setCtl (qDesc 5 + 128) 8 0x10000).setCtl (qDesc 5 + 136) 8 0x11000).setCtl (qDesc 5 + 144) 4 1
  { t with mem := { t.mem with dram := Memory.write t.mem.dram 0x10020 (BitVec.ofNat 8 st) } }

/-- EvictionsAndErrors, evictions: for a table of one sequence (its length is the part's own), an active sequence below the low mark, and a victim to reclaim. -/
theorem witness_evictions (h : Config.sequences 5 = 1) : ((evicting 1).evicts 5 = true ∧ ((evicting 1).ringHead 5 ((evicting 1).qKvring 5)).any (fun r => decide (r.count < (evicting 1).qKvlow 5)) = true ∧
      (∀ y ∈ (evicting 1).sequences 5, y.state ≠ 2) ∧ (victimOf (((evicting 1).sequences 5).filter fun y => decide (y.state = 1))).any (fun x => ((evicting 1).kvStore 5 (x.va + 32) [2]).isSome) = true) ∧
    ((evicting 2).evicts 5 = true ∧ (((evicting 2).sequences 5).find? fun y => decide (y.state = 2) && decide (field y.bytes 34 2 = 0)).any
      (fun x => let r := State.reclaim 5 (field x.bytes 0 8) (field x.bytes 8 4) (evicting 2) 0
        r.2 && (r.1.kvStore 5 (x.va + 8) (bytesOf 4 0)).isSome) = true) := by
  unfold State.sequences; rw [h]; decide +kernel

/-- EvictionsAndErrors, errors: a pinned frame, a page without a host copy, one with a host copy, and a line that is refetched. -/
theorem witness_errors : (∀ x ∈ [(4, 0, 0), (1, 0, 0), (1, 0x70000, 0x500FD), (1, 0x70000, 2 ^ 61 + 0x500FD)], let s := entered (pressed {}) 5 x.1 0x50008 x.2.1
      let s : State := { s with arg := .num 320, mem := { s.mem with dram := Memory.writeN s.mem.dram 0x50008 (leBytes 8 x.2.2), refetch := [320], poison := [320, 9] } }
      frameIndex (1024 * 320) = some (0, 5) ∧ ftState (s.ftWord 0 5) = x.1 ∧ s.ftHbpa 0 5 = x.2.1 ∧ ftRf (s.ftWord 0 5) = false ∧ (x.2.2 = 2 ^ 61 + 0x500FD → s.frameLeaf 0 5 = some (BitVec.ofNat 64 x.2.2) ∧ leafHb (BitVec.ofNat 64 x.2.2) = true) ∧
        327680 / 1024 ∈ s.mem.refetch) := by decide +kernel

/-- EvictionsAndErrors: the first retirement of a channel starts; and both sides of the number of stripes, for a part that has any and at most 2^32 - 1. -/
theorem witness_retirement : (let s : State := { pressed {} with arg := .dieVal 0 (BitVec.ofNat 64 (512 + 8 * (31#5).toNat + (5#3).toNat)) }
      0 < s.press.length ∧ (5#3).toNat < 6 ∧ (∀ r ∈ (s.pressOf 0).rebuilds, r.running = false ∧ r.stack ≠ 5)) ∧
    (let s := pressed { rebuilds := [{ stack := 5, chans := [31], running := true }] }
     (∃ r ∈ (s.pressOf 0).rebuilds, r.running = true) ∧ (bits (s.pressReg 0 0x58) 63 32 + 1) % 2 ^ 32 = 1 ∧
       (bits ((s.setCtl (pressBase 0 + 0x5C) 4 (2 ^ 32 - 1)).pressReg 0 0x58) 63 32 + 1) % 2 ^ 32 = 0 ∧ (bits ((s.setCtl (pressBase 0 + 0x5C) 4 (2 ^ 32 - 2)).pressReg 0 0x58) 63 32 + 1) % 2 ^ 32 = 2 ^ 32 - 1) := by decide +kernel

theorem framesUsed_of_blank {s : State} (h : s.mem.frames = [] ∧ s.mem.dram = []) (d top : Nat) : s.framesUsed d top = false := by
  have z : ∀ f, ftState (s.ftWord d f) = 0 := fun f => by unfold State.ftWord; rw [physRead_of_blank h]; decide
  simp [State.framesUsed, z, ftFree]

/-- EvictionsAndErrors: with that retirement, the frames above the new limit are FREE, and no area lies there. -/
theorem witness_retirement_room : let s : State := { State.reset with arg := .dieVal 0 (BitVec.ofNat 64 (512 + 8 * (31#5).toNat + (5#3).toNat)) }
    let u := s.setCtl (pressBase 0 + 0x58) 8 (s.pressReg 0 0x58 / 2 ^ 8 * 2 ^ 8 + 8 * (31#5).toNat + (5#3).toNat)
    (∀ r ∈ (s.pressOf 0).rebuilds, r.running = false ∧ r.stack ≠ 5) ∧ u.framesUsed 0 (u.pressReg 0 0x60 - retireStep) = false ∧ u.areasAbove 0 (u.pressReg 0 0x60 - retireStep) = false :=
  ⟨by decide +kernel, framesUsed_of_blank ⟨rfl, rfl⟩ _ _, by decide +kernel⟩

/-! The front end and the host. -/

/-- Queue 5 with a descriptor in order: a program of one QGO word at 0x12000, a FIFO page at 0x40000 and a budget of 16. -/
def described (en : Nat) : State :=
  let put := fun (s : State) (x : Nat × Nat × Nat) => s.setCtl (qDesc 5 + x.1) x.2.1 x.2.2
  let s := [(8, 1, 4), (9, 1, 10), (10, 1, 8 * en), (12, 4, 8), (16, 8, 0x40000), (24, 8, 0x12000), (32, 2, 1), (34, 2, 16), (56, 1, 4), (122, 1, 1)].foldl put State.reset
  { s with arg := .queue 5, mem := { s.mem with dram := Memory.writeN [] 0x12000 (leBytes 4 0x38000000) } }

/-- The same queue with a state of its own. -/
def queueing (x : Queue) : State := { described 1 with front := { (described 1).front with queues := [{ q := 4, timeline := 9 }, x] } }

/-- HostQueueEvents: doorbells whose value is reached, is the timeline itself, and is one beyond, their vector masked and not; accesses up to the end of the window and of a piece of 64 bytes. -/
theorem witness_host_accesses : (let s := queueing { q := 5, timeline := 7 }
      (s.queue 5).due = [] ∧ (s.queue 5).timeline = 7 ∧ ((s.queue 5).timeline - 8).toInt < 0 ∧ s.masked (5#8).toNat = true ∧ ({ s with front := { s.front with msixTable := [] } } : State).masked (5#8).toNat = false) ∧
    (∀ x ∈ [(0, 64), (2 ^ 34 - 1, 1), (0x1003C, 4)], x.1 + x.2 ≤ 2 ^ 34 ∧ List.replicate x.2 (9 : Byte) ≠ [] ∧ x.1 % 64 + x.2 ≤ 64 ∧ x.1 < 2 ^ 34 ∧
      ∀ i < x.2, s0.secureAt (s0.bar2win.toNat * 2 ^ 34 + x.1 + i) = false ∧ deviceMemory (s0.bar2win.toNat * 2 ^ 34 + x.1 + i) = true) := by decide +kernel

/-- HostQueueEvents: a queue that may be enabled, one whose first field is not in order, and the disabling of one. -/
theorem witness_queue_enable : (let s := described 0
      s.arg = .queue 5 ∧ s.qEnabled 5 = false ∧ s.badField 5 = none ∧ s.badWord 5 (s.readProgram 5) = none ∧ isCanonical s = true) ∧
    (State.reset.qEnabled 5 = false ∧ State.reset.badField 5 = some 8) ∧ (described 1).qEnabled 5 = true ∧ isCanonical (described 1) = true := by decide +kernel

theorem maySeize_of_test {s : State} {q : BitVec 8} (h : (s.qEnabled q && !s.ringStall q && decide ((s.queue q).packet = none)) = true) : maySeize s q := by
  simpa [maySeize, and_assoc] using h

/-- HostQueueEvents: arrivals of a FIFO and of a ring. -/
theorem witness_packet_take : maySeize (queueing { q := 5, arrivals := [.fifo 0 5] }) 5 ∧ maySeize (queueing { q := 5, arrivals := [.ring 0xFFFFFFFF, .ring 0], head := 0xFFFFFFFF }) 5 :=
  ⟨maySeize_of_test (by decide +kernel), maySeize_of_test (by decide +kernel)⟩

/-- HostQueueEvents: a QWAIT and an entry wait whose timelines have come to their values, and a packet that is over. -/
theorem witness_packets : (let p : Packet := { packet0 with stage := .qwait 9 4 }
      let s := queueing { q := 5, packet := some p }
      (s.queue 5).packet = some p ∧ 0 ≤ ((s.queue 4).timeline - 9).toInt) ∧
    (let p : Packet := { packet0 with stage := .entryWait, orig := ((List.replicate 256 0).set 144 9).set 152 4 }
     let s := queueing { q := 5, packet := some p }
     (s.queue 5).packet = some p ∧ 0 ≤ ((s.queue (BitVec.ofNat 8 (leVal ((p.orig.drop 152).take 1)))).timeline - BitVec.ofNat 64 (leVal ((p.orig.drop 144).take 8))).toInt) ∧
    (let x : Flight := { id := 7, seq := 1, record := image, ended := true }
     let s := queueing { q := 5, flights := [x] }
     (s.queue 5).flights = [x] ∧ s.packetOver 5 x = true ∧ x.owes = false ∧ s.ringStall 5 = false) := by decide +kernel

/-! Peers and collectives. -/

/-- PeersAndCollectives: a request that ends at the end of a page, in the root and in a live version; replies to a posted store and to a fibre that waits. -/
theorem witness_peers : (let r : PeerIn := { va := 0x1FFFC, rvid := 0, op := .load 4 }
      let s := mapped { s0 with arg := .request r }
      s.arrivingVid r.rvid = some 0 ∧ r.va.toNat + r.op.size ≤ ownAperture ∧ (match s.engineTranslate { level := .u, secure := false, vid := 0 } r.va r.op.need r.op.size 4 with | .ok _ x => isMemory x.1 | _ => false) = true) ∧
    (speculating f0).arrivingVid 0x41 = some 0x41 ∧
    (let s : State := { s0 with mem := { s0.mem with peers := [{ asked with waits := false, op := .store [1] }] } }
     (s.mem.peers.find? fun x => decide (x.n = 7)) = some { asked with waits := false, op := .store [1] }) ∧
    (let f := waits (.peer 7)
     let s : State := { waitState f with mem := { s0.mem with peers := [asked] } }
     (s.mem.peers.find? fun x => decide (x.n = 7)) = some asked ∧ asked.waits = true ∧ asked.got = none ∧ asked.bad = none ∧ asked.dst = .lanes [7] ∧ asked.acq = 0 ∧ s.fibre? asked.fib = some f ∧ asked.casFailed [1, 2, 3, 4] = false ∧
       (∀ x ∈ s.mem.peers, asked.behind x = false) ∧ (∀ g ∈ s.fibres, g.key = f.key → g = f) ∧ (s.domain (vidDomain (s.fibreVid f))).effects = []) ∧
    (let s : State := { s0 with mem := { s0.mem with peers := [{ asked with dst := .record }] } }
     (s.mem.peers.find? fun x => decide (x.n = 7)) = some { asked with dst := .record } ∧ ∀ x ∈ s.mem.peers, ({ asked with dst := .record } : PeerReq).behind x = false) := by decide +kernel

/-- A table of two nodes, this one its root, at physical address 0x100. -/
def tableBytes : List Byte := [2, 0, 0, 0] ++ List.replicate 12 0 ++ leBytes 8 (0x3FF * 2 ^ 16) ++ leBytes 8 9

/-- The collective engine of the root of that tree. -/
def gathering (c : Coll) : State :=
  let s := mapped { s0 with coll := c }
  let t := ((s.setCtl 0x40 8 0x10000).setCtl 0x50 8 0x18000).setCtl 0x48 8 4
  { t with ctl := Memory.writeN t.ctl (topoDesc 2) tableBytes, mem := { t.mem with dram := Memory.writeN t.mem.dram 0x100 tableBytes } }

/-- A command of the tree: a sum of two 32-bit integers. -/
def coll7 : CollCmd := { n := 7, op := 3, ty := 3, topo := 2, count := 2, dst := 0x14000, doneW := 0x15000, tag := 5, wg := 1, acc := [1, 2] }

/-- The bytes of a command that only the root broadcasts: one word from 0x13000, done at 0x15000, in the tree of slot 2. -/
def gatherBytes (op : Byte) : List Byte := [op, 3, 2, 0] ++ leBytes 4 1 ++ leBytes 8 0x13000 ++ leBytes 8 0x14000 ++ leBytes 8 0x15000 ++ leBytes 4 5 ++ List.replicate 28 0

/-- PeersAndCollectives: a table in order and one that is not; the ring's sizes at their ends; a command that is over; posts at the limit and past it; commands in order and not; partial results that come early and in time. -/
theorem witness_collectives : (let s := gathering {}
      let bs := s.collRead 0x100 (16 + 8 * min (leVal (s.collRead 0x100 2)) 1024)
      bits (0x100 + 2) 49 4 * 16 = 0x100 ∧ tableFault s.station bs = 0 ∧ tableFault s.station (s.collRead 0x90000 (16 + 8 * min (leVal (s.collRead 0x90000 2)) 1024)) ≠ 0) ∧
    (let s := (gathering {}).setCtl 0x48 8 0
     (∀ v ∈ [4, 10], 4 ≤ v % 16 ∧ v % 16 ≤ 10) ∧ s.crLog2 = 0 ∧ (match s.collWrite (s.crNotify + 4) (bytesOf 4 0) with | .done _ => true | _ => false) = true) ∧
    (let c : CollCmd := { coll7 with status := some 1 }
     let s := gathering { cmds := [c] }
     (s.coll.cmds.find? fun x => decide (x.n = 7)) = some c ∧ c.status = some 1 ∧ s.collWrites c = false) ∧
    (let s := gathering { c := 0xFFFFFFF8 }
     ((8 : BitVec 32) - s.coll.c).toNat ≤ 2 ^ s.crLog2 ∧ 2 ^ s.crLog2 < ((9 : BitVec 32) - s.coll.c).toNat) ∧
    (∀ op ∈ [(2 : Byte), 4], let s := gathering { exposed := [(1, 0)], valid := 4 }
     let s : State := { s with mem := { s.mem with dram := Memory.writeN s.mem.dram 0x10000 (gatherBytes op) } }
     s.fenced 1 0 3 = false ∧ (match State.engineFetch (collKey 0) none 2 s s.whoColl (BitVec.ofNat 48 (s.crBase + 64 * (s.coll.c.toNat % 2 ^ s.crLog2))) 64 with
      | .ok s1 bs => (s1.dropReplies (collKey 0)).collOk bs == decide (op = 2) && ((s1.dropReplies (collKey 0)).collBegin bs (1, 0)).isSome | _ => false) = true) ∧
    (let m : CollIn := { topo := 2, tag := 5, msg := .part 1 3 3 2 [10, 20] }
     let s : State := { gathering { cmds := [coll7] } with ctl := Memory.writeN (gathering {}).ctl (topoDesc 2) ([3, 0, 0, 0] ++ List.replicate 12 0 ++ leBytes 8 (0x3FF * 2 ^ 16) ++ leBytes 8 9 ++ leBytes 8 8) }
     (gathering {}).collFor m = none ∧ s.collFor m = some coll7 ∧ (∃ i ∈ s.topoChildren coll7.topo, i ≠ 1 ∧ i ∉ coll7.children) ∧ coll7.sentUp = false ∧ coll7.op ≠ 2) := by decide +kernel

/-! The platform and the step. -/

/-- PlatformEvents: status bits that are set, a temperature at its last value below the limit, and a device that may enter LOW. -/
theorem witness_platform : Memory.wf s0.ctl = true ∧ (BitVec.ofNat 64 ((s0.setCtl 0x28 8 0x8000).ctlNat 0x28 8) &&& 0xFFFF &&& 0xC000) ≠ (0 : BitVec 64) ∧ (List.replicate 48 (7 : Byte)).length = 48 ∧ 109 < 110 ∧ s0.pressOf 0 = {} ∧
    (let s : State := { s0 with arg := .channel 0 3 9 }.setCtl 0x28 8 (2 ^ 14)
     let s : State := s.modPress 0 fun p => { p with rebuilds := [{ stack := 3, chans := [31], running := true }] }
     s.ctlNat 0x28 8 / 2 ^ 14 % 2 = 1 ∧ ((s.pressOf 0).rebuilds.find? fun r => decide (r.stack = 3) && r.running) = some { stack := 3, chans := [31], running := true } ∧ (31 : BitVec 5) ≠ 9) ∧
    Memory.wf s0.front.msixTable = true ∧ (∀ q < 256, State.reset.qEnabled (BitVec.ofNat 8 q) = false) ∧ (∀ w ∈ State.reset.wgs, w.resident = false) := by decide +kernel

/-- StepRunsTheDecodedInstruction: ADD V5, V6, V7 (major 0x01, 02 R40) stands at the pc of the one fibre. -/
theorem witness_fibre_step : let s := State.reset.withFetchWord 32 0x01014307
    let f := first s
    s.agenda = .issue 0 0 0 false :: [] ∧ s.stopped = none ∧ ({ s with agenda := [], late := false } : State).liveMembers c0 = [f] ∧ f.wait = none ∧ f.notBefore ≤ s.clock ∧ f.rep.toNat % 128 = 0 ∧ f.pc.toNat % 4 = 0 ∧
      s.mem.peers = [] ∧ (s.core f.core).mcmds = [] ∧ ({ s with agenda := [], late := false } : State).outranked c0 = false ∧ (({ s with agenda := [], late := false } : State).members c0).all (fun x => !(({ s with agenda := [], late := false } : State).asking x.key)) = true ∧
      (match ({ s with agenda := [], late := false } : State).fetchAt f f.pl f.pc with
       | (u, .ok w) => decide (w = 0x01014307) && (decode w).isSome && (u.groups.all fun g => decide (g.flying = [])) && decide ((u.core f.core).mcmds = []) && decide (u.mem.loads = []) && decide (u.mem.atomics = []) && decide (u.mem.posts = [])
       | _ => false) = true := by decide +kernel

/-- StepRunsTheDecodedInstruction: a queue's program, an event, and a device that has stopped. -/
theorem witness_queue_step : (let s : State := { program packet0 with agenda := [.queue 5], front := { (program packet0).front with queues := [{ q := 5, packet := some packet0, program := [0, 0, 0x38000000] }] } }
      s.agenda = .queue 5 :: [] ∧ s.stopped = none ∧ (s.queue 5).packet = some packet0 ∧ packet0.stage = .program ∧ (s.queue 5).program[packet0.pc]? = some 0x38000000 ∧ decodeQ 0x38000000 = some .qgo) ∧
    ({ s0 with agenda := [.event .deviceReset .none] } : State).agenda = .event .deviceReset .none :: [] ∧ ({ s0 with stopped := some .heat } : State).stopped = some .heat := by decide +kernel

/-- StepsKeepMemoriesCanonical: the state after reset with a word placed is canonical, and it takes a step. -/
theorem witness_canonical_step : isCanonical (State.reset.withFetchWord 32 0x01014307) = true ∧ (match step (State.reset.withFetchWord 32 0x01014307) with | .next t => isCanonical t && decide ((first t).pc = 0x10004) | _ => false) = true := by decide +kernel

/-! Single steps, with the manual's own examples: the words, operands and results are its. -/

/-- The state after a word. -/
def ran (w : Word) (s : State) : State := match decode w with
  | some i => after i s
  | none => s

/-- The flags of the first group. -/
def flags0 (s : State) : FFlags := (s.groups.headD { wg := 0, grp := 0 }).allFlags

/-- The words that the manual encodes in its examples, in the order of its chapters. -/
theorem test_manual_words : decodes
    [(0x30028514, .fadd false false false 10 10 20), (0x4A0C9000, .rep 3 1 1 0), (0x3285408D, .ffma true false false 21 1 13), (0x32830006, .ffma true false false 12 0 6), (0x32480897, .ffma false true false 32 17 23),
     (0x20215678, .li 0x5678 5), (0x21016468, .lih 0x2468 5), (0x20010000, .li 0 4), (0x2000C001, .li 1 3), (0x01010203, .add false false false 4 4 3), (0x1A00C181, .addi 1 3 3), (0x24320184, .icmpi 3 2 0 3 4),
     (0x4417FFFD, .bra false 2 0x7FFFD), (0x4D000000, .fend), (0x46200080, .call 2 0x80), (0x48000000, .ret), (0x4025040C, .cvtn 1 20 8 12), (0x41260A0D, .cvtw 1 24 20 13),
     (0x60010506, .aadd 0 4 5 false 6), (0x60010586, .aadd 0 4 5 true 6), (0x4A0C8200, .rep 3 1 0 1), (0x52020100, .ldw 0 false 8 2 0)] = true ∧ decodes
    [(0x7181BC00, .voteBallot 6 15), (0x73428200, .qswap 1 false 10 4 0), (0x740080C0, .gred false 2 1 8), (0x75000140, .claspDecl 64 2), (0x75600100, .claspArrive 2), (0x76003002, .wdq 6 2),
     (0x7C000020, .topk 0 false 8), (0x7D001128, .launch 17 10), (0x7D801128, .launchSpec 17 10), (0x6C140000, .fence 1 4), (0x6DFFF010, .wait 15 15 15 1), (0x6D000000, .wait 0 0 0 0),
     (0x6E000201, .tagSetf 4 1), (0x6E400200, .tagCons 4 0), (0x6E624200, .tagGet 9 4), (0x6F414506, .gbar 2 5 5 6), (0x7B014307, .versResolve 5 6 7), (0x7B200200, .versPtile 4), (0x7B428300, .versState 10 6),
     (0x4B000007, .trap 7), (0x5E000001, .brk 1), (0x7E000200, .tlbi 4), (0x7E400000, .tlbiAll)] = true := by decide +kernel

/-- The examples of 04 after R96: saturation, high products, and fields that reach the top of the register. -/
theorem test_integer_results : let s := at0 (regs0 [(1, 0x7FFFFFF0), (2, 0x20), (3, 0xFFFFFFFE), (4, 3), (5, 0xF00), (6, 0x408), (7, 0xA0000000), (8, 0x101C)])
    let r := fun (i : Instr) => (first (after i s)).v 9
    r (.add false false true 9 1 2) = 0x7FFFFFFF ∧ r (.add false false false 9 1 2) = 0x80000010 ∧ r (.mulh false false true 9 3 4) = 0xFFFFFFFF ∧ r (.mulh false false false 9 3 4) = 2 ∧
    r (.bfx false false true 9 5 6) = 0xFFFFFFFF ∧ r (.bfx false false false 9 7 8) = 10 := by decide +kernel

/-- The example of R31: the quotient goes toward zero, and a division by zero gives all ones and the dividend. -/
theorem test_division : let s := at0 (regs0 [(1, 0xFFFFFFF9), (2, 2), (3, 7)])
    let r := fun (i : Instr) => (first (after i s)).v 9
    r (.div false false true 9 1 2) = 0xFFFFFFFD ∧ r (.rem false false true 9 1 2) = 0xFFFFFFFF ∧ r (.div false false false 9 3 4) = 0xFFFFFFFF ∧ r (.rem false false false 9 3 4) = 7 ∧
    r (.div false false true 9 1 4) = 0xFFFFFFFF ∧ r (.rem false false true 9 1 4) = 0xFFFFFFF9 := by decide +kernel

/-- The example of R104: LI and then LIH place 0x12345678. -/
theorem test_constant : (first (ran 0x21016468 (ran 0x20215678 s0))).v 5 = 0x12345678 := by decide +kernel

/-- The loop of 04's kernel at its last pass but one: 4 is not above the limit, so the branch goes back by three words. -/
theorem test_compare_and_branch : let t := ran 0x4417FFFD (ran 0x24320184 (at0 (regs0 [(3, 4)])))
    (first t).pword = 0x8004 ∧ (first t).pc = 0x0FFF8 ∧ (first (ran 0x4417FFFD (ran 0x24320184 (at0 (regs0 [(3, 5)]))))).pc = 0x10008 := by decide +kernel

/-- The examples of 01 after R35 and of 05 after R127: overflow, an exact subnormal, and one rounding of FFMA. NX is bit 4 and OF bit 2. -/
theorem test_float_results : let s := at0 (regs0 [(1, 0x7F7FFFFF), (2, 0x00800000), (3, 0x3F000000), (4, 0x3F800001), (9, 0xBF800002)])
    ((first (after (.fadd false false false 9 1 1) s)).v 9 = 0x7F800000 ∧ flags0 (after (.fadd false false false 9 1 1) s) = 0x14) ∧
    ((first (after (.fmul false false false 9 2 3) s)).v 9 = 0x00400000 ∧ flags0 (after (.fmul false false false 9 2 3) s) = 0) ∧
    ((first (after (.ffma false false false 9 4 4) s)).v 9 = 0x28800000 ∧ flags0 (after (.ffma false false false 9 4 4) s) = 0) ∧
    (first (after (.fadd false false false 9 8 9) (after (.fmul false false false 8 4 4) s))).v 9 = 0 := by decide +kernel

/-- The examples of 05 after R130 and R134: a packed sum whose low half overflows, and two classes. -/
theorem test_packed_and_class : let s := at0 (regs0 [(1, 0x3C007BFF), (2, 0x80400000), (4, 1), (5, 0x7FF00000)])
    (first (after (.hadd2 false false false 9 1 1) s)).v 9 = 0x40007C00 ∧ flags0 (after (.hadd2 false false false 9 1 1) s) = 0x14 ∧
    (first (after (.funClass false 9 2) s)).v 9 = 0x10 ∧ (first (after (.dunClass false 9 4) s)).v 9 = 1 := by decide +kernel

/-- The example of R137: toward zero, out of range (NV is bit 0), and a tie that goes into the high half. -/
theorem test_conversions : let s := at0 (regs0 [(1, 0xC0300000), (2, 0x4F32D05E), (3, 0x3F808000)])
    (first (after (.cvtS32F32 false 9 1 1) s)).v 9 = 0xFFFFFFFE ∧ flags0 (after (.cvtS32F32 false 9 1 1) s) = 0x10 ∧ (first (after (.cvtS32F32 false 9 2 1) s)).v 9 = 0x7FFFFFFF ∧
    flags0 (after (.cvtS32F32 false 9 2 1) s) = 1 ∧ (first (after (.cvtBf16F32 false true 9 3 0) s)).v 9 = 0x3F800000 ∧ flags0 (after (.cvtBf16F32 false true 9 3 0) s) = 0x10 := by decide +kernel

/-- A state whose launch record has one format slot word in all places. -/
def slotted (w : Word) (f : Fibre) : State := { at0 f with grids := (at0 f).grids.map fun g => { g with launch := { g.launch with slots := List.replicate 8 w } } }

/-- The example of R141: CVTN packs four elements, and CVTW widens them again. -/
theorem test_slot_conversions : let s := slotted 0x8084 (regs0 [(8, 0x3F800000), (9, 0x43960000), (10, 0xBE99999A), (11, 0x447A0000), (12, 0x3F000000), (13, 0x40000000)])
    let t := ran 0x4025040C s
    (first t).v 20 = 0x7EA27130 ∧ flags0 t = 0x14 ∧ ([24, 25, 26, 27].map (first (ran 0x41260A0D t)).v) = [0x3F800000, 0x43900000, 0xBEA00000, 0x44600000] := by decide +kernel

/-- The table of 03 after R87: 300 and 500 into E4M3 without SAT. -/
theorem test_slot_without_saturation : let s := slotted 0x84 (regs0 [(8, 0x43960000), (9, 0x43FA0000), (10, 0), (11, 0), (12, 0x3F800000)])
    (first (ran 0x4025040C s)).v 20 = 0x00007F79 ∧ flags0 (ran 0x4025040C s) = 0x14 := by decide +kernel

/-- The example of R122: bit 15 of PWORD stays 1. -/
theorem test_write_predicates : (first (ran (0x4F000000 + 9 * 128 + 0x0C) (at0 (regs0 [(9, 5)])))).pword = 0x8005 := by decide +kernel

/-- The example of 04 after R117: a call that moves no block, and the return from it. -/
theorem test_call_and_return : let f : Fibre := { firstFibre 1 0 with alloc := 256, regs := List.replicate 256 0, pc := 0x04001000 }
    let g := first (ran 0x46200080 (at0 (f.setV 0 0x7E000000)))
    g.wb = 16 ∧ g.outer = 16 ∧ g.pc = 0x04001200 ∧ g.v 0 = 0x7E000000 ∧ g.v 126 = 0x04001004 ∧ g.v 127 = 0x00020000 ∧
    (let h := first (ran 0x48000000 (at0 g))
     h.wb = 0 ∧ h.outer = 0 ∧ h.pc = 0x04001004) := by decide +kernel

/-- The example of R29's table: the call to g spills two blocks of eight registers. -/
theorem test_spill : let f : Fibre := { firstFibre 1 0 with alloc := 192, regs := List.replicate 192 3, outer := 32, wb := 32, rstk := 0x11000 }
    let t := ran (0x46000000 + 6 * 2 ^ 20 + 1) (at0 (f.setPair 0 0x18000))
    (first t).wb = 80 ∧ (first t).outer = 64 ∧ (first t).rstk = 0x11040 := by decide +kernel

/-- The example of R225's chapter: QSWAP.V exchanges the pairs of a quad. -/
theorem test_quad_swap : let lane := fun (n v : Nat) => ({ (regs0 [(4, v)]) with lane := n, home := BitVec.ofNat 6 n } : Fibre)
    ((ran 0x73428200 { s0 with fibres := [lane 4 40, lane 5 50, lane 6 60, lane 7 70] }).fibres.map fun f => f.v 10) = [60, 70, 40, 50] := by decide +kernel

/-- The example after R233: the tree of a width-8 FADD gives 16,777,222 everywhere, with NX. -/
theorem test_tree_sum : let lane := fun (n : Nat) => ({ (regs0 [(1, if n = 0 then 0x4B800000 else 0x3F800000)]) with lane := n, home := BitVec.ofNat 6 n } : Fibre)
    let t := ran 0x740080C0 { s0 with fibres := (List.range 8).map lane }
    (t.fibres.map fun f => f.v 2) = List.replicate 8 0x4B800003 ∧ flags0 t = 0x10 := by decide +kernel

/-- The example after R239: ten records from eight keys. -/
theorem test_topk : let keys := [0x40400000, 0x7FC00000, 0x40A00000, 0x40400000, 0x80000000, 0, 0x40E00000, 0xBF800000]
    let s := pad0 f0 []
    let s : State := { s with arg := .num 7, wgs := s.wgs.map (fun w => { w with scratch := Memory.writeN [] 0 (keys.flatMap (leBytes 4)) }), mem := { s.mem with topk := [{ n := 7, wg := 1, src := 0, dst := 0x100, k := 10, cnt := 8, ty := 0, sf := false, vid := 0, fibs := [] }] } }
    ((List.range 20).map fun i => leNat ((after .topkComplete s).padRead 1 (0x100 + 4 * i) 4)) =
      [0x40E00000, 6, 0x40A00000, 2, 0x40400000, 0, 0x40400000, 3, 0x80000000, 4, 0, 5, 0xBF800000, 7, 0x7FC00000, 1, 0, 0xFFFFFFFF, 0, 0xFFFFFFFF] := by decide +kernel

/-- The example of R221: 10 by 7 tiles in bands of height 4. -/
theorem test_tile_order : (∀ x ∈ [(3, 0x00030000), (4, 1), (40, 0x00040000), (69, 0x00060009), (70, 0xFFFFFFFF)], let s := pad0 f0 []
    let s : State := { s with arg := .num 7, grids := s.grids.map (fun g => { g with dist := x.1, launch := { g.launch with wdist := 0x2020007000A } }), mem := { s.mem with wdq := [{ n := 7, wg := 1, grid := 2, off := 0, fibs := [] }] } }
    ((after .workDistributorRequest s).mem.wdq.map fun r => r.answer) = [some x.2]) := by decide +kernel

/-- The table after R262, for a frame of stamp 40 with sectors 2, 3 and 9, one of stamp 52 with sector 3 and sector 2, a private frame of core 5 and one of version 0x81. -/
theorem test_which_frame : let fr := fun (k : FKind) (t : Nat) (c : Nat) (v : VID) (cells : Cells) => ({ line := 64, kind := k, stamp := BitVec.ofNat 64 t, core := c, vid := v, cells := cells } : Frame)
    let s : State := { State.reset with
      versions := [{ vid := 0x81, state := .live, parent := 0 }],
      mem := { State.reset.mem with frames := [fr .committed 40 0 0 [(65536 + 64, 40), (65536 + 96, 40), (65536 + 288, 40)], fr .committed 52 0 0 [(65536 + 64, 52), (65536 + 96, 52)], fr .priv 0 5 0 [(65536 + 64, 5)], fr .spec 0 0 0x81 [(65536 + 96, 81)]] },
      cores := State.reset.cores.map fun c => { c with sigma := 60 } }
    let t := s.modCore 5 fun c => { c with sigma := 45 }
    t.coreByte 5 0x80 [] (65536 + 64) = some 5 ∧ t.coreByte 5 0x80 [] (65536 + 96) = some 40 ∧ t.coreByte 7 0x80 [] (65536 + 96) = some 52 ∧ t.coreByte 7 0x80 [] (65536 + 288) = some 40 ∧
    t.coreByte 7 0x81 [] (65536 + 96) = some 81 ∧ t.coreByte 7 0x81 [] (65536 + 64) = some 52 := by decide +kernel

/-- The example of 10 after R246: offsets in the scratchpads of a cluster. -/
theorem test_cluster_aperture : let s := pad0 f0 []
    let s : State := { s with grids := s.grids.map fun g => { g with launch := { g.launch with gran := 1024, shape := 0x80 } } }
    (s.launch 1).cluster = 4 ∧ s.target 1 0xFFFF12100000 = .bad ∧ s.target 1 0xFFFF10010400 = .pad 1 0x10400 := by decide +kernel

/-- The example after R306: the arrival that completes a generation, and one that waits. -/
theorem test_barrier : let f := ((f0.setPair 10 (BitVec.ofNat 64 ownAperture)).setV 6 4)
    let word := fun (n : Nat) => ({ pad0 f [] with wgs := (pad0 f []).wgs.map fun w => { w with scratch := Memory.writeN [] 0 (leBytes 4 n) } } : State)
    ((first (ran 0x6F414506 (word 3))).v 5 = 0x40000003 ∧ leNat ((ran 0x6F414506 (word 3)).padRead 1 0 4) = 0x00010000) ∧
    ((first (ran 0x6F414506 (word 0x00070000))).wait.map Wait.why) = some .gbar ∧ leNat ((ran 0x6F414506 (word 0x00070000)).padRead 1 0 4) = 0x00070001 := by decide +kernel

/-- The example after R164: ACAS writes when memory holds what it expects, and fails when not. -/
theorem test_compare_and_swap : let f := ((f0.setPair 10 (BitVec.ofNat 64 ownAperture)).setV 20 5).setV 22 9
    let word := fun (n : Nat) => ({ pad0 f [] with wgs := (pad0 f []).wgs.map fun w => { w with scratch := Memory.writeN [] 0 (leBytes 4 n) } } : State)
    let go := fun (n : Nat) => after (.acas 0 20 5 false 22) (word n)
    ((first (go 5)).v 20 = 5 ∧ leNat ((go 5).padRead 1 0 4) = 9) ∧ (first (go 7)).v 20 = 7 ∧ leNat ((go 7).padRead 1 0 4) = 7 := by decide +kernel

/-- The first iteration of 06's example: LDW v8, [v2+0] of the bytes 11 00 00 00. -/
theorem test_load : let s := at0 (f0.setPair 2 0x11000)
    let s : State := { s with mem := { s.mem with dram := Memory.writeN s.mem.dram 0x11000 [0x11] } }
    (first (ran 0x52020100 s)).v 8 = 0x11 := by decide +kernel

/-- The example of R441: TRAP 7 leaves TRAPPC at the instruction, its code in TRAPINFO, and goes to the handler at level H. -/
theorem test_trap : let f := first (ran 0x4B000007 s0)
    f.pl = .h ∧ f.trap.cause = 6 ∧ f.trap.info = 7 ∧ f.trap.pcLo = 0x10000 ∧ f.trap.pcHi = 0 ∧ f.pc = 0x20000 := by decide +kernel

/-- The example before R397: two versions on the path commit, two are squashed, one goes on under the root. -/
theorem test_resolve : let f := (f0.setV 6 0x82).setV 7 0x00040002
    let x := fun (v : VID) (p : BitVec 6) => ({ vid := v, state := .live, parent := p } : Version)
    let t := ran 0x7B014307 { pad0 f [] with versions := [x 0x81 0, x 0x82 1, x 0x83 1, x 0x84 0, x 0x85 2] }
    (first t).v 5 = 0x00020200 ∧ (t.versions.map fun v => v.state) = [.committed, .committed, .squashed, .squashed, .live] ∧ ((t.version? 0x85).map fun v => v.parent) = some 0 ∧ (t.domain 2).accept = 240 := by decide +kernel

/-- The example of R92: the exact sum of a block is kept, and an all-zero scale leaves nothing of it. -/
theorem test_block : let q : Mul := { a := .pad none 0, b := .pad none 0, rowsA := 1, rowsB := 1, ks := 1, total := 3, strA := 0, strB := 0, sa := 0, sb := 0, ca := false, cb := false, row0 := 0, rowsAll := 1 }
    let m := fun (scale : Byte) => ({ seq := 0, whole := 0, wg := 1, src := 1, grp := 0, vid := 0, kind := .mul q, slot := 0x1CE, mode := 1, lo := 0, len := 4, prio := 0, age := 0, since := 0, pc := 0, signers := [],
                                      dataA := [0x78, 0x01, 0xF8], dataB := [0x78, 0x38, 0x78], scaleA := [scale, 0, 0, 0], scaleB := [0, 0, 0, 0] } : MCmd)
    accBlock (m 0) q 0 0 0 0 = 0x3B000000 ∧ accBlock (m 0x80) q 0 0 0 0 = 0 := by decide +kernel

/-- The example of R497: the order of timelines wraps. -/
theorem test_timeline : satisfies 0xFFFFFFFFFFFFFFF0 0x10 = false ∧ (let s : State := { State.reset with front := { State.reset.front with queues := [{ q := 5, timeline := 0xFFFFFFFFFFFFFFF0 }] } }
    ((s.raise 5 0x10).queue 5).timeline = 0x10 ∧ (((s.raise 5 0x10).raise 5 0xFFFFFFFFFFFFFFFF).queue 5).timeline = 0x10) := by decide +kernel

/-- Both orders of R517's example at node 0, which holds 16,777,216.0. -/
theorem test_collective_sum : collCombine 0 (collCombine 0 0x4B800000 0x40000000) 0x3F800000 = 0x4B800002 ∧ collCombine 0 (collCombine 0 0x4B800000 0x3F800000) 0x40000000 = 0x4B800001 := by decide +kernel

/-- The example of R471: one retirement takes TOP of die 0 down by the part's step. -/
theorem test_retirement : State.reset.pressReg 0 0x60 = 0x5A00000000 ∧ State.reset.pressReg 0 0x60 - retireStep = 0x5988000000 := by decide +kernel

/-- R265 to R267 of HBM and R21: what a fibre has at reset, and a register outside its window: REGS of 16 gives ILLEGAL_OPERAND (cause 3) to V16. -/
theorem test_register_range : let f : Fibre := { f0 with alloc := 16, regs := List.replicate 16 0 }
    (first (after (.li 1 16) (at0 f))).pl = .h ∧ (first (after (.li 1 15) (at0 f))).v 15 = 1 := by decide +kernel

/-- NOP only goes on, and FEND ends the fibre (R118, R119). -/
theorem test_nop_and_end : (first (after .nop s0)).pc = 0x10004 ∧ (first (after .nop s0)).regs = f0.regs ∧ (first (after .fend s0)).run = .ended := by decide +kernel

end Sys2Proof.Tests
end

section
/-! SUPPORT. Compares and words on predicates, k registers and branches (04 R101 to R113): the model's operations in the arithmetic of the statements, and the proofs of those statements. -/

namespace Sys2Proof.Proofs.IntegerAndControl

open Sys2Proof Sys2Proof.Machine Sys2Proof.Claims

/-! Predicates (R15, R102, R104). -/

theorem toNat_ne_fifteen {i : BitVec 4} (h : i ≠ 15) : i.toNat ≠ 15 := fun e => h (BitVec.eq_of_toNat_eq e)

theorem p_eq_pred (f : Fibre) (i : BitVec 4) : f.p i.toNat = pred f i := by
  by_cases h : i = 15
  · subst h; rfl
  · simp only [pred, Fibre.p, if_neg h, decide_eq_false (toNat_ne_fifteen h), Bool.false_or, BitVec.getLsbD, Nat.testBit_eq_decide_div_mod_eq]

/-- Bit j of a number whose bit i has been replaced. -/
theorem testBit_replaceBit (n i j : Nat) (b : Bool) :
    (n / 2 ^ (i + 1) * 2 ^ (i + 1) + b.toNat * 2 ^ i + n % 2 ^ i).testBit j = if j = i then b else n.testBit j := by
  have split : n / 2 ^ (i + 1) * 2 ^ (i + 1) + b.toNat * 2 ^ i + n % 2 ^ i = 2 ^ i * Nat.bit b (n / 2 ^ (i + 1)) + n % 2 ^ i := by
    rw [Nat.bit_val, pow_succ]; ring
  rw [split, Nat.testBit_two_pow_mul_add _ (Nat.mod_lt _ (Nat.two_pow_pos i))]
  rcases Nat.lt_trichotomy j i with below | rfl | above
  · simp [below, below.ne]
  · simp
  · obtain ⟨k, rfl⟩ := Nat.exists_eq_add_of_lt above
    have shift : i + k + 1 - i = k + 1 := by omega
    have back : k + (i + 1) = i + k + 1 := by omega
    rw [if_neg above.not_gt, if_neg above.ne', shift, Nat.testBit_bit_succ, Nat.testBit_div_two_pow, back]

/-- Bit j of a predicate word in which the model has set or cleared bit i. -/
theorem getLsbD_setBit (w : BitVec 16) (i j : Nat) (hj : j < 16) (v : Bool) :
    (if v then w ||| (1#16 <<< i) else w &&& ~~~(1#16 <<< i)).getLsbD j = if j = i then v else w.getLsbD j := by
  have one : (1#16 <<< i).getLsbD j = decide (j = i) := by
    rw [← BitVec.twoPow_eq, BitVec.getLsbD_twoPow]
    by_cases e : j = i
    · simp [← e, hj]
    · simp [e, Ne.symm e]
  cases v
  · rw [if_neg Bool.false_ne_true, BitVec.getLsbD_and, BitVec.getLsbD_not, one]
    by_cases e : j = i <;> simp [e, hj]
  · rw [if_pos rfl, BitVec.getLsbD_or, one]
    by_cases e : j = i <;> simp [e]

theorem setP_eq_withPred (f : Fibre) (i : BitVec 4) (v : Bool) : f.setP i.toNat v = { f with pword := withPred f.pword i v } := by
  by_cases h : i = 15
  · subst h; rfl
  · have word : (if v then f.pword ||| (1#16 <<< i.toNat) else f.pword &&& ~~~(1#16 <<< i.toNat)) = withPred f.pword i v := by
      apply BitVec.eq_of_getLsbD_eq
      intro j hj
      rw [getLsbD_setBit _ _ _ hj, withPred, if_neg h, BitVec.getLsbD_ofNat, testBit_replaceBit, decide_eq_true hj, Bool.true_and, BitVec.getLsbD]
    rw [Fibre.setP, if_neg (toNat_ne_fifteen h), word]

theorem combine_eq_combined (e : BitVec 2) (old new : Bool) : combine e old new = combined e old new := by
  revert e old new; decide

/-! Conditions of the integer compares (R101). -/

theorem any_common_bit {w : Nat} (x y : BitVec w) : ((List.range w).any fun i => x.getLsbD i && y.getLsbD i) = decide (x &&& y ≠ 0) := by
  rw [Bool.eq_iff_iff, List.any_eq_true, decide_eq_true_iff]
  constructor
  · rintro ⟨i, _, h⟩ e
    rw [← BitVec.getLsbD_and, e] at h
    simp at h
  · intro ne
    by_contra none
    refine ne (BitVec.eq_of_getLsbD_eq fun i hi => ?_)
    rw [BitVec.getLsbD_and, BitVec.ofNat_eq_ofNat, BitVec.getLsbD_zero, ← Bool.not_eq_true]
    exact fun h => none ⟨i, List.mem_range.2 hi, h⟩

theorem condition_code_cases (c : BitVec 4) :
    c = 0 ∨ c = 1 ∨ c = 2 ∨ c = 3 ∨ c = 4 ∨ c = 5 ∨ c = 6 ∨ c = 7 ∨ c = 8 ∨ c = 9 ∨ c = 10 ∨ c = 11 ∨ c = 12 ∨ c = 13 ∨ c = 14 ∨ c = 15 := by
  revert c; decide

/-- The ordered conditions are the same comparisons of toInt and toNat in both; equality and the tests of common bits are spelled differently. -/
theorem intCond_eq_condition (w : Nat) (c : BitVec 4) (x y : BitVec w) : intCond w c.toNat x y = condition w c x y := by
  have noCommon : decide (x &&& y = 0) = !((List.range w).any fun i => x.getLsbD i && y.getLsbD i) := by
    rw [any_common_bit]; simp
  rcases condition_code_cases c with rfl | rfl | rfl | rfl | rfl | rfl | rfl | rfl | rfl | rfl | rfl | fromEleven
  · show decide (x = y) = decide (x.toNat = y.toNat)
    simp only [BitVec.toNat_inj]
  · show decide (x ≠ y) = decide (x.toNat ≠ y.toNat)
    simp only [ne_eq, BitVec.toNat_inj]
  · rfl
  · rfl
  · rfl
  · rfl
  · rfl
  · rfl
  · rfl
  · rfl
  · exact (any_common_bit x y).symm
  · rcases fromEleven with rfl | rfl | rfl | rfl | rfl <;> exact noCommon

/-- What an integer compare leaves of a fibre (R101, R102). -/
theorem compared_intCond (f : Fibre) (p : BitVec 4) (e : BitVec 2) {w : Nat} (c : BitVec 4) (x y : BitVec w) :
    f.compared p e (intCond w c.toNat x y) = { f with pword := withPred f.pword p (combined e (pred f p) (condition w c x y)) } := by
  rw [Fibre.compared, setP_eq_withPred, combine_eq_combined, p_eq_pred, intCond_eq_condition]

theorem icmpiImm_eq (c : BitVec 4) (i : BitVec 7) :
    icmpiImm c.toNat i = BitVec.ofInt 32 (if 6 ≤ c.toNat ∧ c.toNat ≤ 9 then (i.toNat : Int) else i.toInt) := by
  unfold icmpiImm
  split
  · rw [BitVec.ofInt_natCast, BitVec.ofNat_toNat]
  · rfl

/-! The compares and the words on predicates, one by one. -/

section
variable {s : State} {c : Issue} (cur : s.cur = some c)
include cur

/-- An instruction that issues for each fibre on its own, faults in none and raises no flag moves its entry on. -/
theorem exec_moved {i : Instr} {op : State → Issue → Fibre → Except Trap Lane} {F : Fibre → Fibre} (arm : exec i s = .next (s.issueLane op))
    (ok : ∀ f ∈ s.fibres, f.inEntry c = true → ∃ r, op s c f = .ok r ∧ r.f = F f ∧ r.flags = 0) : exec i s = .next (s.moved c F) := by
  rw [arm, s.issueLane_moved c op F cur ok]

theorem exec_icmp (cc p : BitVec 4) (e : BitVec 2) (a b : BitVec 7) (may : s.each c fun f => f.may a.toNat && f.may b.toNat) :
    exec (.icmp cc p e a b) s = .next (s.moved c fun f =>
      { f with pword := withPred f.pword p (combined e (pred f p) (condition 32 cc (f.v a.toNat) (f.v b.toNat))) }) :=
  exec_moved cur rfl fun f mem inside =>
    ⟨_, if_pos (may f mem inside), compared_intCond f p e cc _ _, rfl⟩

theorem exec_icmpw (cc p : BitVec 4) (e : BitVec 2) (a b : BitVec 7) (may : s.each c fun f => f.mayPair a.toNat && f.mayPair b.toNat) :
    exec (.icmpw cc p e a b) s = .next (s.moved c fun f =>
      { f with pword := withPred f.pword p (combined e (pred f p) (condition 64 cc (f.pair a.toNat) (f.pair b.toNat))) }) :=
  exec_moved cur rfl fun f mem inside =>
    ⟨_, if_pos (may f mem inside), compared_intCond f p e cc _ _, rfl⟩

theorem exec_icmpi (cc p : BitVec 4) (e : BitVec 2) (a i : BitVec 7) (may : s.each c fun f => f.may a.toNat) :
    exec (.icmpi cc p e a i) s = .next (s.moved c fun f =>
      let im : Int := if 6 ≤ cc.toNat ∧ cc.toNat ≤ 9 then i.toNat else i.toInt
      { f with pword := withPred f.pword p (combined e (pred f p) (condition 32 cc (f.v a.toNat) (BitVec.ofInt 32 im))) }) :=
  exec_moved cur rfl fun f mem inside =>
    ⟨_, if_pos (may f mem inside), by rw [compared_intCond, icmpiImm_eq], rfl⟩

theorem exec_plog (t p x y : BitVec 4) :
    exec (.plog t p x y) s = .next (s.moved c fun f =>
      { f with pword := withPred f.pword p (t.getLsbD (2 * (pred f x).toNat + (pred f y).toNat)) }) :=
  exec_moved cur rfl fun f _ _ =>
    ⟨_, rfl, by rw [setP_eq_withPred, truthTable, p_eq_pred, p_eq_pred], rfl⟩

theorem exec_pmovToPred (h g : Bool) (p : BitVec 4) (a : BitVec 7) (may : s.each c fun f => f.may a.toNat) :
    exec (.pmovToPred h g p a) s = .next (s.moved c fun f => { f with pword := withPred f.pword p (decide (f.v a.toNat ≠ 0)) }) :=
  exec_moved cur rfl fun f mem inside =>
    ⟨_, if_pos (may f mem inside), setP_eq_withPred f p _, rfl⟩

theorem exec_pmovToLane (h g : Bool) (d : BitVec 7) (p : BitVec 4) (may : s.each c fun f => f.may d.toNat) :
    exec (.pmovToLane h g d p) s = .next (s.moved c fun f => f.setV d.toNat (if pred f p then 1 else 0)) :=
  exec_moved cur rfl fun f mem inside =>
    ⟨_, if_pos (may f mem inside), by rw [p_eq_pred], rfl⟩

/-- SEL names one of p0 to p7, which its three bits number (R106). -/
theorem exec_sel (q : BitVec 3) (d a b : BitVec 7) (may : s.each c fun f => f.may d.toNat && f.may a.toNat && f.may b.toNat) :
    exec (.sel q d a b) s = .next (s.moved c fun f => f.setV d.toNat (if pred f (q.setWidth 4) then f.v a.toNat else f.v b.toNat)) :=
  have number : q.toNat = (q.setWidth 4).toNat := (BitVec.toNat_setWidth_of_le (by decide)).symm
  exec_moved cur rfl fun f mem inside =>
    ⟨_, if_pos (may f mem inside), by rw [number, p_eq_pred], rfl⟩

end

/-- Settles O3: each word is a lane step that faults in no fibre and raises no flag, and its result is the statement's. -/
theorem comparesAndPredicateWords : Obligations.ComparesAndPredicateWords := by
  intro s c h g cc t p x y e q d a b i cur
  exact ⟨exec_icmp cur cc p e a b,
    fun may => ⟨exec_icmpi cur cc p e a i may, exec_pmovToPred cur h g p a may⟩,
    exec_icmpw cur cc p e a b, exec_plog cur t p x y, exec_pmovToLane cur h g d p, exec_sel cur q d a b⟩

/-! k registers (R107 to R110). -/

theorem kalu_code_cases (o : BitVec 3) : o = 0 ∨ o = 1 ∨ o = 2 ∨ o = 3 ∨ o = 4 ∨ o = 5 ∨ o = 6 ∨ o = 7 := by
  revert o; decide

theorem kaluResult_eq (o : BitVec 3) (x y : DWord) : kaluResult o x y = BitVec.ofNat 64 (kaluOf o x.toNat y.toNat) := by
  apply BitVec.eq_of_toNat_eq
  rcases kalu_code_cases o with rfl | rfl | rfl | rfl | rfl | rfl | rfl | rfl
  · show (x + y).toNat = (BitVec.ofNat 64 (x.toNat + y.toNat)).toNat
    simp
  · show (x - y).toNat = (BitVec.ofNat 64 (x.toNat + 2 ^ 64 - y.toNat)).toNat
    simp only [BitVec.toNat_sub, BitVec.toNat_ofNat]
    omega
  · show (x &&& y).toNat = (BitVec.ofNat 64 (x.toNat &&& y.toNat)).toNat
    rw [← BitVec.toNat_and, BitVec.ofNat_toNat, BitVec.setWidth_eq]
  · show (x ||| y).toNat = (BitVec.ofNat 64 (x.toNat ||| y.toNat)).toNat
    rw [← BitVec.toNat_or, BitVec.ofNat_toNat, BitVec.setWidth_eq]
  · show (x ^^^ y).toNat = (BitVec.ofNat 64 (x.toNat ^^^ y.toNat)).toNat
    rw [← BitVec.toNat_xor, BitVec.ofNat_toNat, BitVec.setWidth_eq]
  · show (if y.toNat < 64 then x <<< y.toNat else 0).toNat = (BitVec.ofNat 64 (if y.toNat < 64 then x.toNat * 2 ^ y.toNat else 0)).toNat
    split
    · simp [Nat.shiftLeft_eq]
    · rfl
  · show (if y.toNat < 64 then x >>> y.toNat else 0).toNat = (BitVec.ofNat 64 (if y.toNat < 64 then x.toNat / 2 ^ y.toNat else 0)).toNat
    split
    · rw [← Nat.shiftRight_eq_div_pow, ← BitVec.toNat_ushiftRight, BitVec.ofNat_toNat, BitVec.setWidth_eq]
    · rfl
  · show (x * y).toNat = (BitVec.ofNat 64 (x.toNat * y.toNat)).toNat
    simp

theorem add_signExtend_eq (x : DWord) (i : BitVec 10) : x + i.signExtend 64 = BitVec.ofInt 64 (x.toInt + i.toInt) := by
  rw [BitVec.ofInt_add, BitVec.ofInt_toInt]; rfl

theorem lowestLane_eq_none {fs : List Fibre} (h : lowestLane fs = none) : fs = [] := by
  cases fs with
  | nil => rfl
  | cons x r =>
    simp only [lowestLane] at h
    split at h
    · cases h
    · split at h <;> cases h

theorem lowestLane_spec {fs : List Fibre} {g : Fibre} (h : lowestLane fs = some g) : g ∈ fs ∧ ∀ x ∈ fs, g.lane ≤ x.lane := by
  induction fs generalizing g with
  | nil => cases h
  | cons x r ih =>
    simp only [lowestLane] at h
    split at h
    next e =>
      cases h
      simp [lowestLane_eq_none e]
    next y e =>
      obtain ⟨mem, le⟩ := ih e
      split at h <;> cases h
      next lt => exact ⟨.tail _ mem, List.forall_mem_cons.2 ⟨lt.le, le⟩⟩
      next ge => exact ⟨.head _, List.forall_mem_cons.2 ⟨le_rfl, fun z mz => (not_lt.1 ge).trans (le z mz)⟩⟩

theorem lowestLane_eq_some {fs : List Fibre} {f : Fibre} (mem : f ∈ fs) (lowest : ∀ x ∈ fs, x ≠ f → f.lane < x.lane) : lowestLane fs = some f := by
  cases e : lowestLane fs with
  | none => rw [lowestLane_eq_none e] at mem; cases mem
  | some g =>
    obtain ⟨memG, le⟩ := lowestLane_spec e
    by_contra ne
    exact absurd (lowest g memG fun h => ne (congrArg some h)) (not_lt.2 (le f mem))

section
variable {s : State} {c : Issue} {g : Nat × Nat} (one : s.OneGroup c g)
include one

/-- A per-group instruction that the one group of the entry completes. -/
theorem exec_groupOn {i : Instr} {op : State → Issue → Nat × Nat → List Fibre → Seq} {t : State} (arm : exec i s = .next (s.issueGroups op))
    (answer : op s c g (s.share c g) = .done t) : exec i s = .next (t.groupOn c g) := by
  rw [arm, one.done answer]

theorem exec_kalu (o : BitVec 3) {d a b : BitVec 7} (hd : d.toNat < 32) (ha : a.toNat < 32) (hb : b.toNat < 32) :
    exec (.kalu o d a b) s = .next ((s.modGroup g.1 g.2 fun x =>
      { x with kregs := x.kregs.set d.toNat (BitVec.ofNat 64 (kaluOf o (x.kregs.getD a.toNat 0).toNat (x.kregs.getD b.toNat 0).toNat)) }).groupOn c g) := by
  simp only [← kaluResult_eq]
  exact exec_groupOn one rfl (if_pos ⟨hd, ha, hb⟩)

theorem exec_kaddi (i : BitVec 10) (kd ka : BitVec 5) :
    exec (.kaddi i kd ka) s = .next ((s.modGroup g.1 g.2 fun x =>
      { x with kregs := x.kregs.set kd.toNat (BitVec.ofInt 64 ((x.kregs.getD ka.toNat 0).toInt + i.toInt)) }).groupOn c g) := by
  simp only [← add_signExtend_eq]
  exact exec_groupOn one rfl rfl

theorem exec_kmovToK (h : Bool) (kd : BitVec 5) {a : BitVec 7} {f : Fibre} (mem : f ∈ s.share c g)
    (lowest : ∀ x ∈ s.share c g, x ≠ f → f.lane < x.lane) (may : f.mayPair a.toNat = true) :
    exec (.kmovToK h kd a) s = .next ((s.modGroup g.1 g.2 fun x => { x with kregs := x.kregs.set kd.toNat (f.pair a.toNat) }).groupOn c g) := by
  have answer : groupKmovToK kd a s c g (s.share c g) = .done (s.modGroup g.1 g.2 fun x => x.setK kd.toNat (f.pair a.toNat)) := by
    rw [groupKmovToK, lowestLane_eq_some mem lowest]
    exact if_pos may
  exact exec_groupOn one rfl answer

end

/-- Settles O10: the one group of the entry completes each word, which has written one k register of it. -/
theorem groupRegisterWords : Obligations.GroupRegisterWords := by
  intro s c g h o i kd ka d a b one
  exact ⟨exec_kalu one o, exec_kaddi one i kd ka, fun _ mem lowest may => exec_kmovToK one h kd mem lowest may⟩

/-! Transfers of control (R37, R112, R113, R200). -/

theorem wordAt_toNat (pc : VA) : (wordAt pc).toNat = pc.toNat / 4 * 4 := by
  have shifts : wordAt pc = pc >>> 2 <<< 2 := by
    apply BitVec.eq_of_getLsbD_eq
    intro i hi
    have mask : (~~~(3 : VA)).getLsbD i = decide (2 ≤ i) := by
      revert i; decide
    rw [wordAt, BitVec.getLsbD_and, mask, BitVec.getLsbD_shiftLeft, BitVec.getLsbD_ushiftRight]
    by_cases above : 2 ≤ i
    · simp [hi, above, not_lt.2 above, Nat.add_sub_of_le above]
    · simp [above, not_le.1 above]
  have lt := pc.isLt
  simp only [shifts, BitVec.toNat_shiftLeft, BitVec.toNat_ushiftRight, Nat.shiftLeft_eq, Nat.shiftRight_eq_div_pow]
  omega

theorem relative_eq (f : Fibre) (o : Int) : relative f.pc o = vaNat (wordOf f + 4 * o) := by
  have word : wordAt f.pc = BitVec.ofInt 48 (wordOf f) := by
    rw [wordOf, ← wordAt_toNat, BitVec.ofInt_natCast, BitVec.ofNat_toNat, BitVec.setWidth_eq]
  rw [relative, word, vaNat, BitVec.ofInt_add]

/-- The state in which each live fibre of the issuing entry has become what `F` makes of it, before the entry settles. -/
def sent (s : State) (c : Issue) (F : Fibre → Fibre) : State :=
  { s with fibres := s.fibres.map fun f => if f.inEntry c && decide (f.run = .live) then { F f with wait := none } else f }

theorem jumpStep_ok {s : State} {c : Issue} {op : State → Issue → Fibre → Except Trap Fibre} {F : Fibre → Fibre} {f : Fibre}
    (ok : f.inEntry c = true → f.run = .live → op s c f = .ok (F f)) :
    s.jumpStep c op f = if f.inEntry c && decide (f.run = .live) then { F f with wait := none } else f := by
  unfold State.jumpStep Fibre.live
  by_cases h : (f.inEntry c && decide (f.run = .live)) = true
  · obtain ⟨inside, live⟩ := Bool.and_eq_true_iff.1 h
    rw [if_pos h, if_pos h, ok inside (of_decide_eq_true live)]
  · rw [if_neg h, if_neg h]

section
variable {s : State} {c : Issue} {op : State → Issue → Fibre → Except Trap Fibre} {F : Fibre → Fibre} (cur : s.cur = some c)
  (ok : ∀ f ∈ s.fibres, f.inEntry c = true → f.run = .live → op s c f = .ok (F f))
include cur ok

/-- A transfer of control that faults in no live fibre: each goes where the word says, and the entry settles (R200). -/
theorem issueJump_settles (keeps : Option (Fibre → Bool)) : ∃ keep, s.issueJump op keeps = (sent s c F).settle c keep := by
  have steps : ({ s with fibres := s.fibres.map (s.jumpStep c op) } : State) = sent s c F :=
    congrArg (fun l => ({ s with fibres := l } : State)) (List.map_congr_left fun f mem => jumpStep_ok (ok f mem))
  unfold State.issueJump
  split
  next idle => cases cur.symm.trans idle
  next issue busy =>
    obtain rfl : c = issue := Option.some.inj (cur.symm.trans busy)
    dsimp only
    rw [List.filterMap_eq_nil_iff.2, steps, State.takeTraps_nil]
    · exact ⟨_, rfl⟩
    · intro f member
      obtain ⟨member, live⟩ := List.mem_filter.1 member
      obtain ⟨mem, inside⟩ := (s.mem_members c f).1 member
      rw [ok f mem inside (of_decide_eq_true live)]

theorem issueJump_went (keeps : Option (Fibre → Bool)) : Claims.Went s c F (s.issueJump op keeps) := by
  obtain ⟨keep, settles⟩ := issueJump_settles cur ok keeps
  rw [settles]
  exact (sent s c F).settle_reseated c keep

end

theorem jumpBra_eq (sense : Bool) (p : BitVec 4) (o : BitVec 19) (s : State) (c : Issue) (f : Fibre) :
    jumpBra sense p o s c f = .ok { f with pc := if pred f p = sense then (nextOf c f).1 else vaNat (wordOf f + 4 * o.toInt) } := by
  rw [jumpBra, Fibre.taken, p_eq_pred, relative_eq]
  by_cases h : pred f p = sense <;> simp [h]

theorem jumpBrx_even (a : BitVec 7) (s : State) (c : Issue) (f : Fibre) (may : f.mayPair a.toNat = true) (even : (f.pair a.toNat).toNat % 2 = 0) :
    jumpBrx a s c f = .ok { f with pc := BitVec.ofNat 48 (f.pair a.toNat).toNat } := by
  have low : ((f.pair a.toNat).setWidth 48).getLsbD 0 = false := by
    rw [BitVec.getLsbD_setWidth, BitVec.getLsbD, Nat.testBit_zero, even]; rfl
  simp only [jumpBrx, may, low, Bool.not_true, Bool.false_eq_true, if_false, BitVec.ofNat_toNat]

/-- Settles O24: both words are transfers that fault in no live fibre, and their targets are the statement's. -/
theorem branches : Obligations.Branches := by
  intro s c sense h g p o a cur
  refine ⟨⟨_, rfl, issueJump_went cur (fun f _ _ _ => jumpBra_eq sense p o s c f) _⟩, fun targets => ⟨_, rfl, issueJump_went cur (fun f mem inside live => ?_) _⟩⟩
  have target := targets f mem inside
  simp only [live, ne_eq, not_true_eq_false, decide_false, Bool.false_or, Bool.and_eq_true, decide_eq_true_eq] at target
  exact jumpBrx_even a s c f target.1 target.2

end Sys2Proof.Proofs.IntegerAndControl
end
